-- ==== Sys2Proof/Word.lean ====
section
/-! DEFINITION. The word types of the data sizes of R3 and the plainest arithmetic on them. -/

namespace Sys2Proof

/-- A byte (R3). -/
abbrev Byte := BitVec 8
/-- A half (R3). -/
abbrev Half16 := BitVec 16
/-- A word (R3): a register, a lane's value. -/
abbrev Word := BitVec 32
/-- A dword (R3): an instruction word, a page-table entry. -/
abbrev Dword := BitVec 64
/-- One bit for each of a group's 32 lanes (R15). -/
abbrev LaneMask := BitVec 32

/-- The number of lanes of a group (R15). -/
abbrev lanes : Nat := 32

/-- Whether lane `l` is in the mask `m`. -/
def LaneMask.has (m : LaneMask) (l : Nat) : Bool := m.getLsbD l

/-- The lanes of a mask in ascending order. -/
def LaneMask.toList (m : LaneMask) : List Nat := (List.range 32).filter (fun l => m.getLsbD l)

/-- The mask of the lanes for which `f` holds. -/
def LaneMask.ofFn (f : Nat → Bool) : LaneMask :=
  (List.range 32).foldl (fun m l => if f l then m ||| (1#32 <<< l) else m) 0#32

/-- The lowest lane of a mask, or 0 when it is empty. -/
def LaneMask.lowest (m : LaneMask) : Nat := (LaneMask.toList m).headD 0

end Sys2Proof
end

