-- ==== Sys2Proof/Machine/Causes.lean ====
section
/-! DEFINITION. The cause codes of R341 and R343. -/

namespace Sys2Proof.Machine

/-- A cause code: class [9:7], cause [6:2], source [1:0] (R340). -/
abbrev Cause := BitVec 10

namespace Causes

abbrev illegalOpcode : Cause := 0x000
abbrev illegalModifier : Cause := 0x004
abbrev reservedRegister : Cause := 0x008
abbrev pairBank : Cause := 0x00C
abbrev unsettledRead : Cause := 0x010
abbrev indexBound : Cause := 0x014
abbrev privilege : Cause := 0x018
abbrev phaseIllegal : Cause := 0x080
abbrev straggler : Cause := 0x084
abbrev scalarDiverged : Cause := 0x088
abbrev groupDiverged : Cause := 0x08C
abbrev divergentUniform : Cause := 0x090
abbrev reconvOverflow : Cause := 0x094
abbrev misalignedTarget : Cause := 0x098
abbrev barrierSequence : Cause := 0x09C
abbrev nestingDepth : Cause := 0x0A0
abbrev launchNotLeader : Cause := 0x0A4
abbrev childDenied : Cause := 0x0A8
abbrev childLimit : Cause := 0x0AC
abbrev invalidChild : Cause := 0x0B0
abbrev allocationLimit : Cause := 0x0B4
abbrev trapInHandler : Cause := 0x0B8
abbrev contextRemoved : Cause := 0x0F3
abbrev halt : Cause := 0x0F4
abbrev fpException : Cause := 0x100
abbrev emptySlot : Cause := 0x104
abbrev slotKind : Cause := 0x108
abbrev formatOperand : Cause := 0x10C
abbrev affineFormat : Cause := 0x180
abbrev symbolExhaustion : Cause := 0x184
abbrev symbolRelease : Cause := 0x188
abbrev misalignedAccess : Cause := 0x200
abbrev scratchRange : Cause := 0x204
abbrev vaultRange : Cause := 0x208
abbrev addressForm : Cause := 0x20C
abbrev translationFault : Cause := 0x210
abbrev writeProtect : Cause := 0x214
abbrev bounceFull : Cause := 0x218
abbrev firmGather : Cause := 0x21C
abbrev residency : Cause := 0x220
abbrev codeFetch : Cause := 0x224
abbrev atomicFull : Cause := 0x228
abbrev uncorrectableData : Cause := 0x22B
abbrev invalidCopyTag : Cause := 0x280
abbrev copyFault : Cause := 0x285
abbrev decodeFault : Cause := 0x289
abbrev matrixOwner : Cause := 0x28C
abbrev accumRange : Cause := 0x290
abbrev weightTable : Cause := 0x294
abbrev matrixFault : Cause := 0x299
abbrev matrixSequence : Cause := 0x29C
abbrev cruiserConfig : Cause := 0x2A0
abbrev cruiserBusy : Cause := 0x2A4
abbrev cruiserFault : Cause := 0x2A9
abbrev coverageForm : Cause := 0x300
abbrev tileState : Cause := 0x304
abbrev tileOwner : Cause := 0x308
abbrev tileMismatch : Cause := 0x30C
abbrev pathOrder : Cause := 0x310
abbrev clipOverflow : Cause := 0x314
abbrev clipUnderflow : Cause := 0x318
abbrev tileRegion : Cause := 0x31C
abbrev tileFault : Cause := 0x321
abbrev exchangeOperand : Cause := 0x380
abbrev exchangeAddress : Cause := 0x386
abbrev transferFault : Cause := 0x38A
abbrev drainStaging : Cause := 0x38E
abbrev deadlineMiss : Cause := 0x392
abbrev scopeDemotion : Cause := 0x394
abbrev softwareTrap : Cause := 0x3C0
abbrev breakpoint : Cause := 0x3C4
abbrev watchpoint : Cause := 0x3C8

/-- The launch faults (R343), in the order in which R96 is checked. -/
abbrev launchTag : Cause := 0x0C3
abbrev launchReserved : Cause := 0x0C7
abbrev launchAlign : Cause := 0x0CB
abbrev launchFlags : Cause := 0x0CF
abbrev launchRange : Cause := 0x0D3
abbrev launchFit : Cause := 0x0D7
abbrev launchSize : Cause := 0x0DB
abbrev launchSlot : Cause := 0x0DF
abbrev launchDclass : Cause := 0x0E3
abbrev launchTail : Cause := 0x0E7
abbrev launchDepcnt : Cause := 0x0EB
abbrev launchRead : Cause := 0x0EF

/-- Every cause that some source raises (R340, R341, R343). -/
def raised : List Cause :=
  [illegalOpcode, illegalModifier, reservedRegister, pairBank, unsettledRead, indexBound, privilege,
   phaseIllegal, straggler, scalarDiverged, groupDiverged, divergentUniform, reconvOverflow,
   misalignedTarget, barrierSequence, nestingDepth, launchNotLeader, childDenied, childLimit,
   invalidChild, allocationLimit, trapInHandler, contextRemoved, halt] ++
  [fpException, emptySlot, slotKind, formatOperand, affineFormat, symbolExhaustion, symbolRelease,
   misalignedAccess, scratchRange, vaultRange, addressForm, translationFault, writeProtect, bounceFull,
   firmGather, residency, codeFetch, atomicFull, uncorrectableData] ++
  [invalidCopyTag, copyFault, decodeFault, matrixOwner, accumRange, weightTable, matrixFault,
   matrixSequence, cruiserConfig, cruiserBusy, cruiserFault, coverageForm, tileState, tileOwner,
   tileMismatch, pathOrder, clipOverflow, clipUnderflow, tileRegion, tileFault] ++
  [exchangeOperand, exchangeAddress, transferFault, drainStaging, deadlineMiss, scopeDemotion,
   softwareTrap, breakpoint, watchpoint] ++
  [launchTag, launchReserved, launchAlign, launchFlags, launchRange, launchFit, launchSize, launchSlot,
   launchDclass, launchTail, launchDepcnt, launchRead]

end Causes

end Sys2Proof.Machine
end

