-- ==== Sys2Proof/Syntax/Operand.lean ====
section
/-! DEFINITION. The operands, modifiers and small parts that an instruction's syntax is made of
(spec/03_encoding.md R56-R69 and the field tables of each chapter). -/

namespace Sys2Proof

/-- A vector-class register field (R61): `v0`-`v191`, `v[i0]`-`v[i7]`, `s0`-`s23`, `c0`-`c15`. -/
inductive Reg where
  | v (n : Fin 192)
  | vi (k : Fin 8)
  | s (n : Fin 24)
  | c (n : Fin 16)
deriving DecidableEq, Repr

/-- Bits S, PG and PN of a full word (R56). -/
structure Guard where
  settle : Bool
  pg : Fin 8
  pn : Bool
deriving DecidableEq, Repr

/-- The H field (R56; in the memory form `a` is BASE and `b` is D, R60). -/
inductive Hold where
  | none | a | b | c
deriving DecidableEq, Repr

/-- Integer type TY (R128). -/
inductive IntTy where
  | s32 | n32
deriving DecidableEq, Repr

/-- Rounding modifier RND (R165). -/
inductive Rnd where
  | rctl | rne | rz | rdn | rup
deriving DecidableEq, Repr

/-- CND of `icmp` (R133). -/
inductive IntCond where
  | eq | ne | lt | le | gt | ge
deriving DecidableEq, Repr

/-- CND of `fcmp` (R168). -/
inductive FpCond where
  | eq | ne | lt | le | gt | ge | un | num
deriving DecidableEq, Repr

/-- The 16-bit pair type of `hadd2`, `hmul2`, `hfma2` (R165). -/
inductive HalfTy where
  | f16 | bf16
deriving DecidableEq, Repr

/-- An IEEE format named by `cvt`'s destination code or by FT (R172-R174). -/
inductive FpTy where
  | f32 | f16 | bf16
deriving DecidableEq, Repr

/-- A source code ST of `cvt` (R172); `f16h`, `bf16h` read A[31:16]. -/
inductive CvtSrc where
  | f32 | f16 | bf16 | f16h | bf16h
deriving DecidableEq, Repr

/-- The forms of `cvt` (R172): one value, or two FP32 values packed. -/
inductive CvtForm where
  | one (st : CvtSrc) (dt : FpTy)
  | two (dt : HalfTy) (b : Reg)
deriving DecidableEq, Repr

/-- The field descriptor of `bfx` and `bfi` (R138): immediate (DI = 1) or a register (DI = 0). -/
inductive FieldDesc where
  | imm (pos wm1 : BitVec 5)
  | reg (r : Reg)
deriving DecidableEq, Repr

/-- The four modes of `pmov` with their operands (R145). -/
inductive PmovForm where
  | tov (d : Reg) (p : Fin 8)
  | fromv (p : Fin 8) (a : Reg)
  | pack (d : Reg)
  | unpack (a : Reg)
deriving DecidableEq, Repr

/-- The modes of `shfl` and `shflx` (R146). -/
inductive ShflMode where
  | idx | up | down | xor
deriving DecidableEq, Repr

/-- The modes of `vote` with their destination (R148). -/
inductive VoteForm where
  | ballot (d : Reg)
  | any (p : Fin 8)
  | all (p : Fin 8)
  | eq (p : Fin 8)
  | cnt (d : Reg)
deriving DecidableEq, Repr

/-- The special values of `rdsp` (R149). -/
inductive SpecialVal where
  | lane | group | team | core | cluster | pos | phase | splits | depth | grpsz | nteams
  | sched | helper | xgrp | spbase
deriving DecidableEq, Repr

/-- The selectors of `splitq` (R118). -/
inductive SplitSel where
  | mask | count | depth | join
deriving DecidableEq, Repr

/-- The operation of a pair half with its type (R67). -/
inductive HalfOp where
  | mov | iadd (ty : IntTy) | isub (ty : IntTy) | imin (ty : IntTy) | imax (ty : IntTy)
  | and | or | xor | shl | shr | sar
  | fadd (r : Rnd) | fsub (r : Rnd) | fmul (r : Rnd) | fmin | fmax
  | hadd2 (r : Rnd) | hmul2 (r : Rnd) | ineg | iabs
deriving DecidableEq, Repr

/-- The register, guard and hold fields of a pair half (R67). -/
structure HalfRegs where
  d : Fin 192
  b : Reg
  g : Fin 4
  hb : Bool
deriving DecidableEq, Repr

/-- A pair half (R67). -/
structure PairHalf where
  op : HalfOp
  r : HalfRegs
deriving DecidableEq, Repr

/-- The modes of `afcond` (R200). -/
inductive CondMode where
  | detach
  | cnt (k : BitVec 4) (rad : Bool)
  | thr (rad : Bool) (t : Reg)
deriving DecidableEq, Repr

/-- CND of `afcmp` (R202). -/
inductive AfCond where
  | lt | le | gt | ge | eq | ne
deriving DecidableEq, Repr

/-- The selectors of `afsymq` (R204). -/
inductive PoolSel where
  | next | live | quota | free
deriving DecidableEq, Repr

/-- The selectors of `afterm` with the index operand (R205). -/
inductive TermSel where
  | coef (j : Reg)
  | sym (j : Reg)
  | cnt
  | flags
deriving DecidableEq, Repr

/-- A local space, `.sp` or `.vt` (R60, R206). -/
inductive Space where
  | sp | vt
deriving DecidableEq, Repr

/-- The SIZE codes of the memory form (R60). -/
inductive MSize where
  | n32 | n8 | s8 | n16 | s16 | n64 | n128
deriving DecidableEq, Repr

/-- The atomic operations (R210). -/
inductive AtomOp where
  | add | min | max | and | or | xor | exch | cas
deriving DecidableEq, Repr

/-- SCOPE of fences and engine words (R211). -/
inductive Scope where
  | core | part | sys
deriving DecidableEq, Repr

/-- Remote space RSP of an exchange (R302). -/
inductive RSpace where
  | win | cl | vt | reg
deriving DecidableEq, Repr

/-- OPR of `cvblend` (R294). -/
inductive BlendOp where
  | over | src | dover | inn | out | atop | xor | plus
deriving DecidableEq, Repr

/-- SEL of `cvq` (R296). -/
inductive CvqSel where
  | recd | tang | clip | seq | openMask
deriving DecidableEq, Repr

/-- The engines that acknowledge a landing (R348). -/
inductive Engine where
  | copy | decode | transform | matrix | cruiser | coverage | exchange | writeQueues | walker
deriving DecidableEq, Repr

/-- A register block that the host writes (R354, R378). -/
inductive RegBlock where
  | partition (p : Fin 16)
  | device
deriving DecidableEq, Repr

/-- Where a scrub or an uncorrectable error lies (R377, R381, R382): a byte offset of a vault, a scratchpad or a slice, a word
of a register file, of accumulators or of the two planes, or an address of the second tier. -/
inductive DataPlace where
  | vault (core : Fin 256) (off : BitVec 29)
  | scratch (core : Fin 256) (off : BitVec 19)
  | register (core : Fin 256) (idx : BitVec 16)
  | accum (core : Fin 256) (idx : BitVec 16)
  | plane (core : Fin 256) (idx : BitVec 13)
  | slice (cluster : Fin 32) (off : BitVec 23)
  | tier (addr : BitVec 40)
deriving DecidableEq, Repr

/-- Who meets an uncorrectable error (R381): a group's word, with its destinations (registers, predicates, index registers) and the
lanes that read the damaged data, a group's engine command, or saved or idle state of a grid. -/
inductive ErrorVictim where
  | word (core : Fin 256) (slot : Fin 16) (dsts : List Reg) (preds idxs : List (Fin 8)) (lanes : BitVec 32)
  | engine (core : Fin 256) (slot : Fin 16)
  | saved (grid : Nat)
deriving DecidableEq, Repr

end Sys2Proof
end

