-- ==== Sys2Proof/Syntax.lean ====
section
/-! DEFINITION. The instructions and steps of the Niraurok: one constructor for each row of
spec/opcode_table.json, in the table's order but for `decodeTableLoadComplete`. Word rows carry the fields of
their encoding; event rows carry what names the event. -/

namespace Sys2Proof

inductive Instr where
  /-- NOP (R111). -/
  | nop (g : Guard)
  /-- BRA (R106). -/
  | bra (g : Guard) (disp : BitVec 24) (rdisp : BitVec 15)
  /-- BRX (R107). -/
  | brx (g : Guard) (h : Hold) (a : Reg) (rdisp : BitVec 15)
  /-- CALL (R106). -/
  | call (g : Guard) (d : Reg) (disp : BitVec 24) (rdisp : BitVec 15)
  /-- RET (R107). -/
  | ret (g : Guard) (h : Hold) (a : Reg) (rdisp : BitVec 15)
  /-- BAR (R108). -/
  | bar (g : Guard)
  /-- BARR (R108). -/
  | barr (g : Guard)
  /-- BARW (R108). -/
  | barw (g : Guard)
  /-- BARRIER_RELEASE (R108). -/
  | barrierRelease (core : Fin 256) (team : Fin 16)
  /-- YIELD (R109). -/
  | yield (g : Guard) (d : Reg) (disp : BitVec 24)
  /-- EXIT (R110). -/
  | exit (g : Guard)
  /-- GROUP_END (R78). -/
  | groupEnd (core : Fin 256) (slot : Fin 16)
  /-- MATRIX_UNIT_CLEAR (R241). -/
  | matrixUnitClear (core : Fin 256)
  /-- LAUNCH (R112). -/
  | launch (g : Guard) (d a : Reg)
  /-- CHWAIT (R113). -/
  | chwait (g : Guard) (d a : Reg) (st : Fin 8)
  /-- PHASE (R114). -/
  | phase (g : Guard)
  /-- POST (R115). -/
  | post (g : Guard) (a : Reg)
  /-- REGROW (R116). -/
  | regrow (g : Guard) (n : BitVec 4)
  /-- REGROW_GRANT (R90). -/
  | regrowGrant (core : Fin 256) (sched : Fin 4)
  /-- GROUP_SPILL (R90). -/
  | groupSpill (core : Fin 256) (sched : Fin 4)
  /-- GROUP_SPILL_RESTORE (R90). -/
  | groupSpillRestore (core : Fin 256) (sched : Fin 4)
  /-- REGSHRINK (R117). -/
  | regshrink (g : Guard) (n : BitVec 4)
  /-- SPLITQ (R118). -/
  | splitq (g : Guard) (d : Reg) (sel : SplitSel)
  /-- BRK (R347). -/
  | brk (hi : BitVec 2) (lo : BitVec 53)
  /-- MOV (R129). -/
  | mov (g : Guard) (h : Hold) (d a : Reg)
  /-- MOV_PAIR (R69). -/
  | movPair (st : Bool) (x : HalfRegs) (y : PairHalf)
  /-- MOVI (R129). -/
  | movi (g : Guard) (d : Reg) (imm : BitVec 32)
  /-- IADD (R130). -/
  | iadd (g : Guard) (h : Hold) (d a b : Reg) (sat : Bool) (ty : IntTy)
  /-- IADD_IMM (R58). -/
  | iaddImm (g : Guard) (d a : Reg) (imm : BitVec 32)
  /-- IADD_PAIR (R69). -/
  | iaddPair (st : Bool) (ty : IntTy) (x : HalfRegs) (y : PairHalf)
  /-- ISUB (R130). -/
  | isub (g : Guard) (h : Hold) (d a b : Reg) (sat : Bool) (ty : IntTy)
  /-- ISUB_IMM (R58). -/
  | isubImm (g : Guard) (d a : Reg) (imm : BitVec 32)
  /-- ISUB_PAIR (R69). -/
  | isubPair (st : Bool) (ty : IntTy) (x : HalfRegs) (y : PairHalf)
  /-- IMUL (R130). -/
  | imul (g : Guard) (h : Hold) (d a b : Reg) (sat : Bool) (ty : IntTy)
  /-- IMUL_IMM (R58). -/
  | imulImm (g : Guard) (d a : Reg) (imm : BitVec 32)
  /-- IMULH (R130). -/
  | imulh (g : Guard) (h : Hold) (d a b : Reg) (ty : IntTy)
  /-- IMAD (R130). -/
  | imad (g : Guard) (h : Hold) (d a b c : Reg) (sat : Bool) (ty : IntTy)
  /-- IADDC (R131). -/
  | iaddc (g : Guard) (h : Hold) (d a b : Reg) (ci : Option (Fin 8)) (co : Fin 8)
  /-- ISUBB (R131). -/
  | isubb (g : Guard) (h : Hold) (d a b : Reg) (ci : Option (Fin 8)) (co : Fin 8)
  /-- IMIN (R132). -/
  | imin (g : Guard) (h : Hold) (d a b : Reg) (ty : IntTy)
  /-- IMIN_IMM (R58). -/
  | iminImm (g : Guard) (d a : Reg) (imm : BitVec 32)
  /-- IMIN_PAIR (R69). -/
  | iminPair (st : Bool) (ty : IntTy) (x : HalfRegs) (y : PairHalf)
  /-- IMAX (R132). -/
  | imax (g : Guard) (h : Hold) (d a b : Reg) (ty : IntTy)
  /-- IMAX_IMM (R58). -/
  | imaxImm (g : Guard) (d a : Reg) (imm : BitVec 32)
  /-- IMAX_PAIR (R69). -/
  | imaxPair (st : Bool) (ty : IntTy) (x : HalfRegs) (y : PairHalf)
  /-- IABS (R132). -/
  | iabs (g : Guard) (h : Hold) (d a : Reg) (sat : Bool)
  /-- IABS_PAIR (R69). -/
  | iabsPair (st : Bool) (x : HalfRegs) (y : PairHalf)
  /-- INEG (R132). -/
  | ineg (g : Guard) (h : Hold) (d a : Reg) (sat : Bool)
  /-- INEG_PAIR (R69). -/
  | inegPair (st : Bool) (x : HalfRegs) (y : PairHalf)
  /-- ICMP (R133). -/
  | icmp (g : Guard) (h : Hold) (p : Fin 8) (a b : Reg) (cnd : IntCond) (ty : IntTy)
  /-- ISEL (R133). -/
  | isel (g : Guard) (h : Hold) (d a b : Reg) (p : Fin 8)
  /-- LEA (R134). -/
  | lea (g : Guard) (h : Hold) (d a b : Reg) (sh : BitVec 5)
  /-- AND (R135). -/
  | and (g : Guard) (h : Hold) (d a b : Reg)
  /-- AND_IMM (R58). -/
  | andImm (g : Guard) (d a : Reg) (imm : BitVec 32)
  /-- AND_PAIR (R69). -/
  | andPair (st : Bool) (x : HalfRegs) (y : PairHalf)
  /-- OR (R135). -/
  | or (g : Guard) (h : Hold) (d a b : Reg)
  /-- OR_IMM (R58). -/
  | orImm (g : Guard) (d a : Reg) (imm : BitVec 32)
  /-- OR_PAIR (R69). -/
  | orPair (st : Bool) (x : HalfRegs) (y : PairHalf)
  /-- XOR (R135). -/
  | xor (g : Guard) (h : Hold) (d a b : Reg)
  /-- XOR_IMM (R58). -/
  | xorImm (g : Guard) (d a : Reg) (imm : BitVec 32)
  /-- XOR_PAIR (R69). -/
  | xorPair (st : Bool) (x : HalfRegs) (y : PairHalf)
  /-- NOT (R135). -/
  | not (g : Guard) (h : Hold) (d a : Reg)
  /-- ANDN (R135). -/
  | andn (g : Guard) (h : Hold) (d a b : Reg)
  /-- ANDN_IMM (R58). -/
  | andnImm (g : Guard) (d a : Reg) (imm : BitVec 32)
  /-- SHL (R136). -/
  | shl (g : Guard) (h : Hold) (d a b : Reg)
  /-- SHL_IMM (R58). -/
  | shlImm (g : Guard) (d a : Reg) (imm : BitVec 32)
  /-- SHL_PAIR (R69). -/
  | shlPair (st : Bool) (x : HalfRegs) (y : PairHalf)
  /-- SHR (R136). -/
  | shr (g : Guard) (h : Hold) (d a b : Reg)
  /-- SHR_IMM (R58). -/
  | shrImm (g : Guard) (d a : Reg) (imm : BitVec 32)
  /-- SHR_PAIR (R69). -/
  | shrPair (st : Bool) (x : HalfRegs) (y : PairHalf)
  /-- SAR (R136). -/
  | sar (g : Guard) (h : Hold) (d a b : Reg)
  /-- SAR_IMM (R58). -/
  | sarImm (g : Guard) (d a : Reg) (imm : BitVec 32)
  /-- SAR_PAIR (R69). -/
  | sarPair (st : Bool) (x : HalfRegs) (y : PairHalf)
  /-- ROT (R136). -/
  | rot (g : Guard) (h : Hold) (d a b : Reg) (right : Bool)
  /-- ROT_IMM (R58). -/
  | rotImm (g : Guard) (d a : Reg) (imm : BitVec 32)
  /-- FSH (R137). -/
  | fsh (g : Guard) (h : Hold) (d a b c : Reg) (left : Bool)
  /-- BFX (R138). -/
  | bfx (g : Guard) (h : Hold) (d a : Reg) (f : FieldDesc) (ty : IntTy)
  /-- BFI (R138). -/
  | bfi (g : Guard) (h : Hold) (d a b : Reg) (f : FieldDesc)
  /-- POPC (R139). -/
  | popc (g : Guard) (h : Hold) (d a : Reg)
  /-- CLZ (R139). -/
  | clz (g : Guard) (h : Hold) (d a : Reg)
  /-- BREV (R139). -/
  | brev (g : Guard) (h : Hold) (d a : Reg)
  /-- PRMT (R140). -/
  | prmt (g : Guard) (h : Hold) (d a b c : Reg)
  /-- IXSET (R142). -/
  | ixset (g : Guard) (h : Hold) (i : Fin 8) (a : Reg)
  /-- IXSET_IMM (R58). -/
  | ixsetImm (g : Guard) (i : Fin 8) (imm : BitVec 32)
  /-- IXSET_GET (R142). -/
  | ixsetGet (g : Guard) (d : Reg) (i : Fin 8)
  /-- IXADD (R142). -/
  | ixadd (g : Guard) (h : Hold) (i j : Fin 8) (b : Reg)
  /-- IXADD_IMM (R58). -/
  | ixaddImm (g : Guard) (i j : Fin 8) (imm : BitVec 32)
  /-- IXBND (R143). -/
  | ixbnd (g : Guard) (a b : Reg)
  /-- PSET (R144). -/
  | pset (g : Guard) (p a b : Fin 8) (tt : BitVec 4)
  /-- PMOV (R145). -/
  | pmov (g : Guard) (h : Hold) (f : PmovForm)
  /-- SHFL (R146). -/
  | shfl (g : Guard) (h : Hold) (d a b : Reg) (wid : Fin 5) (mode : ShflMode)
  /-- SHFLX (R146). -/
  | shflx (g : Guard) (h : Hold) (d a b : Reg) (wid : Fin 5) (mode : ShflMode)
  /-- BCAST (R147). -/
  | bcast (g : Guard) (h : Hold) (d a b : Reg)
  /-- VOTE (R148). -/
  | vote (g : Guard) (f : VoteForm) (p : Fin 8)
  /-- RDSP (R149). -/
  | rdsp (g : Guard) (d : Reg) (sel : SpecialVal)
  /-- FADD (R166). -/
  | fadd (g : Guard) (h : Hold) (d a b : Reg) (rnd : Rnd)
  /-- FADD_IMM (R58). -/
  | faddImm (g : Guard) (d a : Reg) (imm : BitVec 32)
  /-- FADD_PAIR (R69). -/
  | faddPair (st : Bool) (rnd : Rnd) (x : HalfRegs) (y : PairHalf)
  /-- FSUB (R166). -/
  | fsub (g : Guard) (h : Hold) (d a b : Reg) (rnd : Rnd)
  /-- FSUB_IMM (R58). -/
  | fsubImm (g : Guard) (d a : Reg) (imm : BitVec 32)
  /-- FSUB_PAIR (R69). -/
  | fsubPair (st : Bool) (rnd : Rnd) (x : HalfRegs) (y : PairHalf)
  /-- FMUL (R166). -/
  | fmul (g : Guard) (h : Hold) (d a b : Reg) (rnd : Rnd)
  /-- FMUL_IMM (R58). -/
  | fmulImm (g : Guard) (d a : Reg) (imm : BitVec 32)
  /-- FMUL_PAIR (R69). -/
  | fmulPair (st : Bool) (rnd : Rnd) (x : HalfRegs) (y : PairHalf)
  /-- FFMA (R166). -/
  | ffma (g : Guard) (h : Hold) (d a b c : Reg) (np nc : Bool) (rnd : Rnd)
  /-- FMIN (R167). -/
  | fmin (g : Guard) (h : Hold) (d a b : Reg)
  /-- FMIN_IMM (R58). -/
  | fminImm (g : Guard) (d a : Reg) (imm : BitVec 32)
  /-- FMIN_PAIR (R69). -/
  | fminPair (st : Bool) (x : HalfRegs) (y : PairHalf)
  /-- FMAX (R167). -/
  | fmax (g : Guard) (h : Hold) (d a b : Reg)
  /-- FMAX_IMM (R58). -/
  | fmaxImm (g : Guard) (d a : Reg) (imm : BitVec 32)
  /-- FMAX_PAIR (R69). -/
  | fmaxPair (st : Bool) (x : HalfRegs) (y : PairHalf)
  /-- FCMP (R168). -/
  | fcmp (g : Guard) (h : Hold) (p : Fin 8) (a b : Reg) (cnd : FpCond)
  /-- FCLASS (R169). -/
  | fclass (g : Guard) (h : Hold) (d a : Reg)
  /-- FRND (R170). -/
  | frnd (g : Guard) (h : Hold) (d a : Reg) (rnd : Rnd)
  /-- HADD2 (R171). -/
  | hadd2 (g : Guard) (h : Hold) (d a b : Reg) (ty : HalfTy) (rnd : Rnd)
  /-- HADD2_IMM (R58). -/
  | hadd2Imm (g : Guard) (d a : Reg) (imm : BitVec 32)
  /-- HADD2_PAIR (R69). -/
  | hadd2Pair (st : Bool) (rnd : Rnd) (x : HalfRegs) (y : PairHalf)
  /-- HMUL2 (R171). -/
  | hmul2 (g : Guard) (h : Hold) (d a b : Reg) (ty : HalfTy) (rnd : Rnd)
  /-- HMUL2_IMM (R58). -/
  | hmul2Imm (g : Guard) (d a : Reg) (imm : BitVec 32)
  /-- HMUL2_PAIR (R69). -/
  | hmul2Pair (st : Bool) (rnd : Rnd) (x : HalfRegs) (y : PairHalf)
  /-- HFMA2 (R171). -/
  | hfma2 (g : Guard) (h : Hold) (d a b c : Reg) (ty : HalfTy) (rnd : Rnd)
  /-- CVT (R172). -/
  | cvt (g : Guard) (h : Hold) (d a : Reg) (f : CvtForm) (rnd : Rnd)
  /-- F2I (R173). -/
  | f2i (g : Guard) (h : Hold) (d a : Reg) (ft : FpTy) (ty : IntTy) (rnd : Rnd)
  /-- I2F (R174). -/
  | i2f (g : Guard) (h : Hold) (d a : Reg) (ft : FpTy) (ty : IntTy) (rnd : Rnd)
  /-- KPACK (R176). -/
  | kpack (g : Guard) (h : Hold) (d a : Reg) (slot : Fin 8)
  /-- KUNPK (R177). -/
  | kunpk (g : Guard) (h : Hold) (d a : Reg) (slot : Fin 8)
  /-- RQZ (R178). -/
  | rqz (g : Guard) (h : Hold) (d a b : Reg) (slot : Fin 8)
  /-- FRCP (R181). -/
  | frcp (g : Guard) (h : Hold) (d a : Reg) (rnd : Rnd)
  /-- FRSQ (R181). -/
  | frsq (g : Guard) (h : Hold) (d a : Reg) (rnd : Rnd)
  /-- FSQRT (R181). -/
  | fsqrt (g : Guard) (h : Hold) (d a : Reg) (rnd : Rnd)
  /-- FEX2 (R181). -/
  | fex2 (g : Guard) (h : Hold) (d a : Reg) (rnd : Rnd)
  /-- FLG2 (R181). -/
  | flg2 (g : Guard) (h : Hold) (d a : Reg) (rnd : Rnd)
  /-- FSIN (R181). -/
  | fsin (g : Guard) (h : Hold) (d a : Reg) (rnd : Rnd)
  /-- FCOS (R181). -/
  | fcos (g : Guard) (h : Hold) (d a : Reg) (rnd : Rnd)
  /-- FTANH (R181). -/
  | ftanh (g : Guard) (h : Hold) (d a : Reg) (rnd : Rnd)
  /-- TRANSFORM_RESULT_RETURN (R182). -/
  | transformResultReturn (core : Fin 256) (sched : Fin 4)
  /-- AFSET (R197). -/
  | afset (g : Guard) (h : Hold) (d : Fin 8) (a b : Reg) (sym : Bool)
  /-- AFINT (R197). -/
  | afint (g : Guard) (h : Hold) (d : Fin 8) (a b : Reg)
  /-- AFMOV (R199). -/
  | afmov (g : Guard) (d a : Fin 8)
  /-- AFADD (R197). -/
  | afadd (g : Guard) (d a b : Fin 8)
  /-- AFSUB (R197). -/
  | afsub (g : Guard) (d a b : Fin 8)
  /-- AFSCL (R197). -/
  | afscl (g : Guard) (h : Hold) (d a : Fin 8) (b : Reg)
  /-- AFADDC (R197). -/
  | afaddc (g : Guard) (h : Hold) (d a : Fin 8) (b : Reg)
  /-- AFMUL (R197). -/
  | afmul (g : Guard) (d a b : Fin 8)
  /-- AFSQR (R197). -/
  | afsqr (g : Guard) (d a : Fin 8)
  /-- AFRCP (R198). -/
  | afrcp (g : Guard) (d a : Fin 8)
  /-- AFDIV (R198). -/
  | afdiv (g : Guard) (d a b : Fin 8)
  /-- AFSQRT (R198). -/
  | afsqrt (g : Guard) (d a : Fin 8)
  /-- AFCOND (R200). -/
  | afcond (g : Guard) (h : Hold) (d a : Fin 8) (mode : CondMode)
  /-- AFCTR (R201). -/
  | afctr (g : Guard) (d : Reg) (a : Fin 8)
  /-- AFRAD (R201). -/
  | afrad (g : Guard) (d : Reg) (a : Fin 8)
  /-- AFLO (R201). -/
  | aflo (g : Guard) (d : Reg) (a : Fin 8)
  /-- AFHI (R201). -/
  | afhi (g : Guard) (d : Reg) (a : Fin 8)
  /-- AFCMP (R202). -/
  | afcmp (g : Guard) (pt a b pf : Fin 8) (cnd : AfCond)
  /-- AFREL (R203). -/
  | afrel (g : Guard) (a b : Reg)
  /-- AFREL_ALL (R203). -/
  | afrelAll (g : Guard)
  /-- AFSYMQ (R204). -/
  | afsymq (g : Guard) (d : Reg) (sel : PoolSel)
  /-- AFTERM (R205). -/
  | afterm (g : Guard) (h : Hold) (d : Reg) (a : Fin 8) (sel : TermSel)
  /-- LD (R217). -/
  | ld (g : Guard) (h : Hold) (d base : Reg) (disp : BitVec 16) (space : Space) (size : MSize) (rp : Fin 8)
  /-- LDG (R217). -/
  | ldg (g : Guard) (h : Hold) (d base : Reg) (disp : BitVec 16) (space : Space) (size : MSize) (rp : Fin 8)
  /-- LDGF (R223). -/
  | ldgf (g : Guard) (h : Hold) (d base : Reg) (disp : BitVec 16) (space : Space) (size : MSize)
  /-- LOAD_DATA_RETURN (R81). -/
  | loadDataReturn (core : Fin 256) (slot : Fin 16) (idx : Nat)
  /-- ST (R218). -/
  | st (g : Guard) (h : Hold) (d base : Reg) (disp : BitVec 16) (space : Space) (size : MSize) (col : Fin 8)
  /-- STG (R218). -/
  | stg (g : Guard) (h : Hold) (d base : Reg) (disp : BitVec 16) (space : Space) (size : MSize) (col : Fin 8)
  /-- WRITE_QUEUE_DRAIN (R227). -/
  | writeQueueDrain (core : Fin 256) (slot : Fin 16) (col : Fin 8)
  /-- ATOM (R229). -/
  | atom (g : Guard) (h : Hold) (d base : Reg) (disp : BitVec 16) (space : Space) (w64 : Bool) (col : Fin 8) (op : AtomOp)
  /-- ATOMB (R230). -/
  | atomb (g : Guard) (h : Hold) (d base : Reg) (disp : BitVec 16) (space : Space) (w64 : Bool) (op : AtomOp)
  /-- FENCE (R228). -/
  | fence (g : Guard) (scope : Scope) (skip : BitVec 8)
  /-- RESQ (R222). -/
  | resq (g : Guard) (h : Hold) (p : Fin 8) (a : Reg) (wide : Bool)
  /-- PGREQ (R221). -/
  | pgreq (g : Guard) (h : Hold) (base : Reg) (disp : BitVec 16) (space : Space) (rp : Fin 8) (wide : Bool)
  /-- PRF (R222). -/
  | prf (g : Guard) (h : Hold) (base : Reg) (disp : BitVec 16) (space : Space) (wide : Bool)
  /-- PAGE_WALK_COMPLETE (R320). -/
  | pageWalkComplete (core : Fin 256) (idx : Nat)
  /-- CPY (R233). -/
  | cpy (g : Guard) (d a b c : Reg) (scope : Scope) (rel acq : Bool) (dsp ssp : Space)
  /-- COPY_COMPLETE (R233). -/
  | copyComplete (core : Fin 256) (idx : Nat)
  /-- CPYW (R235). -/
  | cpyw (g : Guard) (a : Reg)
  /-- DECTAB (R236). -/
  | dectab (g : Guard) (a b : Reg) (scope : Scope) (acq : Bool) (slot : Fin 8)
  /-- DECV (R237). -/
  | decv (g : Guard) (d a b : Reg) (scope : Scope) (acq : Bool) (space : Space) (slot : Fin 8)
  /-- DECODE_RESULT_RETURN (R237). -/
  | decodeResultReturn (core : Fin 256)
  /-- DECODE_TABLE_LOAD_COMPLETE (R236). -/
  | decodeTableLoadComplete (core : Fin 256)
  /-- LSCFG (R262). -/
  | lscfg (g : Guard) (a : Reg)
  /-- LSGO (R263). -/
  | lsgo (g : Guard) (a : Reg)
  /-- CRUISER_EMIT (R263). -/
  | cruiserEmit (core : Fin 256)
  /-- LSWAIT (R265). -/
  | lswait (g : Guard) (d : Reg)
  /-- LDSTW (R251). -/
  | ldstw (g : Guard) (a b c : Reg) (scope : Scope) (acq : Bool) (space : Space) (slot : Fin 8)
  /-- CBTAB (R252). -/
  | cbtab (g : Guard) (a b : Reg) (scope : Scope) (acq : Bool) (space : Space)
  /-- SWPL (R253). -/
  | swpl (g : Guard)
  /-- MMA (R249). -/
  | mma (g : Guard) (a c : Reg) (row : BitVec 10) (z : Bool) (slot : Fin 8)
  /-- MMAS (R250). -/
  | mmas (g : Guard) (a b c : Reg) (z : Bool) (slot : Fin 8)
  /-- ACZ (R254). -/
  | acz (g : Guard) (a b : Reg)
  /-- ACLD (R254). -/
  | acld (g : Guard) (a b c : Reg) (scope : Scope) (acq : Bool) (space : Space) (slot : Fin 8)
  /-- DRAIN (R254). -/
  | drain (g : Guard) (a b c : Reg) (z : Bool) (scope : Scope) (rel : Bool) (space : Space) (slot : Fin 8)
  /-- MFENCE (R257). -/
  | mfence (g : Guard) (d : Reg)
  /-- MWAIT (R257). -/
  | mwait (g : Guard) (a : Reg)
  /-- MATRIX_COMMAND_EXECUTE (R245). -/
  | matrixCommandExecute (core : Fin 256)
  /-- BATCH_COMPLETE (R257). -/
  | batchComplete (core : Fin 256)
  /-- CVBEG_TILE (R287). -/
  | cvbegTile (g : Guard) (a b : Reg) (tc : Fin 4)
  /-- CVBEG_PATH (R287). -/
  | cvbegPath (g : Guard) (a : Reg) (tc : Fin 4)
  /-- CVMONO (R288). -/
  | cvmono (g : Guard) (d a : Reg)
  /-- CVDEP (R289). -/
  | cvdep (g : Guard) (d a b : Reg) (tc : Fin 4)
  /-- CVSCAN (R290). -/
  | cvscan (g : Guard) (eo : Bool) (tc : Fin 4)
  /-- CVREFINE (R291). -/
  | cvrefine (g : Guard) (d : Reg) (tc : Fin 4)
  /-- CVPUSH (R283). -/
  | cvpush (g : Guard) (tc : Fin 4)
  /-- CVPOP (R283). -/
  | cvpop (g : Guard) (tc : Fin 4)
  /-- CVSPAN (R293). -/
  | cvspan (g : Guard) (d a c : Reg) (tc : Fin 4)
  /-- CVBLEND (R294). -/
  | cvblend (g : Guard) (a b : Reg) (opr : BlendOp) (tc : Fin 4)
  /-- TSAVE (R295). -/
  | tsave (g : Guard) (d a : Reg) (scope : Scope) (rel : Bool) (tc : Fin 4)
  /-- TLOAD (R295). -/
  | tload (g : Guard) (d a b : Reg) (scope : Scope) (acq : Bool) (tc : Fin 4)
  /-- CVQ (R296). -/
  | cvq (g : Guard) (d : Reg) (sel : CvqSel) (tc : Fin 4)
  /-- CVEND (R298). -/
  | cvend (g : Guard) (d : Reg) (tc : Fin 4)
  /-- COVERAGE_COMMAND_EXECUTE (R286). -/
  | coverageCommandExecute (core : Fin 256)
  /-- XPULL (R307). -/
  | xpull (g : Guard) (a b c : Reg) (tg : Fin 8) (rel acq : Bool) (scope : Scope) (rsp : RSpace) (lsp : Space)
  /-- XPUSH (R307). -/
  | xpush (g : Guard) (a b c : Reg) (tg : Fin 8) (rel acq : Bool) (scope : Scope) (rsp : RSpace) (lsp : Space)
  /-- XDRAIN (R308). -/
  | xdrain (g : Guard) (a b c : Reg) (tg : Fin 8) (z : Bool)
  /-- XATOM (R310). -/
  | xatom (g : Guard) (a b : Reg) (c : Option Reg) (tg : Fin 8) (cl w64 : Bool) (op : AtomOp)
  /-- XCALL (R311). -/
  | xcall (g : Guard) (a b c : Reg) (tg : Fin 8) (words : Fin 9)
  /-- XPAGE_LIST (R313). -/
  | xpageList (g : Guard) (d a b : Reg) (tg : Fin 8)
  /-- XPAGE_MAP (R313). -/
  | xpageMap (g : Guard) (d a b : Reg) (tg : Fin 8)
  /-- XPAGE_EVICT (R313). -/
  | xpageEvict (g : Guard) (d a b : Reg) (tg : Fin 8) (host : Bool)
  /-- XHOST (R307). -/
  | xhost (g : Guard) (a b c : Reg) (tg : Fin 8) (rel acq : Bool) (scope : Scope) (lsp : Space) (get : Bool)
  /-- XTIER (R307). -/
  | xtier (g : Guard) (a b c : Reg) (tg : Fin 8) (rel acq : Bool) (scope : Scope) (lsp : Space) (get : Bool)
  /-- XLINK (R326). -/
  | xlink (g : Guard) (d a b c : Reg) (tg : Fin 8) (rel acq : Bool) (scope : Scope) (rsp : RSpace) (lsp : Space) (get : Bool)
  /-- XWAIT (R314). -/
  | xwait (g : Guard) (d : Reg) (tg : Fin 8) (all : Bool)
  /-- TRANSFER_COMPLETE (R314). -/
  | transferComplete (core : Fin 256) (idx : Nat)
  /-- PACKET_DELIVER (R318). -/
  | packetDeliver (core : Fin 256) (idx : Nat) (late : Bool)
  /-- TRAP (R347). -/
  | trap (g : Guard) (k : BitVec 8)
  /-- TRET (R345). -/
  | tret (g : Guard)
  /-- CSRR (R347). -/
  | csrr (g : Guard) (d : Reg) (hi : Bool) (csr : BitVec 12)
  /-- CSRW (R347). -/
  | csrw (g : Guard) (d a : Reg) (hi : Bool) (csr : BitVec 12)
  /-- CSRS (R347). -/
  | csrs (g : Guard) (d a : Reg) (hi : Bool) (csr : BitVec 12)
  /-- CSRC (R347). -/
  | csrc (g : Guard) (d a : Reg) (hi : Bool) (csr : BitVec 12)
  /-- LPINV (R347). -/
  | lpinv (g : Guard)
  /-- HALT (R347). -/
  | halt (g : Guard) (a : Reg)
  /-- TRAP_ENTRY (R344). -/
  | trapEntry (core : Fin 256) (slot : Fin 16)
  /-- STRAGGLER_TIMEOUT (R102). -/
  | stragglerTimeout (part : Fin 16)
  /-- ENGINE_LANDING_ACK (R348). -/
  | engineLandingAck (core : Fin 256) (engine : Engine)
  /-- LANDING (R100). -/
  | landing (part : Fin 16)
  /-- NODE_TAKE (R92). -/
  | nodeTake (queue : Fin 64)
  /-- NODE_LAUNCH (R94). -/
  | nodeLaunch (queue : Fin 64) (idx : Nat)
  /-- REPSIG_HASH_COMPLETE (R156). -/
  | repsigHashComplete (grid : Nat)
  /-- GRID_RETIRE (R94). -/
  | gridRetire (grid : Nat)
  /-- PREEMPT (R348). -/
  | preempt (part : Fin 16)
  /-- RESTORE (R352). -/
  | restore (part : Fin 16)
  /-- REMOVE (R349). -/
  | remove (part : Fin 16)
  /-- CONTEXT_REMOVAL_COMPLETE (R349). -/
  | contextRemovalComplete (grid : Nat)
  /-- RESET (R353). -/
  | reset (part : Fin 16)
  /-- QUEUE_ENABLE (R354). -/
  | queueEnable (part : Fin 16) (queue : Fin 64) (en : Bool)
  /-- REGISTER_WRITE (R5). -/
  | registerWrite (blk : RegBlock) (addr : BitVec 16) (val : BitVec 64)
  /-- PARTITION_OPEN (R353). -/
  | partitionOpen (part : Fin 16) (first : Fin 32) (ncl : Fin 33) (queues : BitVec 64) (tenantScope : Bool)
  /-- PARTITION_CLOSE (R353). -/
  | partitionClose (part : Fin 16)
  /-- PARTITION_UPDATE (R353). -/
  | partitionUpdate (part : Fin 16) (version : Nat) (sigOk : Bool)
  /-- DEBUG_FREEZE (R356). -/
  | debugFreeze (core : Fin 256)
  /-- DEBUG_THAW (R356). -/
  | debugThaw (core : Fin 256)
  /-- DEBUG_STEP (R356). -/
  | debugStep (core : Fin 256) (slot : Fin 16)
  /-- DEBUG_WINDOW_READ (R354). -/
  | debugWindowRead (part : Fin 16)
  /-- DEBUG_WINDOW_WRITE (R354). -/
  | debugWindowWrite (part : Fin 16) (val : BitVec 64)
  /-- FLIT_RECEIVE (R325). -/
  | flitReceive (link : Fin 12) (flit : BitVec 2048)
  /-- RETRY_REQUEST (R325). -/
  | retryRequest (link : Fin 12) (seq : BitVec 12)
  /-- LINK_TRAINING (R374). -/
  | linkTraining (link : Fin 12) (trained : Bool) (peer : BitVec 8)
  /-- PAIRING_EXCHANGE (R326). -/
  | pairingExchange (pkg : BitVec 8) (q p : Fin 16) (pen : Bool)
  /-- POWER_ON (R375). -/
  | powerOn (flash : Option (Nat × Bool)) (cpSigOk : Bool) (pkgnum : BitVec 8) (failed : List (Fin 288)) (ports : List Nat)
  /-- THERMAL_THROTTLE (R371). -/
  | thermalThrottle (up : Bool)
  /-- THERMAL_SHUTDOWN (R371). -/
  | thermalShutdown
  /-- SCRUB (R382). -/
  | scrub (place : DataPlace) (correctable : Bool)
  /-- UNCORRECTABLE_ERROR (R381). -/
  | uncorrectableError (place : DataPlace) (victim : ErrorVictim)
  /-- GET_VERSION (R376). -/
  | getVersion
  /-- GET_CAPABILITIES (R376). -/
  | getCapabilities
  /-- NEGOTIATE_ALGORITHMS (R376). -/
  | negotiateAlgorithms (ecdsaP256 sha256 : Bool)
  /-- GET_DIGESTS (R376). -/
  | getDigests
  /-- GET_CERTIFICATE (R376). -/
  | getCertificate (slot : Fin 8) (offset length : BitVec 16)
  /-- CHALLENGE (R376). -/
  | challenge (slot : Fin 8) (nonce : BitVec 256)
  /-- GET_MEASUREMENTS (R376). -/
  | getMeasurements (index : BitVec 8) (sign : Bool) (nonce : BitVec 256)
  /-- POWER_OFF (R370). -/
  | powerOff
  /-- RECOVERY_IMAGE_WRITE (R375). -/
  | recoveryImageWrite (version : Nat) (sigOk : Bool)
deriving DecidableEq, Repr

end Sys2Proof
end

