-- ==== Sys2Proof/Decode.lean ====
section
/-! DEFINITION. Decoding an instruction word under an encoding version (spec/03_encoding.md, with the field
tables R104, R127, R141, R164, R180, R194, R210, R211, R242, R284, R305, R346), and the encoder of version 3.
A refusal names the cause code that R72 gives. The checks that need the launch record (R61's bounds against
`B`, `IDX` and `AFF`, R68's banks) are made by the machine. -/

namespace Sys2Proof

open Sys2Proof.Machine (Cause)
open Sys2Proof.Machine.Causes

/-- The answer of a decoding check: a value, or the cause of the trap. -/
abbrev Dec := Except Cause

/-- An illegal modifier unless `b` (R57). -/
def modOk (b : Bool) : Dec Unit := if b then .ok () else .error illegalModifier

/-- A reserved register unless `b` (R61). -/
def regOk (b : Bool) : Dec Unit := if b then .ok () else .error reservedRegister

/-- A modifier value, or an illegal modifier. -/
def modVal (o : Option α) : Dec α := match o with
  | some x => .ok x
  | none => .error illegalModifier

/-! ## Register fields (R61-R63) -/

/-- The 8-bit field that names a register (R61). -/
def Reg.code : Reg → BitVec 8
  | .v n => BitVec.ofNat 8 n.val
  | .vi k => BitVec.ofNat 8 (0xC0 + k.val)
  | .s n => BitVec.ofNat 8 (0xD0 + n.val)
  | .c n => BitVec.ofNat 8 (0xF0 + n.val)

/-- The register that a field names; none for a reserved value (R61). -/
def Reg.ofCode (x : BitVec 8) : Option Reg :=
  if h : x.toNat < 192 then some (.v ⟨x.toNat, h⟩)
  else if h : x.toNat - 0xC0 < 8 then some (.vi ⟨x.toNat - 0xC0, h⟩)
  else if x.toNat < 0xD0 then none
  else if h : x.toNat - 0xD0 < 24 then some (.s ⟨x.toNat - 0xD0, h⟩)
  else if x.toNat < 0xF0 then none
  else if h : x.toNat - 0xF0 < 16 then some (.c ⟨x.toNat - 0xF0, h⟩)
  else none

/-- The number of a register within its class. -/
def Reg.num : Reg → Nat
  | .v n => n.val
  | .vi k => k.val
  | .s n => n.val
  | .c n => n.val

/-- The register classes that the field tables name. -/
inductive RegClass where
  | any | vec | vecd | vs | vsc0 | s | s0 | sc | evenV | evenS | evenVS | vds | vsd0 | recS
deriving DecidableEq, Repr

/-- Whether a register is of a class: `vec` is `v` or `v[ik]`, `vecd` a direct `v`, `s0` is `s` or `c0`,
`sc` is `s` or `c`, `vds` a direct `v` or `s`, `recS` is `s0`-`s16`. A D whose
entry lists `v`, `v[ik]` or `s` and not `c0`, as in rows 0x1 to 0x4, does not take `c0`, though R61 lets `c0` stand as a destination:
the model's reading (log 60). -/
def RegClass.has : RegClass → Reg → Bool
  | .any, _ => true
  | .vec, .v _ => true
  | .vec, .vi _ => true
  | .vecd, .v _ => true
  | .vs, .c _ => false
  | .vs, _ => true
  | .vsc0, .c n => n.val == 0
  | .vsc0, _ => true
  | .s, .s _ => true
  | .s0, .s _ => true
  | .s0, .c n => n.val == 0
  | .sc, .s _ => true
  | .sc, .c _ => true
  | .evenV, .v n => n.val % 2 == 0
  | .evenS, .s n => n.val % 2 == 0
  | .evenVS, .v n => n.val % 2 == 0
  | .evenVS, .s n => n.val % 2 == 0
  | .vds, .v _ => true
  | .vds, .s _ => true
  | .vsd0, .v _ => true
  | .vsd0, .s _ => true
  | .vsd0, .c n => n.val == 0
  | .recS, .s n => n.val ≤ 16
  | _, _ => false

/-- Constants 0xFC-0xFF are absent in version 1 (R74). -/
def Reg.inVersion (ver : Nat) : Reg → Bool
  | .c n => ver != 1 || n.val < 12
  | _ => true

/-- Reading a register field of a class (R61). -/
def getReg (ver : Nat) (cl : RegClass) (x : BitVec 8) : Dec Reg :=
  match Reg.ofCode x with
  | some r => if cl.has r && r.inVersion ver then .ok r else .error reservedRegister
  | none => .error reservedRegister

/-- A field that holds an index, predicate or affine register number (R63). -/
def getNum (x : BitVec 8) : Dec (Fin 8) :=
  if h : x.toNat < 8 then .ok ⟨x.toNat, h⟩ else .error reservedRegister

/-- The field of such a number. -/
def numCode (k : Fin 8) : BitVec 8 := BitVec.ofNat 8 k.val

/-! ## The word -/

/-- The fields of a full word (R56). -/
structure Fields where
  s : Bool
  op : BitVec 9
  pg : BitVec 3
  pn : Bool
  d : BitVec 8
  a : BitVec 8
  b : BitVec 8
  c : BitVec 8
  h : BitVec 2
  m : BitVec 15
deriving DecidableEq, Repr

/-- The fields of a word with W = 0 (R56). -/
def Fields.ofWord (w : BitVec 64) : Fields where
  s := w.getLsbD 63
  op := w.extractLsb' 53 9
  pg := w.extractLsb' 50 3
  pn := w.getLsbD 49
  d := w.extractLsb' 41 8
  a := w.extractLsb' 33 8
  b := w.extractLsb' 25 8
  c := w.extractLsb' 17 8
  h := w.extractLsb' 15 2
  m := w.extractLsb' 0 15

/-- The word of the fields. -/
def Fields.word (f : Fields) : BitVec 64 :=
  BitVec.ofBool f.s ++ 0#1 ++ f.op ++ f.pg ++ BitVec.ofBool f.pn ++ f.d ++ f.a ++ f.b ++ f.c ++ f.h ++ f.m

/-- The guard and settle fields. -/
def Fields.guard (f : Fields) : Guard where
  settle := f.s
  pg := ⟨f.pg.toNat, f.pg.isLt⟩
  pn := f.pn

/-- The hold field (R56, R60). -/
def Fields.hold (f : Fields) : Hold :=
  match f.h.toNat with
  | 0 => .none
  | 1 => .a
  | 2 => .b
  | _ => .c

/-- The code of a hold. -/
def Hold.code : Hold → BitVec 2
  | .none => 0
  | .a => 1
  | .b => 2
  | .c => 3

/-- The 32-bit immediate of R58. -/
def Fields.imm (f : Fields) : BitVec 32 := (f.b ++ f.c ++ f.h) ++ f.m.extractLsb' 0 14
/-- Whether the word is in immediate form (R58). -/
def Fields.isImm (f : Fields) : Bool := f.m.getLsbD 14
/-- The branch form's DISP (R59). -/
def Fields.disp24 (f : Fields) : BitVec 24 := f.a ++ f.b ++ f.c
/-- The memory form's DISP (R60). -/
def Fields.disp16 (f : Fields) : BitVec 16 := f.b ++ f.c

/-- Fields of a word with everything but the opcode, guard and settle bit zero. -/
def Fields.base (op : Nat) (g : Guard) : Fields where
  s := g.settle
  op := BitVec.ofNat 9 op
  pg := BitVec.ofNat 3 g.pg.val
  pn := g.pn
  d := 0
  a := 0
  b := 0
  c := 0
  h := 0
  m := 0

/-- How an opcode uses a register field: not at all, or as a field that no hold can name, or as a
vector-class source that a hold can name (R57, R64). -/
inductive Use where
  | no | fix | src
deriving DecidableEq, Repr

/-- An unused field is zero (R57). -/
def Use.ok (u : Use) (x : BitVec 8) : Bool := u != .no || x == 0
/-- A hold names a direct vector register of a source field (R64). -/
def Use.holdable (u : Use) (x : BitVec 8) : Bool := u == .src && x.toNat < 192

/-- The hold is legal (R64, R74). -/
def Fields.holdOk (f : Fields) (ver : Nat) (a b c : Use) : Bool :=
  match f.h.toNat with
  | 0 => true
  | 1 => a.holdable f.a
  | 2 => b.holdable f.b
  | _ => ver != 1 && c.holdable f.c

/-- The checks of R57 on a full word: unused fields, the hold, and the M bits outside `mask`. -/
def Fields.form (f : Fields) (ver : Nat) (d a b c : Use) (mask : BitVec 15) : Dec Unit :=
  modOk (d.ok f.d && a.ok f.a && b.ok f.b && c.ok f.c && f.holdOk ver a b c && f.m &&& ~~~mask == 0)

/-! ## Modifier values -/

def boolBit (b : Bool) : BitVec 1 := BitVec.ofBool b

/-- TY where `.s32` is the default (R128). -/
def IntTy.bit : IntTy → Bool
  | .s32 => false
  | .n32 => true
def IntTy.ofBit (b : Bool) : IntTy := if b then .n32 else .s32

/-- RND (R165). -/
def Rnd.code : Rnd → BitVec 3
  | .rctl => 0
  | .rne => 1
  | .rz => 2
  | .rdn => 3
  | .rup => 4
def Rnd.ofCode (x : BitVec 3) : Option Rnd :=
  match x.toNat with
  | 0 => some .rctl
  | 1 => some .rne
  | 2 => some .rz
  | 3 => some .rdn
  | 4 => some .rup
  | _ => none

/-- CND of `icmp` (R133). -/
def IntCond.code : IntCond → BitVec 3
  | .eq => 0
  | .ne => 1
  | .lt => 2
  | .le => 3
  | .gt => 4
  | .ge => 5
def IntCond.ofCode (x : BitVec 3) : Option IntCond :=
  match x.toNat with
  | 0 => some .eq
  | 1 => some .ne
  | 2 => some .lt
  | 3 => some .le
  | 4 => some .gt
  | 5 => some .ge
  | _ => none

/-- CND of `fcmp` (R168). -/
def FpCond.code : FpCond → BitVec 3
  | .eq => 0
  | .ne => 1
  | .lt => 2
  | .le => 3
  | .gt => 4
  | .ge => 5
  | .un => 6
  | .num => 7
def FpCond.ofCode (x : BitVec 3) : FpCond :=
  match x.toNat with
  | 0 => .eq
  | 1 => .ne
  | 2 => .lt
  | 3 => .le
  | 4 => .gt
  | 5 => .ge
  | 6 => .un
  | _ => .num

/-- CND of `afcmp` (R202). -/
def AfCond.code : AfCond → BitVec 3
  | .lt => 0
  | .le => 1
  | .gt => 2
  | .ge => 3
  | .eq => 4
  | .ne => 5
def AfCond.ofCode (x : BitVec 3) : Option AfCond :=
  match x.toNat with
  | 0 => some .lt
  | 1 => some .le
  | 2 => some .gt
  | 3 => some .ge
  | 4 => some .eq
  | 5 => some .ne
  | _ => none

/-- FT (R173). -/
def FpTy.code : FpTy → BitVec 2
  | .f32 => 0
  | .f16 => 1
  | .bf16 => 2
def FpTy.ofCode (x : BitVec 2) : Option FpTy :=
  match x.toNat with
  | 0 => some .f32
  | 1 => some .f16
  | 2 => some .bf16
  | _ => none

/-- BF (R165). -/
def HalfTy.bit : HalfTy → Bool
  | .f16 => false
  | .bf16 => true
def HalfTy.ofBit (b : Bool) : HalfTy := if b then .bf16 else .f16

/-- ST (R172). -/
def CvtSrc.code : CvtSrc → BitVec 3
  | .f32 => 0
  | .f16 => 1
  | .bf16 => 2
  | .f16h => 3
  | .bf16h => 4
def CvtSrc.ofCode (x : BitVec 3) : Option CvtSrc :=
  match x.toNat with
  | 0 => some .f32
  | 1 => some .f16
  | 2 => some .bf16
  | 3 => some .f16h
  | 4 => some .bf16h
  | _ => none

/-- The format a source code names (R172). -/
def CvtSrc.fmt : CvtSrc → FpTy
  | .f32 => .f32
  | .f16 | .f16h => .f16
  | .bf16 | .bf16h => .bf16

/-- MODE of `shfl` (R146). -/
def ShflMode.code : ShflMode → BitVec 2
  | .idx => 0
  | .up => 1
  | .down => 2
  | .xor => 3
def ShflMode.ofCode (x : BitVec 2) : ShflMode :=
  match x.toNat with
  | 0 => .idx
  | 1 => .up
  | 2 => .down
  | _ => .xor

/-- SEL of `rdsp` (R149). -/
def SpecialVal.code : SpecialVal → BitVec 4
  | .lane => 0
  | .group => 1
  | .team => 2
  | .core => 3
  | .cluster => 4
  | .pos => 5
  | .phase => 6
  | .splits => 7
  | .depth => 8
  | .grpsz => 9
  | .nteams => 10
  | .sched => 11
  | .helper => 12
  | .xgrp => 13
  | .spbase => 14
def SpecialVal.ofCode (x : BitVec 4) : Option SpecialVal :=
  match x.toNat with
  | 0 => some .lane
  | 1 => some .group
  | 2 => some .team
  | 3 => some .core
  | 4 => some .cluster
  | 5 => some .pos
  | 6 => some .phase
  | 7 => some .splits
  | 8 => some .depth
  | 9 => some .grpsz
  | 10 => some .nteams
  | 11 => some .sched
  | 12 => some .helper
  | 13 => some .xgrp
  | 14 => some .spbase
  | _ => none

/-- The selector of `splitq` (R118). -/
def SplitSel.code : SplitSel → BitVec 2
  | .mask => 0
  | .count => 1
  | .depth => 2
  | .join => 3
def SplitSel.ofCode (x : BitVec 2) : SplitSel :=
  match x.toNat with
  | 0 => .mask
  | 1 => .count
  | 2 => .depth
  | _ => .join

/-- SEL of `afsymq` (R204). -/
def PoolSel.code : PoolSel → BitVec 2
  | .next => 0
  | .live => 1
  | .quota => 2
  | .free => 3
def PoolSel.ofCode (x : BitVec 2) : PoolSel :=
  match x.toNat with
  | 0 => .next
  | 1 => .live
  | 2 => .quota
  | _ => .free

/-- A local space as one bit (R211). -/
def Space.bit : Space → Bool
  | .sp => false
  | .vt => true
def Space.ofBit (b : Bool) : Space := if b then .vt else .sp
/-- A local space in two bits (R211) or three (R60). -/
def Space.ofCode (x : Nat) : Option Space :=
  match x with
  | 0 => some .sp
  | 1 => some .vt
  | _ => none

/-- SIZE (R60). -/
def MSize.code : MSize → BitVec 3
  | .n32 => 0
  | .n8 => 1
  | .s8 => 2
  | .n16 => 3
  | .s16 => 4
  | .n64 => 5
  | .n128 => 6
/-- SIZE 110 is reserved before version 3 (R73). -/
def MSize.ofCode (ver : Nat) (x : BitVec 3) : Option MSize :=
  match x.toNat with
  | 0 => some .n32
  | 1 => some .n8
  | 2 => some .s8
  | 3 => some .n16
  | 4 => some .s16
  | 5 => some .n64
  | 6 => if ver ≥ 3 then some .n128 else none
  | _ => none

/-- The number of registers of a size, which D must be a multiple of (R60). -/
def MSize.regs : MSize → Nat
  | .n64 => 2
  | .n128 => 4
  | _ => 1

/-- The bytes of a size (R60). -/
def MSize.bytes : MSize → Nat
  | .n32 => 4
  | .n8 | .s8 => 1
  | .n16 | .s16 => 2
  | .n64 => 8
  | .n128 => 16

/-- The sizes of a store (R210). -/
def MSize.isStore : MSize → Bool
  | .s8 | .s16 => false
  | _ => true

/-- The atomic operations (R210). -/
def AtomOp.code : AtomOp → BitVec 3
  | .add => 0
  | .min => 1
  | .max => 2
  | .and => 3
  | .or => 4
  | .xor => 5
  | .exch => 6
  | .cas => 7
def AtomOp.ofCode (x : BitVec 3) : AtomOp :=
  match x.toNat with
  | 0 => .add
  | 1 => .min
  | 2 => .max
  | 3 => .and
  | 4 => .or
  | 5 => .xor
  | 6 => .exch
  | _ => .cas

/-- SCOPE (R211). -/
def Scope.code : Scope → BitVec 2
  | .core => 0
  | .part => 1
  | .sys => 2
def Scope.ofCode (x : BitVec 2) : Option Scope :=
  match x.toNat with
  | 0 => some .core
  | 1 => some .part
  | 2 => some .sys
  | _ => none
/-- A non-zero SCOPE needs ACQ or REL (R211). -/
def Scope.okWith (s : Scope) (acqRel : Bool) : Bool := acqRel || s == .core

/-- RSP (R302). -/
def RSpace.code : RSpace → BitVec 2
  | .win => 0
  | .cl => 1
  | .vt => 2
  | .reg => 3
def RSpace.ofCode (x : BitVec 2) : RSpace :=
  match x.toNat with
  | 0 => .win
  | 1 => .cl
  | 2 => .vt
  | _ => .reg

/-- OPR of `cvblend` (R294). -/
def BlendOp.code : BlendOp → BitVec 3
  | .over => 0
  | .src => 1
  | .dover => 2
  | .inn => 3
  | .out => 4
  | .atop => 5
  | .xor => 6
  | .plus => 7
def BlendOp.ofCode (x : BitVec 3) : BlendOp :=
  match x.toNat with
  | 0 => .over
  | 1 => .src
  | 2 => .dover
  | 3 => .inn
  | 4 => .out
  | 5 => .atop
  | 6 => .xor
  | _ => .plus

/-- SEL of `cvq` (R296). -/
def CvqSel.code : CvqSel → BitVec 3
  | .recd => 0
  | .tang => 1
  | .clip => 2
  | .seq => 3
  | .openMask => 4
def CvqSel.ofCode (x : BitVec 3) : Option CvqSel :=
  match x.toNat with
  | 0 => some .recd
  | 1 => some .tang
  | 2 => some .clip
  | 3 => some .seq
  | 4 => some .openMask
  | _ => none

/-- A number in a three-bit field. -/
def fin8 (x : BitVec 3) : Fin 8 := ⟨x.toNat, x.isLt⟩
def fin8Code (k : Fin 8) : BitVec 3 := BitVec.ofNat 3 k.val
def fin4 (x : BitVec 2) : Fin 4 := ⟨x.toNat, x.isLt⟩
def fin4Code (k : Fin 4) : BitVec 2 := BitVec.ofNat 2 k.val
/-- WID (R141): 0 to 4. -/
def fin5 (x : BitVec 3) : Option (Fin 5) := if h : x.toNat < 5 then some ⟨x.toNat, h⟩ else none
/-- WORDS (R305): 0 to 8. -/
def fin9 (x : BitVec 4) : Option (Fin 9) := if h : x.toNat < 9 then some ⟨x.toNat, h⟩ else none

/-! ## Pair halves (R67, R73) -/

/-- The pair opcode (R67). -/
def HalfOp.pop : HalfOp → Nat
  | .mov => 0
  | .iadd _ => 1
  | .isub _ => 2
  | .imin _ => 3
  | .imax _ => 4
  | .and => 5
  | .or => 6
  | .xor => 7
  | .shl => 8
  | .shr => 9
  | .sar => 10
  | .fadd _ => 11
  | .fsub _ => 12
  | .fmul _ => 13
  | .fmin => 14
  | .fmax => 15
  | .hadd2 _ => 16
  | .hmul2 _ => 17
  | .ineg => 18
  | .iabs => 19

/-- An integer type's TV. -/
def IntTy.tv : IntTy → BitVec 6
  | .n32 => 0x00
  | .s32 => 0x08

/-- The TV code (R67). -/
def HalfOp.tv : HalfOp → BitVec 6
  | .iadd t | .isub t | .imin t | .imax t => t.tv
  | .sar | .ineg | .iabs => 0x08
  | .fadd r | .fsub r | .fmul r => 0b010#3 ++ r.code
  | .fmin | .fmax => 0x10
  | .hadd2 r | .hmul2 r => 0b011#3 ++ r.code
  | _ => 0x00

/-- An integer type from a TV. -/
def IntTy.ofTv (tv : BitVec 6) : Option IntTy :=
  if tv = 0x00 then some .n32 else if tv = 0x08 then some .s32 else none

/-- A rounding from a TV with type bits `ty`; in version 2 only the default code is legal, and it means
round to nearest even (R73). -/
def Rnd.ofTv (ver : Nat) (ty : BitVec 3) (tv : BitVec 6) : Option Rnd :=
  if tv.extractLsb' 3 3 ≠ ty then none
  else if ver ≥ 3 then Rnd.ofCode (tv.extractLsb' 0 3)
  else if tv.extractLsb' 0 3 = 0 then some .rne else none

/-- The pair opcode is assigned in the version (R67, R73). -/
def popOk (ver : Nat) (pop : BitVec 6) : Bool := pop.toNat < 18 || (ver ≥ 3 && pop.toNat < 20)

/-- The operation of a pair half (R67). -/
def HalfOp.ofCode (ver : Nat) (pop tv : BitVec 6) : Option HalfOp :=
  match pop.toNat with
  | 0 => if tv = 0 then some .mov else none
  | 1 => (IntTy.ofTv tv).map .iadd
  | 2 => (IntTy.ofTv tv).map .isub
  | 3 => (IntTy.ofTv tv).map .imin
  | 4 => (IntTy.ofTv tv).map .imax
  | 5 => if tv = 0 then some .and else none
  | 6 => if tv = 0 then some .or else none
  | 7 => if tv = 0 then some .xor else none
  | 8 => if tv = 0 then some .shl else none
  | 9 => if tv = 0 then some .shr else none
  | 10 => if tv = 0x08 then some .sar else none
  | 11 => (Rnd.ofTv ver 0b010 tv).map .fadd
  | 12 => (Rnd.ofTv ver 0b010 tv).map .fsub
  | 13 => (Rnd.ofTv ver 0b010 tv).map .fmul
  | 14 => if tv = 0x10 then some .fmin else none
  | 15 => if tv = 0x10 then some .fmax else none
  | 16 => (Rnd.ofTv ver 0b011 tv).map .hadd2
  | 17 => (Rnd.ofTv ver 0b011 tv).map .hmul2
  | 18 => if tv = 0x08 then some .ineg else none
  | 19 => if tv = 0x08 then some .iabs else none
  | _ => none

/-- A half's operation and hold (R67, R71). -/
def halfOp (ver : Nat) (x : BitVec 31) : Dec HalfOp := do
  let op ← modVal (HalfOp.ofCode ver (x.extractLsb' 25 6) (x.extractLsb' 0 6))
  modOk (!x.getLsbD 6 || (x.extractLsb' 9 8).toNat < 192)
  pure op

/-- A half's register fields (R67). -/
def halfRegs (ver : Nat) (x : BitVec 31) : Dec HalfRegs := do
  let b ← getReg ver .any (x.extractLsb' 9 8)
  regOk (!(RegClass.vec.has b && !RegClass.vecd.has b))
  if h : (x.extractLsb' 17 8).toNat < 192 then
    pure { d := ⟨(x.extractLsb' 17 8).toNat, h⟩, b := b, g := fin4 (x.extractLsb' 7 2), hb := x.getLsbD 6 }
  else .error reservedRegister

/-- The instruction of a pair word, by the operation of its first half. -/
def pairInstr (st : Bool) (op : HalfOp) (x : HalfRegs) (y : PairHalf) : Instr :=
  match op with
  | .mov => .movPair st x y
  | .iadd t => .iaddPair st t x y
  | .isub t => .isubPair st t x y
  | .imin t => .iminPair st t x y
  | .imax t => .imaxPair st t x y
  | .and => .andPair st x y
  | .or => .orPair st x y
  | .xor => .xorPair st x y
  | .shl => .shlPair st x y
  | .shr => .shrPair st x y
  | .sar => .sarPair st x y
  | .fadd r => .faddPair st r x y
  | .fsub r => .fsubPair st r x y
  | .fmul r => .fmulPair st r x y
  | .fmin => .fminPair st x y
  | .fmax => .fmaxPair st x y
  | .hadd2 r => .hadd2Pair st r x y
  | .hmul2 r => .hmul2Pair st r x y
  | .ineg => .inegPair st x y
  | .iabs => .iabsPair st x y

/-- Decoding a pair word (R67, R72). -/
def decodePair (ver : Nat) (w : BitVec 64) : Dec Instr := do
  if ver ≤ 1 then .error illegalOpcode
  let x := w.extractLsb' 31 31
  let y := w.extractLsb' 0 31
  if !(popOk ver (x.extractLsb' 25 6) && popOk ver (y.extractLsb' 25 6)) then .error illegalOpcode
  let xo ← halfOp ver x
  let yo ← halfOp ver y
  let xr ← halfRegs ver x
  let yr ← halfRegs ver y
  pure (pairInstr (w.getLsbD 63) xo xr { op := yo, r := yr })

/-- The bits of a pair half (R67). -/
def PairHalf.bits (h : PairHalf) : BitVec 31 :=
  BitVec.ofNat 6 h.op.pop ++ BitVec.ofNat 8 h.r.d.val ++ h.r.b.code ++ fin4Code h.r.g ++ boolBit h.r.hb ++ h.op.tv

/-- The word of a pair. -/
def pairWord (st : Bool) (op : HalfOp) (x : HalfRegs) (y : PairHalf) : BitVec 64 :=
  boolBit st ++ 1#1 ++ PairHalf.bits { op := op, r := x } ++ y.bits

/-! ## Shared shapes of full words -/

/-- Opcodes with two sources and no modifier but those of `mask`. -/
def dec2 (ver : Nat) (f : Fields) (dc : RegClass) (mask : BitVec 15)
    (mk : Guard → Hold → Reg → Reg → Reg → Instr) : Dec Instr := do
  f.form ver .fix .src .src .no mask
  let d ← getReg ver dc f.d
  let a ← getReg ver .any f.a
  let b ← getReg ver .any f.b
  pure (mk f.guard f.hold d a b)

/-- Opcodes with one source. -/
def dec1 (ver : Nat) (f : Fields) (dc ac : RegClass) (mask : BitVec 15)
    (mk : Guard → Hold → Reg → Reg → Instr) : Dec Instr := do
  f.form ver .fix .src .no .no mask
  let d ← getReg ver dc f.d
  let a ← getReg ver ac f.a
  pure (mk f.guard f.hold d a)

/-- Opcodes with three sources. -/
def dec3 (ver : Nat) (f : Fields) (dc : RegClass) (mask : BitVec 15)
    (mk : Guard → Hold → Reg → Reg → Reg → Reg → Instr) : Dec Instr := do
  f.form ver .fix .src .src .src mask
  let d ← getReg ver dc f.d
  let a ← getReg ver .any f.a
  let b ← getReg ver .any f.b
  let c ← getReg ver .any f.c
  pure (mk f.guard f.hold d a b c)

/-- The immediate form of an opcode with D and A (R58). -/
def decImm (ver : Nat) (f : Fields) (dc : RegClass) (mk : Guard → Reg → Reg → BitVec 32 → Instr) : Dec Instr := do
  let d ← getReg ver dc f.d
  let a ← getReg ver .any f.a
  pure (mk f.guard d a f.imm)

/-- Row 0x4 (R180), `frnd` and other words with a vector D, a source A and RND alone. -/
def decRnd1 (ver : Nat) (f : Fields) (mk : Guard → Hold → Reg → Reg → Rnd → Instr) : Dec Instr := do
  let r ← modVal (Rnd.ofCode (f.m.extractLsb' 0 3))
  dec1 ver f .vec .any 0x7 (fun g h d a => mk g h d a r)

/-- Words with a vector D, sources A and B and RND alone, or in immediate form (R164). -/
def decRnd2 (ver : Nat) (f : Fields) (mk : Guard → Hold → Reg → Reg → Reg → Rnd → Instr)
    (mki : Guard → Reg → Reg → BitVec 32 → Instr) : Dec Instr :=
  if f.isImm then decImm ver f .vec mki
  else do
    let r ← modVal (Rnd.ofCode (f.m.extractLsb' 0 3))
    dec2 ver f .vec 0x7 (fun g h d a b => mk g h d a b r)

/-- Words whose only field is the guard. -/
def decPlain (ver : Nat) (f : Fields) (mk : Guard → Instr) : Dec Instr := do
  f.form ver .no .no .no .no 0
  pure (mk f.guard)

/-- Affine words with affine D and A alone (R194). -/
def decAf1 (ver : Nat) (f : Fields) (mk : Guard → Fin 8 → Fin 8 → Instr) : Dec Instr := do
  f.form ver .fix .fix .no .no 0
  let d ← getNum f.d
  let a ← getNum f.a
  pure (mk f.guard d a)

/-- Affine words with affine D, A and B. -/
def decAf2 (ver : Nat) (f : Fields) (mk : Guard → Fin 8 → Fin 8 → Fin 8 → Instr) : Dec Instr := do
  f.form ver .fix .fix .fix .no 0
  let d ← getNum f.d
  let a ← getNum f.a
  let b ← getNum f.b
  pure (mk f.guard d a b)

/-- Affine words with affine D and A and a source B. -/
def decAfs (ver : Nat) (f : Fields) (mk : Guard → Hold → Fin 8 → Fin 8 → Reg → Instr) : Dec Instr := do
  f.form ver .fix .fix .src .no 0
  let d ← getNum f.d
  let a ← getNum f.a
  let b ← getReg ver .any f.b
  pure (mk f.guard f.hold d a b)

/-- Affine reads (R194). -/
def decAfr (ver : Nat) (f : Fields) (mk : Guard → Reg → Fin 8 → Instr) : Dec Instr := do
  f.form ver .fix .fix .no .no 0
  let d ← getReg ver .vs f.d
  let a ← getNum f.a
  pure (mk f.guard d a)

/-- The memory form's modifiers, with the limits of R210. -/
structure MemMods where
  space : Space
  size : MSize
  col : Fin 8
  rp : Fin 8
  flags : BitVec 3

/-- Checks of the memory form (R60, R210). `readsD`: a hold may name D. -/
def Fields.mem (f : Fields) (ver : Nat) (usesD readsD : Bool) (szOk : MSize → Bool) (colOk rpOk : Bool)
    (flagMask : BitVec 3) : Dec MemMods := do
  let spc ← modVal (Space.ofCode (f.m.extractLsb' 12 3).toNat)
  let sz ← modVal (MSize.ofCode ver (f.m.extractLsb' 9 3))
  let col := fin8 (f.m.extractLsb' 6 3)
  let rp := fin8 (f.m.extractLsb' 3 3)
  let fl := f.m.extractLsb' 0 3
  modOk (szOk sz && (col.val == 0 || (colOk && spc == .vt)) && (rpOk || rp.val == 0) && fl &&& ~~~flagMask == 0)
  modOk (usesD || f.d == 0)
  modOk (match f.h.toNat with
    | 0 => true
    | 1 => f.a.toNat < 192
    | 2 => readsD && f.d.toNat < 192
    | _ => false)
  pure { space := spc, size := sz, col := col, rp := rp, flags := fl }

/-- D of a multi-register size (R60, R210): a multiple of its register count, and not `v[ik]`. -/
def regsOk (d : Reg) (n : Nat) : Bool :=
  match d with
  | .vi _ => n == 1
  | r => r.num % n == 0

/-- The SCOPE, ACQ and REL fields of an engine word of rows 0x7, 0x8 and 0x9 (R211). -/
def getScope (x : BitVec 2) (acqRel : Bool) : Dec Scope := do
  let s ← modVal (Scope.ofCode x)
  modOk (s.okWith acqRel)
  pure s

/-! ## The rows -/

/-- Row 0x0 (R104). -/
def decRow0 (ver : Nat) (f : Fields) (col : Nat) : Dec Instr :=
  match col with
  | 0 => decPlain ver f .nop
  | 1 => do
    modOk (f.d == 0 && f.h == 0)
    pure (.bra f.guard f.disp24 f.m)
  | 2 => do
    f.form ver .no .src .no .no 0x7FFF
    let a ← getReg ver .vs f.a
    pure (.brx f.guard f.hold a f.m)
  | 3 => do
    modOk (f.h == 0)
    let d ← getReg ver .vsc0 f.d
    pure (.call f.guard d f.disp24 f.m)
  | 4 => do
    f.form ver .no .src .no .no 0x7FFF
    let a ← getReg ver .vs f.a
    pure (.ret f.guard f.hold a f.m)
  | 5 => decPlain ver f .bar
  | 6 => decPlain ver f .barr
  | 7 => decPlain ver f .barw
  | 8 => do
    modOk (f.h == 0 && f.m == 0)
    let d ← getReg ver .s0 f.d
    pure (.yield f.guard d f.disp24)
  | 9 => decPlain ver f .exit
  | 10 => do
    f.form ver .fix .fix .no .no 0
    let d ← getReg ver .s0 f.d
    let a ← getReg ver .evenS f.a
    pure (.launch f.guard d a)
  | 11 => do
    f.form ver .fix .fix .no .no 0x7
    let d ← getReg ver .s0 f.d
    let a ← getReg ver .s0 f.a
    pure (.chwait f.guard d a (fin8 (f.m.extractLsb' 0 3)))
  | 12 => decPlain ver f .phase
  | 13 => do
    f.form ver .no .fix .no .no 0
    let a ← getReg ver .sc f.a
    pure (.post f.guard a)
  | 14 => do
    f.form ver .no .no .no .no 0xF
    modOk (1 ≤ (f.m.extractLsb' 0 4).toNat && (f.m.extractLsb' 0 4).toNat ≤ 11)
    pure (.regrow f.guard (f.m.extractLsb' 0 4))
  | 15 => do
    f.form ver .no .no .no .no 0xF
    modOk (1 ≤ (f.m.extractLsb' 0 4).toNat && (f.m.extractLsb' 0 4).toNat ≤ 11)
    pure (.regshrink f.guard (f.m.extractLsb' 0 4))
  | 16 => do
    f.form ver .fix .no .no .no 0x3
    let d ← getReg ver .vec f.d
    pure (.splitq f.guard d (SplitSel.ofCode (f.m.extractLsb' 0 2)))
  | _ => .error illegalOpcode

/-- An integer word with SAT and TY (R127). -/
def decSatTy (ver : Nat) (f : Fields) (mk : Guard → Hold → Reg → Reg → Reg → Bool → IntTy → Instr)
    (mki : Guard → Reg → Reg → BitVec 32 → Instr) : Dec Instr :=
  if f.isImm then decImm ver f .vs mki
  else dec2 ver f .vs 0x3 (fun g h d a b => mk g h d a b (f.m.getLsbD 1) (IntTy.ofBit (f.m.getLsbD 0)))

/-- An integer word with two sources and no modifier, or in immediate form (R127). -/
def decLogic (ver : Nat) (f : Fields) (mk : Guard → Hold → Reg → Reg → Reg → Instr)
    (mki : Guard → Reg → Reg → BitVec 32 → Instr) : Dec Instr :=
  if f.isImm then decImm ver f .vs mki else dec2 ver f .vs 0 mk

/-- `iaddc` and `isubb` (R127, R131). -/
def decCarry (ver : Nat) (f : Fields)
    (mk : Guard → Hold → Reg → Reg → Reg → Option (Fin 8) → Fin 8 → Instr) : Dec Instr := do
  f.form ver .fix .src .src (if f.m.getLsbD 3 then .fix else .no) 0x78
  let d ← getReg ver .vs f.d
  let a ← getReg ver .any f.a
  let b ← getReg ver .any f.b
  if f.m.getLsbD 3 then
    let c ← getNum f.c
    pure (mk f.guard f.hold d a b (some c) (fin8 (f.m.extractLsb' 4 3)))
  else pure (mk f.guard f.hold d a b none (fin8 (f.m.extractLsb' 4 3)))

/-- The field descriptor of `bfx` and `bfi` (R138): an immediate, or the register field `x`. -/
def getDesc (ver : Nat) (f : Fields) (x : BitVec 8) : Dec FieldDesc :=
  if f.m.getLsbD 1 then pure (.imm (f.m.extractLsb' 2 5) (f.m.extractLsb' 7 5))
  else do
    let r ← getReg ver .any x
    pure (.reg r)

/-- Row 0x1 (R127). -/
def decRow1 (ver : Nat) (f : Fields) (col : Nat) : Dec Instr :=
  match col with
  | 0 => dec1 ver f .vs .any 0 .mov
  | 1 => do
    modOk (f.isImm && f.a == 0)
    let d ← getReg ver .vs f.d
    pure (.movi f.guard d f.imm)
  | 2 => decSatTy ver f .iadd .iaddImm
  | 3 => decSatTy ver f .isub .isubImm
  | 4 => decSatTy ver f .imul .imulImm
  | 5 => dec2 ver f .vs 0x1 (fun g h d a b => .imulh g h d a b (IntTy.ofBit (f.m.getLsbD 0)))
  | 6 => do
    modOk (!(f.m.getLsbD 1 && f.m.getLsbD 0))
    dec3 ver f .vs 0x3 (fun g h d a b c => .imad g h d a b c (f.m.getLsbD 1) (IntTy.ofBit (f.m.getLsbD 0)))
  | 7 => decCarry ver f .iaddc
  | 8 => decCarry ver f .isubb
  | 9 => if f.isImm then decImm ver f .vs .iminImm
    else dec2 ver f .vs 0x1 (fun g h d a b => .imin g h d a b (IntTy.ofBit (f.m.getLsbD 0)))
  | 10 => if f.isImm then decImm ver f .vs .imaxImm
    else dec2 ver f .vs 0x1 (fun g h d a b => .imax g h d a b (IntTy.ofBit (f.m.getLsbD 0)))
  | 11 => dec1 ver f .vs .any 0x2 (fun g h d a => .iabs g h d a (f.m.getLsbD 1))
  | 12 => dec1 ver f .vs .any 0x2 (fun g h d a => .ineg g h d a (f.m.getLsbD 1))
  | 13 => do
    f.form ver .fix .src .src .no 0x1D
    let cnd ← modVal (IntCond.ofCode (f.m.extractLsb' 2 3))
    let p ← getNum f.d
    let a ← getReg ver .any f.a
    let b ← getReg ver .any f.b
    pure (.icmp f.guard f.hold p a b cnd (IntTy.ofBit (f.m.getLsbD 0)))
  | 14 => do
    f.form ver .fix .src .src .fix 0
    let d ← getReg ver .vs f.d
    let a ← getReg ver .any f.a
    let b ← getReg ver .any f.b
    let p ← getNum f.c
    pure (.isel f.guard f.hold d a b p)
  | 15 => dec2 ver f .vs 0x1F (fun g h d a b => .lea g h d a b (f.m.extractLsb' 0 5))
  | 16 => decLogic ver f .and .andImm
  | 17 => decLogic ver f .or .orImm
  | 18 => decLogic ver f .xor .xorImm
  | 19 => dec1 ver f .vs .any 0 .not
  | 20 => decLogic ver f .andn .andnImm
  | 21 => decLogic ver f .shl .shlImm
  | 22 => decLogic ver f .shr .shrImm
  | 23 => decLogic ver f .sar .sarImm
  | 24 => if f.isImm then decImm ver f .vs .rotImm
    else dec2 ver f .vs 0x1 (fun g h d a b => .rot g h d a b (f.m.getLsbD 0))
  | 25 => dec3 ver f .vs 0x1 (fun g h d a b c => .fsh g h d a b c (f.m.getLsbD 0))
  | 26 => do
    f.form ver .fix .src (if f.m.getLsbD 1 then .no else .src) .no 0xFFF
    let d ← getReg ver .vs f.d
    let a ← getReg ver .any f.a
    let x ← getDesc ver f f.b
    pure (.bfx f.guard f.hold d a x (if f.m.getLsbD 0 then .s32 else .n32))
  | 27 => do
    f.form ver .fix .src .src (if f.m.getLsbD 1 then .no else .src) 0xFFE
    let d ← getReg ver .vs f.d
    let a ← getReg ver .any f.a
    let b ← getReg ver .any f.b
    let x ← getDesc ver f f.c
    pure (.bfi f.guard f.hold d a b x)
  | 28 => dec1 ver f .vs .any 0 .popc
  | 29 => dec1 ver f .vs .any 0 .clz
  | 30 => dec1 ver f .vs .any 0 .brev
  | 31 => dec3 ver f .vs 0 .prmt
  | _ => .error illegalOpcode

/-- `pmov` by its mode (R145). -/
def decPmov (ver : Nat) (f : Fields) : Dec Instr :=
  match (f.m.extractLsb' 0 2).toNat with
  | 0 => do
    f.form ver .fix .fix .no .no 0x3
    let d ← getReg ver .vs f.d
    let p ← getNum f.a
    pure (.pmov f.guard f.hold (.tov d p))
  | 1 => do
    f.form ver .fix .src .no .no 0x3
    let p ← getNum f.d
    let a ← getReg ver .any f.a
    pure (.pmov f.guard f.hold (.fromv p a))
  | 2 => do
    f.form ver .fix .no .no .no 0x3
    let d ← getReg ver .vs f.d
    pure (.pmov f.guard f.hold (.pack d))
  | _ => do
    f.form ver .no .src .no .no 0x3
    let a ← getReg ver .any f.a
    pure (.pmov f.guard f.hold (.unpack a))

/-- `vote` by its mode (R148). -/
def decVote (ver : Nat) (f : Fields) : Dec Instr := do
  f.form ver .fix .fix .no .no 0x7
  match (f.m.extractLsb' 0 3).toNat with
  | 0 => do
    let d ← getReg ver .vs f.d
    let p ← getNum f.a
    pure (.vote f.guard (.ballot d) p)
  | 1 => do
    let d ← getNum f.d
    let p ← getNum f.a
    pure (.vote f.guard (.any d) p)
  | 2 => do
    let d ← getNum f.d
    let p ← getNum f.a
    pure (.vote f.guard (.all d) p)
  | 3 => do
    let d ← getNum f.d
    let p ← getNum f.a
    pure (.vote f.guard (.eq d) p)
  | 4 => do
    let d ← getReg ver .vs f.d
    let p ← getNum f.a
    pure (.vote f.guard (.cnt d) p)
  | _ => .error illegalModifier

/-- Row 0x2 (R141). -/
def decRow2 (ver : Nat) (f : Fields) (col : Nat) : Dec Instr :=
  match col with
  | 0 =>
    if f.isImm then do
      modOk (f.a == 0)
      let i ← getNum f.d
      pure (.ixsetImm f.guard i f.imm)
    else if f.m.getLsbD 0 then do
      f.form ver .fix .fix .no .no 0x1
      let d ← getReg ver .vs f.d
      let i ← getNum f.a
      pure (.ixsetGet f.guard d i)
    else do
      f.form ver .fix .src .no .no 0x1
      let i ← getNum f.d
      let a ← getReg ver .any f.a
      pure (.ixset f.guard f.hold i a)
  | 1 =>
    if f.isImm then do
      let i ← getNum f.d
      let j ← getNum f.a
      pure (.ixaddImm f.guard i j f.imm)
    else do
      f.form ver .fix .fix .src .no 0
      let i ← getNum f.d
      let j ← getNum f.a
      let b ← getReg ver .any f.b
      pure (.ixadd f.guard f.hold i j b)
  | 2 => do
    f.form ver .no .fix .fix .no 0
    let a ← getReg ver .sc f.a
    let b ← getReg ver .sc f.b
    pure (.ixbnd f.guard a b)
  | 3 => do
    f.form ver .fix .fix .fix .no 0xF
    let p ← getNum f.d
    let a ← getNum f.a
    let b ← getNum f.b
    pure (.pset f.guard p a b (f.m.extractLsb' 0 4))
  | 4 => decPmov ver f
  | 5 => do
    f.form ver .fix .src .fix .no 0x1F
    let wid ← modVal (fin5 (f.m.extractLsb' 2 3))
    let d ← getReg ver .vec f.d
    let a ← getReg ver .vec f.a
    let b ← getReg ver .sc f.b
    pure (.shfl f.guard f.hold d a b wid (ShflMode.ofCode (f.m.extractLsb' 0 2)))
  | 6 => do
    f.form ver .fix .src .src .no 0x1F
    let wid ← modVal (fin5 (f.m.extractLsb' 2 3))
    let d ← getReg ver .vec f.d
    let a ← getReg ver .vec f.a
    let b ← getReg ver .vec f.b
    pure (.shflx f.guard f.hold d a b wid (ShflMode.ofCode (f.m.extractLsb' 0 2)))
  | 7 => do
    f.form ver .fix .src .fix .no 0
    let d ← getReg ver .s f.d
    let a ← getReg ver .vec f.a
    let b ← getReg ver .sc f.b
    pure (.bcast f.guard f.hold d a b)
  | 8 => decVote ver f
  | 9 => do
    f.form ver .fix .no .no .no 0xF
    let sel ← modVal (SpecialVal.ofCode (f.m.extractLsb' 0 4))
    let d ← getReg ver .vs f.d
    pure (.rdsp f.guard d sel)
  | _ => .error illegalOpcode

/-- `hadd2` and `hmul2` (R164). -/
def decHalf2 (ver : Nat) (f : Fields) (mk : Guard → Hold → Reg → Reg → Reg → HalfTy → Rnd → Instr)
    (mki : Guard → Reg → Reg → BitVec 32 → Instr) : Dec Instr :=
  if f.isImm then decImm ver f .vec mki
  else do
    let r ← modVal (Rnd.ofCode (f.m.extractLsb' 0 3))
    dec2 ver f .vec 0xF (fun g h d a b => mk g h d a b (HalfTy.ofBit (f.m.getLsbD 3)) r)

/-- `cvt` (R172). -/
def decCvt (ver : Nat) (f : Fields) : Dec Instr := do
  let r ← modVal (Rnd.ofCode (f.m.extractLsb' 0 3))
  let st ← modVal (CvtSrc.ofCode (f.m.extractLsb' 6 3))
  match (f.m.extractLsb' 3 3).toNat with
  | 5 => do
    modOk (st == .f32)
    dec2 ver f .vec 0x1FF (fun g h d a b => .cvt g h d a (.two .f16 b) r)
  | 6 => do
    modOk (st == .f32)
    dec2 ver f .vec 0x1FF (fun g h d a b => .cvt g h d a (.two .bf16 b) r)
  | n => do
    let dt ← modVal (FpTy.ofCode (if n < 3 then f.m.extractLsb' 3 2 else 3))
    modOk (st.fmt != dt)
    dec1 ver f .vec .any 0x1FF (fun g h d a => .cvt g h d a (.one st dt) r)

/-- `f2i` and `i2f` (R173, R174). -/
def decF2i (ver : Nat) (f : Fields) (mk : Guard → Hold → Reg → Reg → FpTy → IntTy → Rnd → Instr) : Dec Instr := do
  let r ← modVal (Rnd.ofCode (f.m.extractLsb' 0 3))
  let ft ← modVal (FpTy.ofCode (f.m.extractLsb' 4 2))
  dec1 ver f .vec .any 0x3F (fun g h d a => mk g h d a ft (IntTy.ofBit (f.m.getLsbD 3)) r)

/-- Row 0x3 (R164). -/
def decRow3 (ver : Nat) (f : Fields) (col : Nat) : Dec Instr :=
  match col with
  | 0 => decRnd2 ver f .fadd .faddImm
  | 1 => decRnd2 ver f .fsub .fsubImm
  | 2 => decRnd2 ver f .fmul .fmulImm
  | 3 => do
    let r ← modVal (Rnd.ofCode (f.m.extractLsb' 0 3))
    dec3 ver f .vec 0x1F (fun g h d a b c => .ffma g h d a b c (f.m.getLsbD 3) (f.m.getLsbD 4) r)
  | 4 => if f.isImm then decImm ver f .vec .fminImm else dec2 ver f .vec 0 .fmin
  | 5 => if f.isImm then decImm ver f .vec .fmaxImm else dec2 ver f .vec 0 .fmax
  | 6 => do
    f.form ver .fix .src .src .no 0x7
    let p ← getNum f.d
    let a ← getReg ver .any f.a
    let b ← getReg ver .any f.b
    pure (.fcmp f.guard f.hold p a b (FpCond.ofCode (f.m.extractLsb' 0 3)))
  | 7 => dec1 ver f .vec .any 0 .fclass
  | 8 => decRnd1 ver f .frnd
  | 9 => decHalf2 ver f .hadd2 .hadd2Imm
  | 10 => decHalf2 ver f .hmul2 .hmul2Imm
  | 11 => do
    let r ← modVal (Rnd.ofCode (f.m.extractLsb' 0 3))
    dec3 ver f .vec 0xF (fun g h d a b c => .hfma2 g h d a b c (HalfTy.ofBit (f.m.getLsbD 3)) r)
  | 12 => decCvt ver f
  | 13 => decF2i ver f .f2i
  | 14 => decF2i ver f .i2f
  | 15 => dec1 ver f .vec .vec 0x7 (fun g h d a => .kpack g h d a (fin8 (f.m.extractLsb' 0 3)))
  | 16 => dec1 ver f .vec .vec 0x7 (fun g h d a => .kunpk g h d a (fin8 (f.m.extractLsb' 0 3)))
  | 17 => do
    f.form ver .fix .src .fix .no 0x7
    let d ← getReg ver .vec f.d
    let a ← getReg ver .vec f.a
    let b ← getReg ver .sc f.b
    pure (.rqz f.guard f.hold d a b (fin8 (f.m.extractLsb' 0 3)))
  | _ => .error illegalOpcode

/-- Row 0x4 (R180); version 1 exchanges 0x085 and 0x086 (R74). -/
def decRow4 (ver : Nat) (f : Fields) (col : Nat) : Dec Instr :=
  match col with
  | 0 => decRnd1 ver f .frcp
  | 1 => decRnd1 ver f .frsq
  | 2 => decRnd1 ver f .fsqrt
  | 3 => decRnd1 ver f .fex2
  | 4 => decRnd1 ver f .flg2
  | 5 => decRnd1 ver f (if ver = 1 then .fcos else .fsin)
  | 6 => decRnd1 ver f (if ver = 1 then .fsin else .fcos)
  | 7 => decRnd1 ver f .ftanh
  | _ => .error illegalOpcode

/-- `afcond` by its mode (R200). -/
def decAfcond (ver : Nat) (f : Fields) : Dec Instr :=
  let k := f.m.extractLsb' 3 4
  let rad := f.m.getLsbD 2
  match (f.m.extractLsb' 0 2).toNat with
  | 0 => do
    f.form ver .fix .fix .no .no 0
    let d ← getNum f.d
    let a ← getNum f.a
    pure (.afcond f.guard f.hold d a .detach)
  | 1 => do
    f.form ver .fix .fix .no .no 0x7F
    modOk (k.toNat ≤ 8 && (rad || k.toNat != 0))
    let d ← getNum f.d
    let a ← getNum f.a
    pure (.afcond f.guard f.hold d a (.cnt k rad))
  | 2 => do
    f.form ver .fix .fix .src .no 0x7
    let d ← getNum f.d
    let a ← getNum f.a
    let t ← getReg ver .any f.b
    pure (.afcond f.guard f.hold d a (.thr rad t))
  | _ => .error illegalModifier

/-- `afterm` by its selector (R205). -/
def decAfterm (ver : Nat) (f : Fields) : Dec Instr :=
  match (f.m.extractLsb' 0 2).toNat with
  | 0 => do
    f.form ver .fix .fix .src .no 0x3
    let d ← getReg ver .vs f.d
    let a ← getNum f.a
    let j ← getReg ver .any f.b
    pure (.afterm f.guard f.hold d a (.coef j))
  | 1 => do
    f.form ver .fix .fix .src .no 0x3
    let d ← getReg ver .vs f.d
    let a ← getNum f.a
    let j ← getReg ver .any f.b
    pure (.afterm f.guard f.hold d a (.sym j))
  | 2 => do
    f.form ver .fix .fix .no .no 0x3
    let d ← getReg ver .vs f.d
    let a ← getNum f.a
    pure (.afterm f.guard f.hold d a .cnt)
  | _ => do
    f.form ver .fix .fix .no .no 0x3
    let d ← getReg ver .vs f.d
    let a ← getNum f.a
    pure (.afterm f.guard f.hold d a .flags)

/-- Row 0x5 (R194). -/
def decRow5 (ver : Nat) (f : Fields) (col : Nat) : Dec Instr :=
  match col with
  | 0 => do
    f.form ver .fix .src .src .no 0x1
    let d ← getNum f.d
    let a ← getReg ver .any f.a
    let b ← getReg ver .any f.b
    pure (.afset f.guard f.hold d a b (f.m.getLsbD 0))
  | 1 => do
    f.form ver .fix .src .src .no 0
    let d ← getNum f.d
    let a ← getReg ver .any f.a
    let b ← getReg ver .any f.b
    pure (.afint f.guard f.hold d a b)
  | 2 => decAf1 ver f .afmov
  | 3 => decAf2 ver f .afadd
  | 4 => decAf2 ver f .afsub
  | 5 => decAfs ver f .afscl
  | 6 => decAfs ver f .afaddc
  | 7 => decAf2 ver f .afmul
  | 8 => decAf1 ver f .afsqr
  | 9 => decAf1 ver f .afrcp
  | 10 => decAf2 ver f .afdiv
  | 11 => decAf1 ver f .afsqrt
  | 12 => decAfcond ver f
  | 13 => decAfr ver f .afctr
  | 14 => decAfr ver f .afrad
  | 15 => decAfr ver f .aflo
  | 16 => decAfr ver f .afhi
  | 17 => do
    f.form ver .fix .fix .fix .fix 0x7
    let cnd ← modVal (AfCond.ofCode (f.m.extractLsb' 0 3))
    let pt ← getNum f.d
    let a ← getNum f.a
    let b ← getNum f.b
    let pf ← getNum f.c
    regOk (pt != pf || pt == 0)
    pure (.afcmp f.guard pt a b pf cnd)
  | 18 =>
    if f.m.getLsbD 0 then do
      f.form ver .no .no .no .no 0x1
      pure (.afrelAll f.guard)
    else do
      f.form ver .no .fix .fix .no 0x1
      let a ← getReg ver .sc f.a
      let b ← getReg ver .sc f.b
      pure (.afrel f.guard a b)
  | 19 => do
    f.form ver .fix .no .no .no 0x3
    let d ← getReg ver .vs f.d
    pure (.afsymq f.guard d (PoolSel.ofCode (f.m.extractLsb' 0 2)))
  | 20 => decAfterm ver f
  | _ => .error illegalOpcode

/-- Loads (R210). -/
def decLoad (ver : Nat) (f : Fields) (bc : RegClass) (rpOk : Bool)
    (mk : Guard → Hold → Reg → Reg → BitVec 16 → Space → MSize → Fin 8 → Instr) : Dec Instr := do
  let m ← f.mem ver true false (fun _ => true) false rpOk 0
  let d ← getReg ver .vec f.d
  let a ← getReg ver bc f.a
  regOk (regsOk d m.size.regs)
  pure (mk f.guard f.hold d a f.disp16 m.space m.size m.rp)

/-- Stores (R210). -/
def decStore (ver : Nat) (f : Fields) (bc : RegClass)
    (mk : Guard → Hold → Reg → Reg → BitVec 16 → Space → MSize → Fin 8 → Instr) : Dec Instr := do
  let m ← f.mem ver true true MSize.isStore true false 0
  let d ← getReg ver .any f.d
  let a ← getReg ver bc f.a
  regOk (regsOk d m.size.regs)
  pure (mk f.guard f.hold d a f.disp16 m.space m.size m.col)

/-- The registers of an atomic's data, with the comparand of `.cas` (R210). -/
def atomRegs (w64 : Bool) (op : AtomOp) : Nat :=
  (if w64 then 2 else 1) * (if op = .cas then 2 else 1)

/-- Whether a size is one of an atomic's (R210). -/
def MSize.isAtom : MSize → Bool
  | .n32 | .n64 => true
  | _ => false

/-- The memory-form words without a D (R210): `pgreq`, `prf`. -/
def decProbe (ver : Nat) (f : Fields) (rpOk : Bool)
    (mk : Guard → Hold → Reg → BitVec 16 → Space → Fin 8 → Bool → Instr) : Dec Instr := do
  let m ← f.mem ver false false (· == .n32) false rpOk 1
  let a ← getReg ver (if m.flags.getLsbD 0 then .evenVS else .vs) f.a
  pure (mk f.guard f.hold a f.disp16 m.space m.rp (m.flags.getLsbD 0))

/-- Row 0x6 (R210, R211). -/
def decRow6 (ver : Nat) (f : Fields) (col : Nat) : Dec Instr :=
  match col with
  | 0 => decLoad ver f .vs true .ld
  | 1 => decStore ver f .vs .st
  | 2 => decLoad ver f .evenVS true .ldg
  | 3 => decLoad ver f .evenVS false (fun g h d a x spc sz _ => .ldgf g h d a x spc sz)
  | 4 => decStore ver f .evenVS .stg
  | 5 => do
    let m ← f.mem ver true true MSize.isAtom true false 7
    let d ← getReg ver .vecd f.d
    let a ← getReg ver .vs f.a
    regOk (regsOk d (atomRegs (m.size == .n64) (AtomOp.ofCode m.flags)))
    pure (.atom f.guard f.hold d a f.disp16 m.space (m.size == .n64) m.col (AtomOp.ofCode m.flags))
  | 6 => do
    let m ← f.mem ver true true MSize.isAtom false false 7
    let d ← getReg ver .vds f.d
    let a ← getReg ver .vs f.a
    regOk (regsOk d (atomRegs (m.size == .n64) (AtomOp.ofCode m.flags)))
    pure (.atomb f.guard f.hold d a f.disp16 m.space (m.size == .n64) (AtomOp.ofCode m.flags))
  | 7 => do
    f.form ver .no .no .no .no 0x3FF
    let sc ← modVal (Scope.ofCode (f.m.extractLsb' 8 2))
    modOk (f.m.extractLsb' 0 8 != 0xFF)
    pure (.fence f.guard sc (f.m.extractLsb' 0 8))
  | 8 => do
    f.form ver .fix .src .no .no 0x1
    let p ← getNum f.d
    let a ← getReg ver (if f.m.getLsbD 0 then .evenVS else .vs) f.a
    pure (.resq f.guard f.hold p a (f.m.getLsbD 0))
  | 9 => decProbe ver f true .pgreq
  | 10 => decProbe ver f false (fun g h a x spc _ w => .prf g h a x spc w)
  | _ => .error illegalOpcode

/-- Row 0x7 (R211, R242). -/
def decRow7 (ver : Nat) (f : Fields) (col : Nat) : Dec Instr :=
  match col with
  | 0 => do
    f.form ver .fix .fix .fix .fix 0xFF
    let sc ← getScope (f.m.extractLsb' 6 2) (f.m.getLsbD 4 || f.m.getLsbD 5)
    let ssp ← modVal (Space.ofCode (f.m.extractLsb' 2 2).toNat)
    let dsp ← modVal (Space.ofCode (f.m.extractLsb' 0 2).toNat)
    let d ← getReg ver .s0 f.d
    let a ← getReg ver .sc f.a
    let b ← getReg ver .sc f.b
    let c ← getReg ver .sc f.c
    pure (.cpy f.guard d a b c sc (f.m.getLsbD 5) (f.m.getLsbD 4) dsp ssp)
  | 1 => do
    f.form ver .no .fix .no .no 0
    let a ← getReg ver .s0 f.a
    pure (.cpyw f.guard a)
  | 2 => do
    f.form ver .no .fix .fix .no 0xD7
    let sc ← getScope (f.m.extractLsb' 6 2) (f.m.getLsbD 4)
    let a ← getReg ver .sc f.a
    let b ← getReg ver .sc f.b
    pure (.dectab f.guard a b sc (f.m.getLsbD 4) (fin8 (f.m.extractLsb' 0 3)))
  | 3 => do
    f.form ver .fix .fix .fix .no 0xDF
    let sc ← getScope (f.m.extractLsb' 6 2) (f.m.getLsbD 4)
    let d ← getReg ver .vecd f.d
    let a ← getReg ver .sc f.a
    let b ← getReg ver .sc f.b
    pure (.decv f.guard d a b sc (f.m.getLsbD 4) (Space.ofBit (f.m.getLsbD 3)) (fin8 (f.m.extractLsb' 0 3)))
  | 4 => do
    f.form ver .no .fix .no .no 0
    let a ← getReg ver .sc f.a
    pure (.lscfg f.guard a)
  | 5 => do
    f.form ver .no .fix .no .no 0
    let a ← getReg ver .s f.a
    pure (.lsgo f.guard a)
  | 6 => do
    f.form ver .fix .no .no .no 0
    let d ← getReg ver .s0 f.d
    pure (.lswait f.guard d)
  | _ => .error illegalOpcode

/-- Row 0x8 (R242). -/
def decRow8 (ver : Nat) (f : Fields) (col : Nat) : Dec Instr :=
  match col with
  | 0 => do
    f.form ver .no .fix .fix .fix 0xDF
    let sc ← getScope (f.m.extractLsb' 6 2) (f.m.getLsbD 4)
    let a ← getReg ver .sc f.a
    let b ← getReg ver .sc f.b
    let c ← getReg ver .sc f.c
    pure (.ldstw f.guard a b c sc (f.m.getLsbD 4) (Space.ofBit (f.m.getLsbD 3)) (fin8 (f.m.extractLsb' 0 3)))
  | 1 => do
    f.form ver .no .fix .fix .no 0xD8
    let sc ← getScope (f.m.extractLsb' 6 2) (f.m.getLsbD 4)
    let a ← getReg ver .sc f.a
    let b ← getReg ver .s0 f.b
    pure (.cbtab f.guard a b sc (f.m.getLsbD 4) (Space.ofBit (f.m.getLsbD 3)))
  | 2 => decPlain ver f .swpl
  | 3 => do
    f.form ver .no .fix .no .fix 0x3FFF
    let a ← getReg ver .vecd f.a
    let c ← getReg ver .s0 f.c
    pure (.mma f.guard a c (f.m.extractLsb' 4 10) (f.m.getLsbD 3) (fin8 (f.m.extractLsb' 0 3)))
  | 4 => do
    f.form ver .no .fix .fix .fix 0xF
    let a ← getReg ver .sc f.a
    let b ← getReg ver .sc f.b
    let c ← getReg ver .sc f.c
    pure (.mmas f.guard a b c (f.m.getLsbD 3) (fin8 (f.m.extractLsb' 0 3)))
  | 5 => do
    f.form ver .no .fix .fix .no 0
    let a ← getReg ver .sc f.a
    let b ← getReg ver .sc f.b
    pure (.acz f.guard a b)
  | 6 => do
    f.form ver .no .fix .fix .fix 0xDF
    let sc ← getScope (f.m.extractLsb' 6 2) (f.m.getLsbD 4)
    let a ← getReg ver .sc f.a
    let b ← getReg ver .sc f.b
    let c ← getReg ver .sc f.c
    pure (.acld f.guard a b c sc (f.m.getLsbD 4) (Space.ofBit (f.m.getLsbD 3)) (fin8 (f.m.extractLsb' 0 3)))
  | 7 => do
    f.form ver .no .fix .fix .fix 0x1EF
    let sc ← getScope (f.m.extractLsb' 6 2) (f.m.getLsbD 5)
    let a ← getReg ver .sc f.a
    let b ← getReg ver .sc f.b
    let c ← getReg ver .sc f.c
    pure (.drain f.guard a b c (f.m.getLsbD 8) sc (f.m.getLsbD 5) (Space.ofBit (f.m.getLsbD 3)) (fin8 (f.m.extractLsb' 0 3)))
  | 8 => do
    f.form ver .fix .no .no .no 0
    let d ← getReg ver .s0 f.d
    pure (.mfence f.guard d)
  | 9 => do
    f.form ver .no .fix .no .no 0
    let a ← getReg ver .s0 f.a
    pure (.mwait f.guard a)
  | _ => .error illegalOpcode

/-- Row 0x9 (R284). -/
def decRow9 (ver : Nat) (f : Fields) (col : Nat) : Dec Instr :=
  let tc := fin4 (f.m.extractLsb' 0 2)
  match col with
  | 0 =>
    if f.m.getLsbD 2 then do
      f.form ver .no .fix .no .no 0x7
      let a ← getReg ver .sc f.a
      pure (.cvbegPath f.guard a tc)
    else do
      f.form ver .no .fix .fix .no 0x7
      let a ← getReg ver .sc f.a
      let b ← getReg ver .sc f.b
      pure (.cvbegTile f.guard a b tc)
  | 1 => do
    f.form ver .fix .fix .no .no 0
    let d ← getReg ver .vecd f.d
    let a ← getReg ver .recS f.a
    pure (.cvmono f.guard d a)
  | 2 => do
    f.form ver .fix .fix .fix .no 0x3
    let d ← getReg ver .s0 f.d
    let a ← getReg ver .recS f.a
    let b ← getReg ver .sc f.b
    pure (.cvdep f.guard d a b tc)
  | 3 => do
    f.form ver .no .no .no .no 0x7
    pure (.cvscan f.guard (f.m.getLsbD 2) tc)
  | 4 => do
    f.form ver .fix .no .no .no 0x3
    let d ← getReg ver .s0 f.d
    pure (.cvrefine f.guard d tc)
  | 5 => do
    f.form ver .no .no .no .no 0x3
    pure (.cvpush f.guard tc)
  | 6 => do
    f.form ver .no .no .no .no 0x3
    pure (.cvpop f.guard tc)
  | 7 => do
    f.form ver .fix .fix .no .fix 0x3
    let d ← getReg ver .vecd f.d
    let a ← getReg ver .sc f.a
    let c ← getReg ver .s0 f.c
    pure (.cvspan f.guard d a c tc)
  | 8 => do
    f.form ver .no .fix .fix .no 0x1F
    let a ← getReg ver .evenV f.a
    let b ← getReg ver .vec f.b
    pure (.cvblend f.guard a b (BlendOp.ofCode (f.m.extractLsb' 2 3)) tc)
  | 9 => do
    f.form ver .fix .fix .no .no 0xE3
    let sc ← getScope (f.m.extractLsb' 6 2) (f.m.getLsbD 5)
    let d ← getReg ver .s0 f.d
    let a ← getReg ver .sc f.a
    pure (.tsave f.guard d a sc (f.m.getLsbD 5) tc)
  | 10 => do
    f.form ver .fix .fix .fix .no 0xD3
    let sc ← getScope (f.m.extractLsb' 6 2) (f.m.getLsbD 4)
    let d ← getReg ver .s0 f.d
    let a ← getReg ver .sc f.a
    let b ← getReg ver .sc f.b
    pure (.tload f.guard d a b sc (f.m.getLsbD 4) tc)
  | 11 => do
    f.form ver .fix .no .no .no 0x1F
    let sel ← modVal (CvqSel.ofCode (f.m.extractLsb' 2 3))
    modOk (tc.val == 0 || !(sel == .recd || sel == .openMask))
    let d ← getReg ver (if sel == .recd then .evenS else .s) f.d
    pure (.cvq f.guard d sel tc)
  | 12 => do
    f.form ver .fix .no .no .no 0x3
    let d ← getReg ver .s0 f.d
    pure (.cvend f.guard d tc)
  | _ => .error illegalOpcode

/-- TG, M[13:11] (R305). -/
def Fields.tg (f : Fields) : Fin 8 := fin8 (f.m.extractLsb' 11 3)
/-- SCOPE of row 0xA with its ACQ and REL (R305). -/
def Fields.xscope (f : Fields) : Dec Scope := getScope (f.m.extractLsb' 7 2) (f.m.getLsbD 9 || f.m.getLsbD 10)

/-- `xpull` and `xpush` (R305). -/
def decBulk (ver : Nat) (f : Fields)
    (mk : Guard → Reg → Reg → Reg → Fin 8 → Bool → Bool → Scope → RSpace → Space → Instr) : Dec Instr := do
  f.form ver .no .fix .fix .fix 0x3FF0
  let sc ← f.xscope
  let rsp := RSpace.ofCode (f.m.extractLsb' 5 2)
  let a ← getReg ver (if rsp == .reg then .sc else .evenS) f.a
  let b ← getReg ver .sc f.b
  let c ← getReg ver .sc f.c
  pure (mk f.guard a b c f.tg (f.m.getLsbD 10) (f.m.getLsbD 9) sc rsp (Space.ofBit (f.m.getLsbD 4)))

/-- `xhost` and `xtier` (R305). -/
def decOff (ver : Nat) (f : Fields)
    (mk : Guard → Reg → Reg → Reg → Fin 8 → Bool → Bool → Scope → Space → Bool → Instr) : Dec Instr := do
  f.form ver .no .fix .fix .fix 0x3F98
  let sc ← f.xscope
  let a ← getReg ver .evenS f.a
  let b ← getReg ver .sc f.b
  let c ← getReg ver .sc f.c
  pure (mk f.guard a b c f.tg (f.m.getLsbD 10) (f.m.getLsbD 9) sc (Space.ofBit (f.m.getLsbD 4)) (f.m.getLsbD 3))

/-- `xpage` by its mode (R305). -/
def decXpage (ver : Nat) (f : Fields) : Dec Instr :=
  match (f.m.extractLsb' 0 2).toNat with
  | 0 => do
    f.form ver .fix .fix .fix .no 0x3800
    let d ← getReg ver .s0 f.d
    let a ← getReg ver .sc f.a
    let b ← getReg ver .sc f.b
    pure (.xpageList f.guard d a b f.tg)
  | 1 => do
    f.form ver .fix .fix .fix .no 0x3801
    let d ← getReg ver .s0 f.d
    let a ← getReg ver .evenS f.a
    let b ← getReg ver .sc f.b
    pure (.xpageMap f.guard d a b f.tg)
  | 2 => do
    f.form ver .fix .fix .fix .no 0x380E
    modOk (f.m.getLsbD 2 != f.m.getLsbD 3)
    let d ← getReg ver .s0 f.d
    let a ← getReg ver .evenS f.a
    let b ← getReg ver .evenS f.b
    pure (.xpageEvict f.guard d a b f.tg (f.m.getLsbD 3))
  | _ => .error illegalModifier

/-- Row 0xA (R305). -/
def decRowA (ver : Nat) (f : Fields) (col : Nat) : Dec Instr :=
  match col with
  | 0 => decBulk ver f .xpull
  | 1 => decBulk ver f .xpush
  | 2 => do
    f.form ver .no .fix .fix .fix 0x3801
    let a ← getReg ver .sc f.a
    let b ← getReg ver .sc f.b
    let c ← getReg ver .sc f.c
    pure (.xdrain f.guard a b c f.tg (f.m.getLsbD 0))
  | 3 =>
    let op := AtomOp.ofCode (f.m.extractLsb' 0 3)
    let dc : RegClass := if f.m.getLsbD 3 then .evenVS else .vds
    if op = .cas then do
      f.form ver .no .fix .fix .fix 0x382F
      let a ← getReg ver .evenVS f.a
      let b ← getReg ver dc f.b
      let c ← getReg ver dc f.c
      pure (.xatom f.guard a b (some c) f.tg (f.m.getLsbD 5) (f.m.getLsbD 3) op)
    else do
      f.form ver .no .fix .fix .no 0x382F
      let a ← getReg ver .evenVS f.a
      let b ← getReg ver dc f.b
      pure (.xatom f.guard a b none f.tg (f.m.getLsbD 5) (f.m.getLsbD 3) op)
  | 4 => do
    f.form ver .no .fix .fix .fix 0x380F
    let n ← modVal (fin9 (f.m.extractLsb' 0 4))
    let a ← getReg ver .sc f.a
    let b ← getReg ver .sc f.b
    let c ← getReg ver .sc f.c
    pure (.xcall f.guard a b c f.tg n)
  | 5 => decXpage ver f
  | 6 => decOff ver f .xhost
  | 7 => decOff ver f .xtier
  | 8 => do
    f.form ver .fix .fix .fix .fix 0x3FF8
    let sc ← f.xscope
    let rsp := RSpace.ofCode (f.m.extractLsb' 5 2)
    modOk (rsp != .reg)
    let d ← getReg ver .sc f.d
    let a ← getReg ver .evenS f.a
    let b ← getReg ver .sc f.b
    let c ← getReg ver .sc f.c
    pure (.xlink f.guard d a b c f.tg (f.m.getLsbD 10) (f.m.getLsbD 9) sc rsp (Space.ofBit (f.m.getLsbD 4)) (f.m.getLsbD 3))
  | 9 => do
    f.form ver .fix .no .no .no 0x3801
    let d ← getReg ver .s0 f.d
    pure (.xwait f.guard d f.tg (f.m.getLsbD 0))
  | _ => .error illegalOpcode

/-- The width of a CSR; none for a number that R338 does not list. -/
def csrWidth (n : BitVec 12) : Option Nat :=
  if n.toNat ∈ [0x000, 0x001, 0x011, 0x012, 0x020, 0x021, 0x023, 0x030, 0x031, 0x032, 0x040, 0x041, 0x042,
      0x050, 0x051, 0x060, 0x062, 0x070, 0x071, 0x072, 0x080, 0x081, 0x090, 0x095, 0x096] then some 32
  else if n.toNat ∈ [0x002, 0x010, 0x022, 0x024, 0x025, 0x061, 0x091, 0x092, 0x093, 0x094] then some 64
  else none

/-- The CSR number is listed, and `.hi` names a 64-bit one (R337). -/
def csrOk (hi : Bool) (n : BitVec 12) : Bool :=
  match csrWidth n with
  | some w => !hi || w == 64
  | none => false

/-- `csrw`, `csrs` and `csrc` (R346). -/
def decCsr (ver : Nat) (f : Fields) (mk : Guard → Reg → Reg → Bool → BitVec 12 → Instr) : Dec Instr := do
  f.form ver .fix .fix .no .no 0x1FFF
  modOk (csrOk (f.m.getLsbD 12) (f.m.extractLsb' 0 12))
  let d ← getReg ver .vsc0 f.d
  let a ← getReg ver .sc f.a
  pure (mk f.guard d a (f.m.getLsbD 12) (f.m.extractLsb' 0 12))

/-- Row 0xB (R346). -/
def decRowB (ver : Nat) (f : Fields) (col : Nat) : Dec Instr :=
  match col with
  | 0 => do
    f.form ver .no .no .no .no 0xFF
    pure (.trap f.guard (f.m.extractLsb' 0 8))
  | 1 => decPlain ver f .tret
  | 2 => do
    f.form ver .fix .no .no .no 0x1FFF
    modOk (csrOk (f.m.getLsbD 12) (f.m.extractLsb' 0 12))
    let d ← getReg ver .vs f.d
    pure (.csrr f.guard d (f.m.getLsbD 12) (f.m.extractLsb' 0 12))
  | 3 => decCsr ver f .csrw
  | 4 => decCsr ver f .csrs
  | 5 => decCsr ver f .csrc
  | 6 => decPlain ver f .lpinv
  | 7 => do
    f.form ver .no .fix .no .no 0
    let a ← getReg ver .sc f.a
    pure (.halt f.guard a)
  | _ => .error illegalOpcode

/-- Opcodes that versions 1 and 2 lack (R73, R74). -/
def absentIn (ver : Nat) (op : Nat) : Bool :=
  (ver ≤ 2 && op ∈ [0x071, 0x0B3, 0x0B4]) || (ver ≤ 1 && op ∈ [0x00E, 0x00F, 0x129, 0x12A, 0x12B])

/-- Decoding a full word by its row and column (R70). -/
def decodeFull (ver : Nat) (f : Fields) : Dec Instr :=
  if absentIn ver f.op.toNat then .error illegalOpcode
  else match f.op.toNat / 32 with
    | 0 => decRow0 ver f (f.op.toNat % 32)
    | 1 => decRow1 ver f (f.op.toNat % 32)
    | 2 => decRow2 ver f (f.op.toNat % 32)
    | 3 => decRow3 ver f (f.op.toNat % 32)
    | 4 => decRow4 ver f (f.op.toNat % 32)
    | 5 => decRow5 ver f (f.op.toNat % 32)
    | 6 => decRow6 ver f (f.op.toNat % 32)
    | 7 => decRow7 ver f (f.op.toNat % 32)
    | 8 => decRow8 ver f (f.op.toNat % 32)
    | 9 => decRow9 ver f (f.op.toNat % 32)
    | 10 => decRowA ver f (f.op.toNat % 32)
    | 11 => decRowB ver f (f.op.toNat % 32)
    | _ => .error illegalOpcode

/-- Whether a word is `brk`, whatever its other bits (R55). -/
def isBrk (w : BitVec 64) : Bool := w.extractLsb' 53 9 == 0x1FF

/-- Decoding a word under an encoding version (R55, R71, R72). -/
def decode (ver : Nat) (w : BitVec 64) : Dec Instr :=
  if isBrk w then .ok (.brk (w.extractLsb' 62 2) (w.extractLsb' 0 53))
  else if w.getLsbD 62 then decodePair ver w
  else decodeFull ver (Fields.ofWord w)

/-! ## The encoder of version 3 -/

/-- The immediate form's fields (R58). -/
def Fields.withImm (f : Fields) (imm : BitVec 32) : Fields :=
  { f with b := imm.extractLsb' 24 8, c := imm.extractLsb' 16 8, h := imm.extractLsb' 14 2,
           m := 1#1 ++ imm.extractLsb' 0 14 }

/-- The branch form's fields (R59). -/
def Fields.withDisp (f : Fields) (disp : BitVec 24) (rdisp : BitVec 15) : Fields :=
  { f with a := disp.extractLsb' 16 8, b := disp.extractLsb' 8 8, c := disp.extractLsb' 0 8, m := rdisp }

/-- The memory form's fields (R60). -/
def Fields.withMem (f : Fields) (h : Hold) (disp : BitVec 16) (space : Space) (size : MSize) (col rp : Fin 8)
    (flags : BitVec 3) : Fields :=
  { f with b := disp.extractLsb' 8 8, c := disp.extractLsb' 0 8, h := h.code,
           m := 0#2 ++ boolBit space.bit ++ size.code ++ fin8Code col ++ fin8Code rp ++ flags }

/-- A word with an immediate. -/
def encImm (op : Nat) (g : Guard) (d a : BitVec 8) (imm : BitVec 32) : BitVec 64 :=
  ({ Fields.base op g with d := d, a := a }.withImm imm).word

/-- A word with a destination, a source, a hold and a modifier. -/
def enc1 (op : Nat) (g : Guard) (h : Hold) (d a : BitVec 8) (m : BitVec 15) : BitVec 64 :=
  { Fields.base op g with d := d, a := a, h := h.code, m := m }.word

/-- A word with two sources. -/
def enc2 (op : Nat) (g : Guard) (h : Hold) (d a b : BitVec 8) (m : BitVec 15) : BitVec 64 :=
  { Fields.base op g with d := d, a := a, b := b, h := h.code, m := m }.word

/-- A word with three sources. -/
def enc3 (op : Nat) (g : Guard) (h : Hold) (d a b c : BitVec 8) (m : BitVec 15) : BitVec 64 :=
  { Fields.base op g with d := d, a := a, b := b, c := c, h := h.code, m := m }.word

/-- A word with no field. -/
def encPlain (op : Nat) (g : Guard) : BitVec 64 := (Fields.base op g).word

/-- A memory-form word. -/
def encMem (op : Nat) (g : Guard) (h : Hold) (d base : BitVec 8) (disp : BitVec 16) (space : Space)
    (size : MSize) (col rp : Fin 8) (flags : BitVec 3) : BitVec 64 :=
  ({ Fields.base op g with d := d, a := base }.withMem h disp space size col rp flags).word

/-- M of an integer word with SAT and TY. -/
def satTy (sat : Bool) (ty : IntTy) : BitVec 15 := 0#13 ++ boolBit sat ++ boolBit ty.bit
/-- M of a word with RND alone. -/
def rndM (r : Rnd) : BitVec 15 := 0#12 ++ r.code
/-- M of a 16-bit pair word. -/
def halfM (ty : HalfTy) (r : Rnd) : BitVec 15 := 0#11 ++ boolBit ty.bit ++ r.code
/-- M of a word with a slot alone. -/
def slotM (k : Fin 8) : BitVec 15 := 0#12 ++ fin8Code k
/-- M of an engine word with SCOPE, REL, ACQ, SPACE and SLOT (R211, R242). -/
def engM (sc : Scope) (rel acq : Bool) (space : Space) (slot : Fin 8) : BitVec 15 :=
  0#7 ++ sc.code ++ boolBit rel ++ boolBit acq ++ boolBit space.bit ++ fin8Code slot
/-- M of a coverage word with TC alone. -/
def tcM (tc : Fin 4) : BitVec 15 := 0#13 ++ fin4Code tc
/-- M of an exchange word (R305): TG, REL, ACQ, SCOPE, RSP, LSP and bits [3:0]. -/
def xM (tg : Fin 8) (rel acq : Bool) (sc : Scope) (rsp : BitVec 2) (lsp : Space) (low : BitVec 4) : BitVec 15 :=
  0#1 ++ fin8Code tg ++ boolBit rel ++ boolBit acq ++ sc.code ++ rsp ++ boolBit lsp.bit ++ low
/-- M and the descriptor field of `bfx` and `bfi` (R138). -/
def descM : FieldDesc → Bool → BitVec 15
  | .imm pos wm1, ty => 0#3 ++ wm1 ++ pos ++ 1#1 ++ boolBit ty
  | .reg _, ty => 0#14 ++ boolBit ty
def descReg : FieldDesc → BitVec 8
  | .imm _ _ => 0
  | .reg r => r.code
/-- M of `iaddc` and `isubb` and their C field (R131). -/
def carryM (ci : Option (Fin 8)) (co : Fin 8) : BitVec 15 := 0#8 ++ fin8Code co ++ boolBit ci.isSome ++ 0#3
def carryC : Option (Fin 8) → BitVec 8
  | some k => numCode k
  | none => 0
/-- M of a CSR word (R346). -/
def csrM (hi : Bool) (csr : BitVec 12) : BitVec 15 := 0#2 ++ boolBit hi ++ csr
/-- M of `shfl` and `shflx`. -/
def shflM (wid : Fin 5) (mode : ShflMode) : BitVec 15 := 0#10 ++ BitVec.ofNat 3 wid.val ++ mode.code

/-- The version-3 word of an instruction word's constructor; none for an event, which no word encodes. -/
def encode : Instr → Option (BitVec 64)
  | .nop g => some (encPlain 0x000 g)
  | .bra g disp rdisp => some ((Fields.base 0x001 g).withDisp disp rdisp).word
  | .brx g h a rdisp => some (enc1 0x002 g h 0 a.code rdisp)
  | .call g d disp rdisp => some ({ Fields.base 0x003 g with d := d.code }.withDisp disp rdisp).word
  | .ret g h a rdisp => some (enc1 0x004 g h 0 a.code rdisp)
  | .bar g => some (encPlain 0x005 g)
  | .barr g => some (encPlain 0x006 g)
  | .barw g => some (encPlain 0x007 g)
  | .yield g d disp => some ({ Fields.base 0x008 g with d := d.code }.withDisp disp 0).word
  | .exit g => some (encPlain 0x009 g)
  | .launch g d a => some (enc1 0x00A g .none d.code a.code 0)
  | .chwait g d a st => some (enc1 0x00B g .none d.code a.code (slotM st))
  | .phase g => some (encPlain 0x00C g)
  | .post g a => some (enc1 0x00D g .none 0 a.code 0)
  | .regrow g n => some (enc1 0x00E g .none 0 0 (0#11 ++ n))
  | .regshrink g n => some (enc1 0x00F g .none 0 0 (0#11 ++ n))
  | .splitq g d sel => some (enc1 0x010 g .none d.code 0 (0#13 ++ sel.code))
  | .brk hi lo => some (hi ++ 0x1FF#9 ++ lo)
  | .mov g h d a => some (enc1 0x020 g h d.code a.code 0)
  | .movPair st x y => some (pairWord st .mov x y)
  | .movi g d imm => some (encImm 0x021 g d.code 0 imm)
  | .iadd g h d a b sat ty => some (enc2 0x022 g h d.code a.code b.code (satTy sat ty))
  | .iaddImm g d a imm => some (encImm 0x022 g d.code a.code imm)
  | .iaddPair st ty x y => some (pairWord st (.iadd ty) x y)
  | .isub g h d a b sat ty => some (enc2 0x023 g h d.code a.code b.code (satTy sat ty))
  | .isubImm g d a imm => some (encImm 0x023 g d.code a.code imm)
  | .isubPair st ty x y => some (pairWord st (.isub ty) x y)
  | .imul g h d a b sat ty => some (enc2 0x024 g h d.code a.code b.code (satTy sat ty))
  | .imulImm g d a imm => some (encImm 0x024 g d.code a.code imm)
  | .imulh g h d a b ty => some (enc2 0x025 g h d.code a.code b.code (satTy false ty))
  | .imad g h d a b c sat ty => some (enc3 0x026 g h d.code a.code b.code c.code (satTy sat ty))
  | .iaddc g h d a b ci co => some (enc3 0x027 g h d.code a.code b.code (carryC ci) (carryM ci co))
  | .isubb g h d a b ci co => some (enc3 0x028 g h d.code a.code b.code (carryC ci) (carryM ci co))
  | .imin g h d a b ty => some (enc2 0x029 g h d.code a.code b.code (satTy false ty))
  | .iminImm g d a imm => some (encImm 0x029 g d.code a.code imm)
  | .iminPair st ty x y => some (pairWord st (.imin ty) x y)
  | .imax g h d a b ty => some (enc2 0x02A g h d.code a.code b.code (satTy false ty))
  | .imaxImm g d a imm => some (encImm 0x02A g d.code a.code imm)
  | .imaxPair st ty x y => some (pairWord st (.imax ty) x y)
  | .iabs g h d a sat => some (enc1 0x02B g h d.code a.code (satTy sat .s32))
  | .iabsPair st x y => some (pairWord st .iabs x y)
  | .ineg g h d a sat => some (enc1 0x02C g h d.code a.code (satTy sat .s32))
  | .inegPair st x y => some (pairWord st .ineg x y)
  | .icmp g h p a b cnd ty =>
    some (enc2 0x02D g h (numCode p) a.code b.code (0#10 ++ cnd.code ++ 0#1 ++ boolBit ty.bit))
  | .isel g h d a b p => some (enc3 0x02E g h d.code a.code b.code (numCode p) 0)
  | .lea g h d a b sh => some (enc2 0x02F g h d.code a.code b.code (0#10 ++ sh))
  | .and g h d a b => some (enc2 0x030 g h d.code a.code b.code 0)
  | .andImm g d a imm => some (encImm 0x030 g d.code a.code imm)
  | .andPair st x y => some (pairWord st .and x y)
  | .or g h d a b => some (enc2 0x031 g h d.code a.code b.code 0)
  | .orImm g d a imm => some (encImm 0x031 g d.code a.code imm)
  | .orPair st x y => some (pairWord st .or x y)
  | .xor g h d a b => some (enc2 0x032 g h d.code a.code b.code 0)
  | .xorImm g d a imm => some (encImm 0x032 g d.code a.code imm)
  | .xorPair st x y => some (pairWord st .xor x y)
  | .not g h d a => some (enc1 0x033 g h d.code a.code 0)
  | .andn g h d a b => some (enc2 0x034 g h d.code a.code b.code 0)
  | .andnImm g d a imm => some (encImm 0x034 g d.code a.code imm)
  | .shl g h d a b => some (enc2 0x035 g h d.code a.code b.code 0)
  | .shlImm g d a imm => some (encImm 0x035 g d.code a.code imm)
  | .shlPair st x y => some (pairWord st .shl x y)
  | .shr g h d a b => some (enc2 0x036 g h d.code a.code b.code 0)
  | .shrImm g d a imm => some (encImm 0x036 g d.code a.code imm)
  | .shrPair st x y => some (pairWord st .shr x y)
  | .sar g h d a b => some (enc2 0x037 g h d.code a.code b.code 0)
  | .sarImm g d a imm => some (encImm 0x037 g d.code a.code imm)
  | .sarPair st x y => some (pairWord st .sar x y)
  | .rot g h d a b right => some (enc2 0x038 g h d.code a.code b.code (0#14 ++ boolBit right))
  | .rotImm g d a imm => some (encImm 0x038 g d.code a.code imm)
  | .fsh g h d a b c left => some (enc3 0x039 g h d.code a.code b.code c.code (0#14 ++ boolBit left))
  | .bfx g h d a f ty => some (enc2 0x03A g h d.code a.code (descReg f) (descM f (ty == .s32)))
  | .bfi g h d a b f => some (enc3 0x03B g h d.code a.code b.code (descReg f) (descM f false))
  | .popc g h d a => some (enc1 0x03C g h d.code a.code 0)
  | .clz g h d a => some (enc1 0x03D g h d.code a.code 0)
  | .brev g h d a => some (enc1 0x03E g h d.code a.code 0)
  | .prmt g h d a b c => some (enc3 0x03F g h d.code a.code b.code c.code 0)
  | .ixset g h i a => some (enc1 0x040 g h (numCode i) a.code 0)
  | .ixsetImm g i imm => some (encImm 0x040 g (numCode i) 0 imm)
  | .ixsetGet g d i => some (enc1 0x040 g .none d.code (numCode i) 1)
  | .ixadd g h i j b => some (enc2 0x041 g h (numCode i) (numCode j) b.code 0)
  | .ixaddImm g i j imm => some (encImm 0x041 g (numCode i) (numCode j) imm)
  | .ixbnd g a b => some (enc2 0x042 g .none 0 a.code b.code 0)
  | .pset g p a b tt => some (enc2 0x043 g .none (numCode p) (numCode a) (numCode b) (0#11 ++ tt))
  | .pmov g h (.tov d p) => some (enc1 0x044 g h d.code (numCode p) 0)
  | .pmov g h (.fromv p a) => some (enc1 0x044 g h (numCode p) a.code 1)
  | .pmov g h (.pack d) => some (enc1 0x044 g h d.code 0 2)
  | .pmov g h (.unpack a) => some (enc1 0x044 g h 0 a.code 3)
  | .shfl g h d a b wid mode => some (enc2 0x045 g h d.code a.code b.code (shflM wid mode))
  | .shflx g h d a b wid mode => some (enc2 0x046 g h d.code a.code b.code (shflM wid mode))
  | .bcast g h d a b => some (enc2 0x047 g h d.code a.code b.code 0)
  | .vote g (.ballot d) p => some (enc1 0x048 g .none d.code (numCode p) 0)
  | .vote g (.any d) p => some (enc1 0x048 g .none (numCode d) (numCode p) 1)
  | .vote g (.all d) p => some (enc1 0x048 g .none (numCode d) (numCode p) 2)
  | .vote g (.eq d) p => some (enc1 0x048 g .none (numCode d) (numCode p) 3)
  | .vote g (.cnt d) p => some (enc1 0x048 g .none d.code (numCode p) 4)
  | .rdsp g d sel => some (enc1 0x049 g .none d.code 0 (0#11 ++ sel.code))
  | .fadd g h d a b rnd => some (enc2 0x060 g h d.code a.code b.code (rndM rnd))
  | .faddImm g d a imm => some (encImm 0x060 g d.code a.code imm)
  | .faddPair st rnd x y => some (pairWord st (.fadd rnd) x y)
  | .fsub g h d a b rnd => some (enc2 0x061 g h d.code a.code b.code (rndM rnd))
  | .fsubImm g d a imm => some (encImm 0x061 g d.code a.code imm)
  | .fsubPair st rnd x y => some (pairWord st (.fsub rnd) x y)
  | .fmul g h d a b rnd => some (enc2 0x062 g h d.code a.code b.code (rndM rnd))
  | .fmulImm g d a imm => some (encImm 0x062 g d.code a.code imm)
  | .fmulPair st rnd x y => some (pairWord st (.fmul rnd) x y)
  | .ffma g h d a b c np nc rnd =>
    some (enc3 0x063 g h d.code a.code b.code c.code (0#10 ++ boolBit nc ++ boolBit np ++ rnd.code))
  | .fmin g h d a b => some (enc2 0x064 g h d.code a.code b.code 0)
  | .fminImm g d a imm => some (encImm 0x064 g d.code a.code imm)
  | .fminPair st x y => some (pairWord st .fmin x y)
  | .fmax g h d a b => some (enc2 0x065 g h d.code a.code b.code 0)
  | .fmaxImm g d a imm => some (encImm 0x065 g d.code a.code imm)
  | .fmaxPair st x y => some (pairWord st .fmax x y)
  | .fcmp g h p a b cnd => some (enc2 0x066 g h (numCode p) a.code b.code (0#12 ++ cnd.code))
  | .fclass g h d a => some (enc1 0x067 g h d.code a.code 0)
  | .frnd g h d a rnd => some (enc1 0x068 g h d.code a.code (rndM rnd))
  | .hadd2 g h d a b ty rnd => some (enc2 0x069 g h d.code a.code b.code (halfM ty rnd))
  | .hadd2Imm g d a imm => some (encImm 0x069 g d.code a.code imm)
  | .hadd2Pair st rnd x y => some (pairWord st (.hadd2 rnd) x y)
  | .hmul2 g h d a b ty rnd => some (enc2 0x06A g h d.code a.code b.code (halfM ty rnd))
  | .hmul2Imm g d a imm => some (encImm 0x06A g d.code a.code imm)
  | .hmul2Pair st rnd x y => some (pairWord st (.hmul2 rnd) x y)
  | .hfma2 g h d a b c ty rnd => some (enc3 0x06B g h d.code a.code b.code c.code (halfM ty rnd))
  | .cvt g h d a (.one st dt) rnd =>
    some (enc1 0x06C g h d.code a.code (0#6 ++ st.code ++ 0#1 ++ dt.code ++ rnd.code))
  | .cvt g h d a (.two dt b) rnd =>
    some (enc2 0x06C g h d.code a.code b.code (0#9 ++ (if dt == .f16 then 5#3 else 6#3) ++ rnd.code))
  | .f2i g h d a ft ty rnd =>
    some (enc1 0x06D g h d.code a.code (0#9 ++ ft.code ++ boolBit ty.bit ++ rnd.code))
  | .i2f g h d a ft ty rnd =>
    some (enc1 0x06E g h d.code a.code (0#9 ++ ft.code ++ boolBit ty.bit ++ rnd.code))
  | .kpack g h d a slot => some (enc1 0x06F g h d.code a.code (slotM slot))
  | .kunpk g h d a slot => some (enc1 0x070 g h d.code a.code (slotM slot))
  | .rqz g h d a b slot => some (enc2 0x071 g h d.code a.code b.code (slotM slot))
  | .frcp g h d a rnd => some (enc1 0x080 g h d.code a.code (rndM rnd))
  | .frsq g h d a rnd => some (enc1 0x081 g h d.code a.code (rndM rnd))
  | .fsqrt g h d a rnd => some (enc1 0x082 g h d.code a.code (rndM rnd))
  | .fex2 g h d a rnd => some (enc1 0x083 g h d.code a.code (rndM rnd))
  | .flg2 g h d a rnd => some (enc1 0x084 g h d.code a.code (rndM rnd))
  | .fsin g h d a rnd => some (enc1 0x085 g h d.code a.code (rndM rnd))
  | .fcos g h d a rnd => some (enc1 0x086 g h d.code a.code (rndM rnd))
  | .ftanh g h d a rnd => some (enc1 0x087 g h d.code a.code (rndM rnd))
  | .afset g h d a b sym => some (enc2 0x0A0 g h (numCode d) a.code b.code (0#14 ++ boolBit sym))
  | .afint g h d a b => some (enc2 0x0A1 g h (numCode d) a.code b.code 0)
  | .afmov g d a => some (enc1 0x0A2 g .none (numCode d) (numCode a) 0)
  | .afadd g d a b => some (enc2 0x0A3 g .none (numCode d) (numCode a) (numCode b) 0)
  | .afsub g d a b => some (enc2 0x0A4 g .none (numCode d) (numCode a) (numCode b) 0)
  | .afscl g h d a b => some (enc2 0x0A5 g h (numCode d) (numCode a) b.code 0)
  | .afaddc g h d a b => some (enc2 0x0A6 g h (numCode d) (numCode a) b.code 0)
  | .afmul g d a b => some (enc2 0x0A7 g .none (numCode d) (numCode a) (numCode b) 0)
  | .afsqr g d a => some (enc1 0x0A8 g .none (numCode d) (numCode a) 0)
  | .afrcp g d a => some (enc1 0x0A9 g .none (numCode d) (numCode a) 0)
  | .afdiv g d a b => some (enc2 0x0AA g .none (numCode d) (numCode a) (numCode b) 0)
  | .afsqrt g d a => some (enc1 0x0AB g .none (numCode d) (numCode a) 0)
  | .afcond g h d a .detach => some (enc1 0x0AC g h (numCode d) (numCode a) 0)
  | .afcond g h d a (.cnt k rad) =>
    some (enc1 0x0AC g h (numCode d) (numCode a) (0#8 ++ k ++ boolBit rad ++ 1#2))
  | .afcond g h d a (.thr rad t) =>
    some (enc2 0x0AC g h (numCode d) (numCode a) t.code (0#12 ++ boolBit rad ++ 2#2))
  | .afctr g d a => some (enc1 0x0AD g .none d.code (numCode a) 0)
  | .afrad g d a => some (enc1 0x0AE g .none d.code (numCode a) 0)
  | .aflo g d a => some (enc1 0x0AF g .none d.code (numCode a) 0)
  | .afhi g d a => some (enc1 0x0B0 g .none d.code (numCode a) 0)
  | .afcmp g pt a b pf cnd =>
    some (enc3 0x0B1 g .none (numCode pt) (numCode a) (numCode b) (numCode pf) (0#12 ++ cnd.code))
  | .afrel g a b => some (enc2 0x0B2 g .none 0 a.code b.code 0)
  | .afrelAll g => some (enc1 0x0B2 g .none 0 0 1)
  | .afsymq g d sel => some (enc1 0x0B3 g .none d.code 0 (0#13 ++ sel.code))
  | .afterm g h d a (.coef j) => some (enc2 0x0B4 g h d.code (numCode a) j.code 0)
  | .afterm g h d a (.sym j) => some (enc2 0x0B4 g h d.code (numCode a) j.code 1)
  | .afterm g h d a .cnt => some (enc1 0x0B4 g h d.code (numCode a) 2)
  | .afterm g h d a .flags => some (enc1 0x0B4 g h d.code (numCode a) 3)
  | .ld g h d base disp space size rp => some (encMem 0x0C0 g h d.code base.code disp space size 0 rp 0)
  | .ldg g h d base disp space size rp => some (encMem 0x0C2 g h d.code base.code disp space size 0 rp 0)
  | .ldgf g h d base disp space size => some (encMem 0x0C3 g h d.code base.code disp space size 0 0 0)
  | .st g h d base disp space size col => some (encMem 0x0C1 g h d.code base.code disp space size col 0 0)
  | .stg g h d base disp space size col => some (encMem 0x0C4 g h d.code base.code disp space size col 0 0)
  | .atom g h d base disp space w64 col op =>
    some (encMem 0x0C5 g h d.code base.code disp space (if w64 then .n64 else .n32) col 0 op.code)
  | .atomb g h d base disp space w64 op =>
    some (encMem 0x0C6 g h d.code base.code disp space (if w64 then .n64 else .n32) 0 0 op.code)
  | .fence g scope skip => some (enc1 0x0C7 g .none 0 0 (0#5 ++ scope.code ++ skip))
  | .resq g h p a wide => some (enc1 0x0C8 g h (numCode p) a.code (0#14 ++ boolBit wide))
  | .pgreq g h base disp space rp wide =>
    some (encMem 0x0C9 g h 0 base.code disp space .n32 0 rp (0#2 ++ boolBit wide))
  | .prf g h base disp space wide =>
    some (encMem 0x0CA g h 0 base.code disp space .n32 0 0 (0#2 ++ boolBit wide))
  | .cpy g d a b c scope rel acq dsp ssp =>
    some (enc3 0x0E0 g .none d.code a.code b.code c.code
      (0#7 ++ scope.code ++ boolBit rel ++ boolBit acq ++ 0#1 ++ boolBit ssp.bit ++ 0#1 ++ boolBit dsp.bit))
  | .cpyw g a => some (enc1 0x0E1 g .none 0 a.code 0)
  | .dectab g a b scope acq slot => some (enc2 0x0E2 g .none 0 a.code b.code (engM scope false acq .sp slot))
  | .decv g d a b scope acq space slot =>
    some (enc2 0x0E3 g .none d.code a.code b.code (engM scope false acq space slot))
  | .lscfg g a => some (enc1 0x0E4 g .none 0 a.code 0)
  | .lsgo g a => some (enc1 0x0E5 g .none 0 a.code 0)
  | .lswait g d => some (enc1 0x0E6 g .none d.code 0 0)
  | .ldstw g a b c scope acq space slot =>
    some (enc3 0x100 g .none 0 a.code b.code c.code (engM scope false acq space slot))
  | .cbtab g a b scope acq space => some (enc2 0x101 g .none 0 a.code b.code (engM scope false acq space 0))
  | .swpl g => some (encPlain 0x102 g)
  | .mma g a c row z slot =>
    some (enc3 0x103 g .none 0 a.code 0 c.code (0#1 ++ row ++ boolBit z ++ fin8Code slot))
  | .mmas g a b c z slot => some (enc3 0x104 g .none 0 a.code b.code c.code (0#11 ++ boolBit z ++ fin8Code slot))
  | .acz g a b => some (enc2 0x105 g .none 0 a.code b.code 0)
  | .acld g a b c scope acq space slot =>
    some (enc3 0x106 g .none 0 a.code b.code c.code (engM scope false acq space slot))
  | .drain g a b c z scope rel space slot =>
    some (enc3 0x107 g .none 0 a.code b.code c.code
      (0#6 ++ boolBit z ++ scope.code ++ boolBit rel ++ 0#1 ++ boolBit space.bit ++ fin8Code slot))
  | .mfence g d => some (enc1 0x108 g .none d.code 0 0)
  | .mwait g a => some (enc1 0x109 g .none 0 a.code 0)
  | .cvbegTile g a b tc => some (enc2 0x120 g .none 0 a.code b.code (tcM tc))
  | .cvbegPath g a tc => some (enc1 0x120 g .none 0 a.code (0#12 ++ 1#1 ++ fin4Code tc))
  | .cvmono g d a => some (enc1 0x121 g .none d.code a.code 0)
  | .cvdep g d a b tc => some (enc2 0x122 g .none d.code a.code b.code (tcM tc))
  | .cvscan g eo tc => some (enc1 0x123 g .none 0 0 (0#12 ++ boolBit eo ++ fin4Code tc))
  | .cvrefine g d tc => some (enc1 0x124 g .none d.code 0 (tcM tc))
  | .cvpush g tc => some (enc1 0x125 g .none 0 0 (tcM tc))
  | .cvpop g tc => some (enc1 0x126 g .none 0 0 (tcM tc))
  | .cvspan g d a c tc => some (enc3 0x127 g .none d.code a.code 0 c.code (tcM tc))
  | .cvblend g a b opr tc => some (enc2 0x128 g .none 0 a.code b.code (0#10 ++ opr.code ++ fin4Code tc))
  | .tsave g d a scope rel tc =>
    some (enc1 0x129 g .none d.code a.code (0#7 ++ scope.code ++ boolBit rel ++ 0#3 ++ fin4Code tc))
  | .tload g d a b scope acq tc =>
    some (enc2 0x12A g .none d.code a.code b.code (0#7 ++ scope.code ++ 0#1 ++ boolBit acq ++ 0#2 ++ fin4Code tc))
  | .cvq g d sel tc => some (enc1 0x12B g .none d.code 0 (0#10 ++ sel.code ++ fin4Code tc))
  | .cvend g d tc => some (enc1 0x12C g .none d.code 0 (tcM tc))
  | .xpull g a b c tg rel acq scope rsp lsp =>
    some (enc3 0x140 g .none 0 a.code b.code c.code (xM tg rel acq scope rsp.code lsp 0))
  | .xpush g a b c tg rel acq scope rsp lsp =>
    some (enc3 0x141 g .none 0 a.code b.code c.code (xM tg rel acq scope rsp.code lsp 0))
  | .xdrain g a b c tg z =>
    some (enc3 0x142 g .none 0 a.code b.code c.code (xM tg false false .core 0 .sp (0#3 ++ boolBit z)))
  | .xatom g a b none tg cl w64 op =>
    some (enc2 0x143 g .none 0 a.code b.code
      (xM tg false false .core (0#1 ++ boolBit cl) .sp (boolBit w64 ++ op.code)))
  | .xatom g a b (some c) tg cl w64 op =>
    some (enc3 0x143 g .none 0 a.code b.code c.code
      (xM tg false false .core (0#1 ++ boolBit cl) .sp (boolBit w64 ++ op.code)))
  | .xcall g a b c tg words =>
    some (enc3 0x144 g .none 0 a.code b.code c.code (xM tg false false .core 0 .sp (BitVec.ofNat 4 words.val)))
  | .xpageList g d a b tg => some (enc2 0x145 g .none d.code a.code b.code (xM tg false false .core 0 .sp 0))
  | .xpageMap g d a b tg => some (enc2 0x145 g .none d.code a.code b.code (xM tg false false .core 0 .sp 1))
  | .xpageEvict g d a b tg host =>
    some (enc2 0x145 g .none d.code a.code b.code
      (xM tg false false .core 0 .sp (boolBit host ++ boolBit (!host) ++ 2#2)))
  | .xhost g a b c tg rel acq scope lsp get =>
    some (enc3 0x146 g .none 0 a.code b.code c.code (xM tg rel acq scope 0 lsp (boolBit get ++ 0#3)))
  | .xtier g a b c tg rel acq scope lsp get =>
    some (enc3 0x147 g .none 0 a.code b.code c.code (xM tg rel acq scope 0 lsp (boolBit get ++ 0#3)))
  | .xlink g d a b c tg rel acq scope rsp lsp get =>
    some (enc3 0x148 g .none d.code a.code b.code c.code (xM tg rel acq scope rsp.code lsp (boolBit get ++ 0#3)))
  | .xwait g d tg all => some (enc1 0x149 g .none d.code 0 (xM tg false false .core 0 .sp (0#3 ++ boolBit all)))
  | .trap g k => some (enc1 0x160 g .none 0 0 (0#7 ++ k))
  | .tret g => some (encPlain 0x161 g)
  | .csrr g d hi csr => some (enc1 0x162 g .none d.code 0 (csrM hi csr))
  | .csrw g d a hi csr => some (enc1 0x163 g .none d.code a.code (csrM hi csr))
  | .csrs g d a hi csr => some (enc1 0x164 g .none d.code a.code (csrM hi csr))
  | .csrc g d a hi csr => some (enc1 0x165 g .none d.code a.code (csrM hi csr))
  | .lpinv g => some (encPlain 0x166 g)
  | .halt g a => some (enc1 0x167 g .none 0 a.code 0)
  | .barrierRelease ..
  | .groupEnd ..
  | .matrixUnitClear ..
  | .regrowGrant ..
  | .groupSpill ..
  | .groupSpillRestore ..
  | .transformResultReturn ..
  | .loadDataReturn ..
  | .writeQueueDrain ..
  | .pageWalkComplete ..
  | .copyComplete ..
  | .decodeResultReturn ..
  | .cruiserEmit ..
  | .matrixCommandExecute ..
  | .batchComplete ..
  | .coverageCommandExecute ..
  | .transferComplete ..
  | .packetDeliver ..
  | .trapEntry ..
  | .stragglerTimeout ..
  | .engineLandingAck ..
  | .landing ..
  | .nodeTake ..
  | .nodeLaunch ..
  | .repsigHashComplete ..
  | .gridRetire ..
  | .preempt ..
  | .restore ..
  | .remove ..
  | .contextRemovalComplete ..
  | .reset ..
  | .queueEnable ..
  | .registerWrite ..
  | .partitionOpen ..
  | .partitionClose ..
  | .partitionUpdate ..
  | .debugFreeze ..
  | .debugThaw ..
  | .debugStep ..
  | .debugWindowRead ..
  | .debugWindowWrite ..
  | .flitReceive ..
  | .retryRequest ..
  | .linkTraining ..
  | .pairingExchange ..
  | .powerOn ..
  | .thermalThrottle ..
  | .thermalShutdown ..
  | .scrub ..
  | .uncorrectableError ..
  | .getVersion ..
  | .getCapabilities ..
  | .negotiateAlgorithms ..
  | .getDigests ..
  | .getCertificate ..
  | .challenge ..
  | .getMeasurements ..
  | .powerOff ..
  | .decodeTableLoadComplete ..
  | .recoveryImageWrite .. => none

/-- The instruction that the decoder reads from a table word (one 64-bit word, version 3). -/
def decodeTableWord (nbits w : Nat) : Option Instr :=
  match decode 3 (BitVec.ofNat 64 (w % 2 ^ nbits)) with
  | .ok i => some i
  | .error _ => none

end Sys2Proof
end

