-- ==== Sys2Proof/Config.lean ====
section
/-! DEFINITION. What the part fixes (capacities of R11, R12, R219, R221, R231, R304) and the values the manual
leaves open, as constants with no body. -/

namespace Sys2Proof.Config

/-- Enabled cores of the package (R9). -/
abbrev nCores : Nat := 256
/-- Clusters of the package (R9). -/
abbrev nClusters : Nat := 32
/-- Cores of a cluster (R10). -/
abbrev coresPerCluster : Nat := 8
/-- Scratchpad bytes of a core (R11). -/
abbrev scratchBytes : Nat := 0x80000
/-- Vault bytes of a core (R11). -/
abbrev vaultBytes : Nat := 0x20000000
/-- Where the spill area of a vault begins (R90, R208). -/
abbrev spillBase : Nat := 0x1F000000
/-- Physical register blocks of a scheduler (R11). -/
abbrev blocksPerSched : Nat := 32
/-- Most blocks a group may hold (R90). -/
abbrev maxBlocks : Nat := 12
/-- Lines of a cluster's bounce pool (R219). -/
abbrev bounceLines : Nat := 8192
/-- Granules of a core's page-request list (R221). -/
abbrev pageListCap : Nat := 256
/-- Granules of a cluster's notification queue (R321). -/
abbrev notifyCap : Nat := 256
/-- Entries of a cluster's access-counter table (R321). -/
abbrev counterCap : Nat := 4096
/-- Entries of a core's buffered-atomic buffer (R231). -/
abbrev atombCap : Nat := 4096
/-- Entries of a cluster's remote-atomic buffer (R304). -/
abbrev ratomCap : Nat := 16384
/-- Rows of a cluster's drain staging (R304). -/
abbrev stagingCap : Nat := 8192
/-- Bytes of a core's call queue (R304). -/
abbrev callQueueBytes : Nat := 32768
/-- Commands of a matrix queue (R240). -/
abbrev matrixQueueCap : Nat := 32
/-- Entries of a core's TLB (R213). -/
abbrev tlbCap : Nat := 512
/-- Entries of a core's instruction TLB (R215). -/
abbrev itlbCap : Nat := 64
/-- The most bytes one copy or transfer moves (R233, R301). -/
abbrev maxLength : Nat := 0x1000000
/-- Bytes of second-tier address space (R307). -/
abbrev tierBytes : Nat := 0x10000000000
/-- The window map (R20). -/
abbrev coreWindow : Nat := 0x00F000000000
/-- The window map (R20). -/
abbrev sliceWindow : Nat := 0x00F800000000
/-- The base of the teams' apertures (R206). -/
abbrev apertureBase : Nat := 0x800000000000
/-- The end of the aperture range that host software leaves alone (R206). -/
abbrev apertureEnd : Nat := 0x820000000000

/-! ## Free values: nothing constrains them -/

/-- One bit where either of two outcomes is open: an old or a new translation or code word (R214, R215), and what the
other package answers (R220, R325). Logs 4 and 32. -/
opaque freeBit : Nat → Bool
/-- The weight-path stall clocks of a C3 load where R266 does not fix them (R252). Log 4. -/
opaque freeStall : Nat → BitVec 32
/-- A tenant key generated on the device (R353). Log 4. -/
opaque freeKey : Nat → BitVec 512
/-- The value of a transform or affine result whose enclosure does not decide its rounding. Log 10. -/
opaque freeRound : Nat → BitVec 32
/-- What a word reads from a vector register number that no check bounds and that lies outside the group's
allocation: a source lane of `shfl`, `shflx` or `bcast` through `v[ik]` in a lane whose guard failed (R61, R146,
R147). Log 4. -/
opaque outside : Nat → Nat → BitVec 32
/-- The result word of a child that ended without retiring, which the manual does not state (R113). Log 4. -/
opaque freeResult : Nat → BitVec 32
/-- A byte that an `xlink` get reads from another package (R325). Log 32. -/
opaque freeLinkByte : Nat → BitVec 8
/-- The put that a payload delivered over a Pyrfort link carries, if it carries one: its partition, its space by a number of
two bits, its address and its bytes. The manual does not give the form of requests on a link (R325). Log 32. -/
opaque linkPut : List (BitVec 8) → Option (BitVec 4 × BitVec 2 × BitVec 64 × List (BitVec 8))
/-- What the debug window reads of something that is not there (R354). Log 4. -/
opaque freeData : Nat → BitVec 64
/-- The digest of the messages that a signed answer covers (R376). Log 7. -/
opaque freeDigest : Nat → BitVec 256
/-- A P-256 signature over a digest with the device identity key (R376). Log 7. -/
opaque sign : BitVec 256 → BitVec 512
/-- The bytes of certificate slot 0's chain (R376). Log 7. -/
opaque certChain : List (BitVec 8)
/-- Measurement blocks 1 and 4 to 5 are digests of images and maps whose byte forms the manual does not
give (R376). Log 7. -/
opaque measure : Nat → List Nat → BitVec 256
/-- The responder's nonce of a signed answer (R376). Log 7. -/
opaque freeNonce : Nat → BitVec 256

end Sys2Proof.Config
end

