-- ==== Sys2Proof/Machine/State.lean ====
section
/-! DEFINITION. The state of the device as plain data, its reset value, and the names of its stops.
Every list that stands for a memory or a register file is a `Store`: addresses strictly rising, no entry
equal to what an unlisted address reads as (zero). -/

namespace Sys2Proof.Machine

open Sys2Proof

/-- Sparse storage of `w`-bit cells by address; an unlisted address reads as zero (log 5). -/
abbrev Store (w : Nat) := List (Nat × BitVec w)

/-- Byte memory (a list of `Host.Cell`). -/
abbrev Memory := Store 8

/-! ## Splits and groups -/

/-- A join record (R75); offsets are byte offsets from CODE. `dmask = 0` means no deferred path. -/
structure JoinRec where
  j : Word
  mj : LaneMask
  dpc : Word
  dmask : LaneMask
  amask : LaneMask
deriving DecidableEq, Repr

/-- The holds of one issued word: held register numbers with their 32 values (R64). -/
abbrev LatchWord := List (Nat × List Word)

/-- An entry of the split table in use (R75), with its latch records, newest first, at most two (R64),
and the words issued since an event that ends latch service, saturating at two (R68). The head of `stack` is the top
record. -/
structure Split where
  pc : Word
  mask : LaneMask
  stack : List JoinRec
  latch : List LatchWord
  since : Nat
deriving DecidableEq, Repr

/-- What trap entry saves (R344 step 4). -/
structure TrapFrame where
  splits : List (Option Split)
  trapping : Nat
  helper : LaneMask
deriving DecidableEq, Repr

/-- Which unit a pending result comes from (R81, R84). -/
inductive PendKind where
  | load | atomic | gather | decode | transform | coverage | exchange
deriving DecidableEq, Repr

/-- A result in flight: the registers it still holds pending, and its data once known (R81). -/
structure Inflight where
  id : Nat
  kind : PendKind
  vregs : List Nat
  sregs : List Nat
  vdata : List (Nat × Nat × Word)
  sdata : List (Nat × Word)
  flags : BitVec 6
  ready : Bool
deriving DecidableEq, Repr

/-- An operand-log entry of a firm gather (R223). `dregs` is each lane's first destination register, `flight` the
result in flight whose return frees the entry. -/
structure OpLog where
  flight : Nat
  pc : Word
  d : BitVec 8
  dregs : List Nat
  size : MSize
  space : Space
  addrs : List (BitVec 48)
  guard : LaneMask
  pcm : LaneMask
  dropped : Bool
deriving DecidableEq, Repr

/-- A trap taken at the group's next issue (R341 "N"). -/
structure DueTrap where
  cause : BitVec 10
  info : BitVec 64
  lane : Nat
deriving DecidableEq, Repr

/-- A raised trap that waits for the group's pending results before entry (R85, R344). -/
structure Raised where
  cause : BitVec 10
  info : BitVec 64
  lane : Nat
  tepc : Word
  split : Nat
deriving DecidableEq, Repr

/-- A child handle in use (R112, R113). -/
structure Child where
  grid : Nat
  done : Bool
  result : Word
  ok : Bool
deriving DecidableEq, Repr

/-- Why a group does not issue (R80, R102). The program counter stays at the waiting word; `chwait` holds the children
awaited with their handles, and it, `lswait` and `xwait` name what they will write. -/
inductive Wait where
  | ready
  | settle
  | results
  | stalled
  | barw
  | chwait (children : List (Nat × Child)) (d : Reg) (st : Nat)
  | fence (skip : BitVec 8)
  | cpyw (tag : Option Word)
  | yield (tag : Option Word)
  | regrow (n : Nat)
  | mwait (batch : Word)
  | lswait (d : Reg)
  | xwait (tg : Option Nat) (d : Reg)
deriving DecidableEq, Repr

/-- What an entry of a vault write queue does when it drains (R227, R229). -/
inductive QKind where
  | store (bytes : List Byte)
  | atomic (op : AtomOp) (w64 : Bool) (data cmp : Dword) (inflight lane reg : Nat)
deriving DecidableEq, Repr

/-- An entry of a group's vault write queues, oldest first in one list (R227): one lane's part of an atomic, or at most four bytes
of one lane's part of a store; the entries of one word of the program share `word`. `passed` lists the vault offsets that a
younger store of the group has already been made visible at: the group itself sees that store there (R329). -/
structure QEntry where
  id : Nat
  word : Nat
  col : Nat
  off : Nat
  kind : QKind
  passed : List Nat
deriving DecidableEq, Repr

/-- The status of one transfer group (R314). -/
structure TgStatus where
  fault : Bool
  miss : Bool
  refused : Bool
  late : Bool
  count : Nat
deriving DecidableEq, Repr

/-- A group (R75, R81, R88, R119, R335, R338). `uid` is the model's own number of it, which the commands it issued
carry; `team` is its team's resident slot on the core; `index` is 16 or more in a handler group (R312); `barAt` is the `bar`
in whose waiting half it stands (R108). -/
structure Group where
  uid : Nat
  grid : Nat
  team : Nat
  index : Nat
  xgrp : Bool
  age : Nat
  skip : Nat
  blocks : List Nat
  spill : Option (Store 32)
  live : LaneMask
  splits : List (Option Split)
  atH : Bool
  frame : TrapFrame
  helper : LaneMask
  s : List Word
  p : List LaneMask
  i : Store 32
  winLo : Word
  winHi : Word
  fpctl : Word
  fpflg : BitVec 6
  repsig : Dword
  tcause : BitVec 10
  tepc : Word
  tinfo : Dword
  tlane : BitVec 5
  tvec : Dword
  tsave : Dword
  resmiss : Word
  cpyerr : BitVec 8
  xdln : Bool
  scopeEn : Bool
  scopeDem : Bool
  gskHit : Bool
  gskWp : BitVec 2
  gskSkid : Nat
  arrived : Bool
  strag : Bool
  inflight : List Inflight
  logs : List (Option OpLog)
  gatherDue : Bool
  gatherLog : Nat
  due : List DueTrap
  raised : Option Raised
  wait : Wait
  wq : List QEntry
  copySeq : BitVec 16
  copyTags : List (BitVec 16 × BitVec 3)
  xferSeq : Nat
  tg : List TgStatus
  atombSeq : Nat
  xatomSeq : Nat
  xdrainSeq : Nat
  xcallSeq : Nat
  barFlag : Bool
  barGen : Nat
  barAt : Option Word
  retPred : List Word
deriving DecidableEq, Repr

/-! ## Teams, grids, queues -/

/-- A resident team (R187, R206, R339). `age` is its launch age (R80). `ending`: its last group has ended, and it ends itself once
its engine work is done (R241, R365, log 24). -/
structure Team where
  grid : Nat
  num : Nat
  spb : Nat
  scratch : Nat
  vault : Nat
  age : Nat
  afnext : BitVec 16
  aflive : BitVec 16
  afquota : BitVec 16
  frqSz : BitVec 4
  frqBase : BitVec 19
  frqhd : BitVec 12
  frqtl : BitVec 12
  gen : Nat
  children : List (Option Child)
  ending : Bool
deriving DecidableEq, Repr

/-- A format slot of the launch record (R162). -/
structure FmtSlot where
  kind : BitVec 8
  bsc : BitVec 8
  d : BitVec 8
  ro : BitVec 8
  off : Word
deriving DecidableEq, Repr

/-- A launch record (R95). -/
structure LaunchRec where
  tag : BitVec 16
  fmt : BitVec 8
  ver : BitVec 8
  flags : Word
  code : Dword
  entry : Word
  xentry : Word
  teams : Nat
  gpt : Nat
  dlim : Nat
  blk : Nat
  aff : Nat
  idx : Nat
  scratch : Nat
  vault : Nat
  symq : BitVec 16
  fpctl : Word
  tvt : Dword
  tdt : Dword
  slots : List FmtSlot
  args : Dword
  resaddr : Dword
  phtmov : Word
  dclass : BitVec 8
deriving DecidableEq, Repr

/-- How far a grid has come (R98, R156, R348, R349). -/
inductive GridPhase where
  | hashing | waiting | resident | saved | removing
deriving DecidableEq, Repr

/-- A launched grid (R86, R89, R94, R98, R115). `parent` is the parent grid, the team number and the child
handle of a child grid (R112). -/
structure Grid where
  id : Nat
  part : Nat
  lrec : LaunchRec
  lrecAt : Dword
  node : Dword
  queue : Nat
  parent : Option (Nat × Nat × Nat)
  depth : Nat
  limit : Nat
  order : Nat
  codesz : Nat
  xsz : Nat
  dataOff : Nat
  datasz : Nat
  repsig : Dword
  tails : List (Word × Word)
  posted : Bool
  result : Word
  nextTeam : Nat
  teamsLeft : Nat
  phase : GridPhase
  remSaved : Bool
  remState : BitVec 8
  remCode : BitVec 10
deriving DecidableEq, Repr

/-- A command queue (R92, R354). `ready` holds the nodes that may launch, oldest first. -/
structure Queue where
  base : Dword
  qclass : BitVec 4
  size : BitVec 4
  head : Word
  tail : Word
  stop : Bool
  en : Bool
  ready : List Dword
deriving DecidableEq, Repr

/-! ## Engines

A command carries a number of its own, `acqId`, that no other command has, and one that the cruiser emitted the number of its
run. -/

/-- A copy command (R233). The engine first waits for the issuing group's write-queue entries below
`acqId` when `acq` is set (R232). `moved` counts the 128-byte pieces already moved; `entry` is the clock in which it issued, and
`alone` says that nothing else used the core then (R266). -/
structure CopyCmd where
  slot : Nat
  uid : Nat
  team : Nat
  seq : BitVec 16
  cslot : BitVec 3
  dsp : Space
  ssp : Space
  dst : Nat
  src : Nat
  len : Nat
  acq : Bool
  acqId : Nat
  cruiser : Option Nat
  moved : Nat
  entry : Nat
  alone : Bool
deriving DecidableEq, Repr

/-- A decode-engine command (R236, R237). -/
inductive DecKind where
  | table (fmt : FmtSlot) (first count : Nat)
  | block (fmt : FmtSlot) (space : Space) (off elem d inflight : Nat)
deriving DecidableEq, Repr

/-- A decode-engine command with its issuer. -/
structure DecCmd where
  slot : Nat
  uid : Nat
  team : Nat
  pc : Word
  kind : DecKind
  acq : Bool
  acqId : Nat
  cruiser : Option Nat
deriving DecidableEq, Repr

/-- A C3 table held by the weight-path table queue (R252): `data` once read, and the clock since which it has been readable. -/
structure WTable where
  id : Nat
  claimed : Bool
  data : Option (List Half16)
  since : Option Nat
deriving DecidableEq, Repr

/-- A matrix command (R245-R257). `mma` carries its A rows, read at issue, as 64 FP32 patterns, their format, and how many quarters
issued. -/
inductive MKind where
  | ldstw (fmt : FmtSlot) (space : Space) (off k0 rows : Nat) (tables : List Nat)
  | cbtab (space : Space) (off : Nat) (tag : Option (BitVec 16 × BitVec 3)) (table : Nat)
  | swpl
  | mma (fmt : FmtSlot) (quarters base : Nat) (rows : List (Nat × List Word)) (z : Bool)
  | mmas (fmt : FmtSlot) (off rows base : Nat) (z : Bool)
  | acz (first rows : Nat)
  | acld (fmt : FmtSlot) (space : Space) (first rows off : Nat)
  | drain (fmt : FmtSlot) (space : Space) (first rows off : Nat) (z : Bool)
  | mark (batch : Word)
deriving DecidableEq, Repr

/-- A matrix command with its issuer; `fpctl` is the issuing group's at issue (R254). `entry` is the clock in which it entered the
queue, `alone` says that the core then served no other agent, and `direct` that no command came before it on its way to the weight
path (R266). -/
structure MCmd where
  slot : Nat
  uid : Nat
  team : Nat
  kind : MKind
  fpctl : Word
  acq : Bool
  acqId : Nat
  cruiser : Option Nat
  entry : Nat
  alone : Bool
  direct : Bool
deriving DecidableEq, Repr

/-- The kinds of command a cruiser emitter emits (R261). -/
inductive EmitKind where
  | mmas | cpy | dectab | coverage
deriving DecidableEq, Repr

/-- A cruiser emitter (R261). -/
structure Emitter where
  kind : EmitKind
  level : Nat
  wait : Bool
  mod : BitVec 8
  cnt : Word
  basex : Word
  basey : Word
  strx : List Word
  stry : List Word
deriving DecidableEq, Repr

/-- The cruiser's descriptor (R261). -/
structure CruiserDesc where
  nlev : Nat
  emitters : List Emitter
deriving DecidableEq, Repr

/-- A run in progress (R263): its number, the `lsgo` word, the trip counts, the current indices (outermost first, one per level
entered) and the next emitter to look at on the deepest of those levels. -/
structure CruiserRun where
  id : Nat
  slot : Nat
  uid : Nat
  team : Nat
  pc : Word
  trips : List Nat
  idx : List Nat
  emit : Nat
deriving DecidableEq, Repr

/-- An open tile context (R272); the block is a core scratchpad offset. -/
structure TileCtx where
  team : Nat
  block : Nat
deriving DecidableEq, Repr

/-- A coverage command (R286-R298). Registers named are destinations; `none` is `c0`. A block is a core scratchpad
offset. -/
inductive CovKind where
  | begTile (block : Nat) (tile : Word)
  | begPath (seq : Word)
  | dep (rec : List Word) (first : Nat) (workers : Nat) (d : Option Nat)
  | scan (eo : Bool)
  | refine (d : Option Nat)
  | push
  | pop
  | span (d first : Nat) (live : LaneMask) (c : Option Nat)
  | blend (op : BlendOp) (px : List (Word × Word × Word))
  | save (off : Nat) (d : Option Nat)
  | load (off block : Nat) (d : Option Nat)
  | query (sel : CvqSel) (d : Nat)
  | close (d : Option Nat)
deriving DecidableEq, Repr

/-- A coverage command with its issuer, context and the result it holds pending; `atH` is the level it was issued at. -/
structure CovCmd where
  slot : Nat
  uid : Nat
  team : Nat
  atH : Bool
  tc : Nat
  kind : CovKind
  inflight : Nat
  acq : Bool
  acqId : Nat
deriving DecidableEq, Repr

/-- The key that buffered and remote atomics are applied by (R230, R310). -/
structure AtomKey where
  order : Nat
  team : Nat
  group : Nat
  lane : Nat
  seq : Nat
deriving DecidableEq, Repr

/-- Where a buffered or remote atomic acts (R230, R310). -/
inductive AtomPlace where
  | scratch (core off : Nat)
  | vault (core va : Nat)
  | slice (cluster off : Nat)
deriving DecidableEq, Repr

/-- An entry of an atomic buffer (R230, R231, R310). -/
structure AtomEntry where
  key : AtomKey
  grid : Nat
  place : AtomPlace
  op : AtomOp
  w64 : Bool
  data : Dword
  cmp : Dword
deriving DecidableEq, Repr

/-- The remote side of a bulk transfer (R302, R307). -/
inductive Remote where
  | win (addr : Nat)
  | cl (addr : Nat)
  | vt (va : Nat)
  | reg (target : Word)
  | host (addr : Nat)
  | tier (addr : Nat)
  | link (pkg : Nat) (rsp : RSpace) (addr : Nat)
deriving DecidableEq, Repr

/-- What a transfer does when it executes (R307-R313). `page` only returns the result of a page word, or also a fault
where the second tier it needs is disabled (R373). -/
inductive XferOp where
  | bulk (remote : Remote) (toLocal : Bool) (lsp : Space) (loc len : Nat)
  | drain (first rows drow dcore : Nat) (z : Bool) (seq : Nat)
  | atoms (l : List AtomEntry) (det : Bool)
  | call (team handler words payload seq : Nat)
  | page (inflight : Nat) (fault : Bool)
deriving DecidableEq, Repr

/-- A transfer of the exchange engine (R301); `group` is the issuing group's index. `moved` counts the pieces already moved
and `miss` is the MISS they found; `stream` names the link that carries an `xlink`, with the link's number of its training, from
its first piece on (R374), and `sent` the last payload of a put among all that this link was given. `ordered` marks a put with
`.sys.rel`, whose bytes the group's later host-bound requests follow, and `after` names such puts of the group that had completed when it issued (R330). -/
structure Transfer where
  slot : Nat
  uid : Nat
  team : Nat
  group : Nat
  tg : Nat
  seq : Nat
  op : XferOp
  acq : Bool
  acqId : Nat
  deadline : Nat
  moved : Nat
  miss : Bool
  stream : Option (Nat × Nat)
  sent : Nat
  ordered : Bool
  after : List Nat
deriving DecidableEq, Repr

/-- A page move accepted by `xpage`, carried out at the closing landing (R313, R316); `grid` is the issuing group's. -/
structure PageMove where
  grid : Nat
  core : Nat
  va : Nat
  big : Bool
  leaf : Dword
  newLeaf : Dword
  evict : Bool
  frame : Nat
  tier : BitVec 2
  backing : Nat
deriving DecidableEq, Repr

/-- A translation held by a TLB or a last-page register (R213). -/
structure XlEntry where
  key : Nat
  page : Nat
  big : Bool
  leaf : Dword
deriving DecidableEq, Repr

/-- A walk in flight (R213, R320) of a grid: the leaf read so far with its page's size, the lanes of the group in `slot` that it
serves, and whether it is that of an access, which sets A. -/
structure Walk where
  grid : Nat
  part : Nat
  va : Nat
  big : Bool
  leaf : Dword
  access : Bool
  slot : Nat
  lanes : LaneMask
deriving DecidableEq, Repr

/-- A word in a transform queue names the group slot and its result in flight (R182). -/
structure XpWord where
  slot : Nat
  inflight : Nat
deriving DecidableEq, Repr

/-- A word that the transform pipe has taken from the queue of scheduler `sched` (R182). -/
structure XpTaken where
  sched : Nat
  slot : Nat
  inflight : Nat
deriving DecidableEq, Repr

/-- A word of code that a core's instruction cache holds for a grid (R215), with the leaf that it was read by. -/
structure CodeWord where
  grid : Nat
  addr : Nat
  leaf : Dword
  big : Bool
  word : Dword
deriving DecidableEq, Repr

/-- A word of a team's allocation that an engine has read ahead for the command at the head of its queue (R256, R332). -/
structure EarlyWord where
  engine : Engine
  spc : Space
  off : Nat
  word : Word
deriving DecidableEq, Repr

/-- The command at the head of an engine's queue has computed its writes, which become visible word by word before it
completes (R329): whether it will end without a fault, the results it will return and the helper mask it will set. -/
structure Begun where
  engine : Engine
  ok : Bool
  vdata : List (Nat × Nat × Word)
  sdata : List (Nat × Word)
  helper : Option LaneMask
deriving DecidableEq, Repr

/-- What the times of R246 and R266 need of a matrix unit: the clock of the weight path's last plane row, the clock in which the
last command of the queue ended, the clock in which the active plane took effect, whether the command that ended last was a pass,
with which an adjacent one may fuse (R245), where the last batch completed with the times of R266 the clock in which it did, and the
rate class of the format that last loaded each plane, P0 first. -/
structure UnitTimes where
  pathEnd : Nat
  unitEnd : Nat
  planeAt : Nat
  passed : Bool
  batchAt : Option Nat
  classes : List Nat
deriving DecidableEq, Repr

/-- A core (R11). `shownSp` and `shownRegs` are its scratchpad and registers as the other cores see them in an X-phase, none in a
C-phase (R227, R329). `early` holds the words read ahead. `uses` has the last clocks in which groups, by `uid`, issued words that
use the core's queues, vault port or scratchpad, the newest two, `otherUse` the last in which one did for an engine other than the
copy engine and the matrix unit, and `times` the matrix unit's times (R266). -/
structure Core where
  regs : Store 32
  sp : Memory
  shownSp : Option Memory
  shownRegs : Option (Store 32)
  vault : Memory
  acc : Store 32
  planes : Store 32
  act : Bool
  tables : List WTable
  mq : List MCmd
  mclosed : Word
  mdone : Word
  stall : Word
  mowner : Option Nat
  uses : List (Nat × Nat)
  otherUse : Option Nat
  times : UnitTimes
  cruiser : Option CruiserDesc
  run : Option CruiserRun
  lsFault : Bool
  lsEmit : Nat
  lsCount : Nat
  lsRan : Bool
  copies : List CopyCmd
  decq : List DecCmd
  dcache : List (Nat × List Half16)
  xpipe : List (List XpWord)
  xptaken : List XpTaken
  ctxs : List (Option TileCtx)
  cq : List CovCmd
  recq : List (Nat × Word × Word)
  tangc : BitVec 16
  xlate : Word
  wpa : List (BitVec 48)
  wpctl : Word
  wpact : Bool
  brkf : Bool
  sgrp : BitVec 4
  step : Bool
  stepb : Bool
  tlb : List XlEntry
  itlb : List XlEntry
  lastPage : List XlEntry
  icache : List CodeWord
  walks : List Walk
  atoms : List AtomEntry
  xfers : List Transfer
  moves : List PageMove
  groups : List (Option Group)
  teams : List (Option Team)
  acks : List Engine
  early : List EarlyWord
  begun : List Begun
deriving DecidableEq, Repr

/-! ## Clusters, partitions, device -/

/-- A line of a bounce pool (R219): the 128-byte line of a partition-virtual address, and each byte it holds as
0x100 + the byte, so that a byte of zero is held too. -/
structure BounceLine where
  part : Nat
  line : Nat
  bytes : Store 9
deriving DecidableEq, Repr

/-- A staged accumulator row (R308, R309). -/
structure StageRow where
  dcore : Nat
  drow : Nat
  core : Nat
  team : Nat
  group : Nat
  seq : Nat
  grid : Nat
  vals : List Word
deriving DecidableEq, Repr

/-- A call packet (R311). -/
structure CallPkt where
  grid : Nat
  team : Nat
  handler : Nat
  core : Nat
  steam : Nat
  group : Nat
  seq : Nat
  payload : List Word
deriving DecidableEq, Repr

/-- An access counter (R321). A cluster lists its counters with the last counted first. -/
structure AccCounter where
  granule : Nat
  count : Nat
deriving DecidableEq, Repr

/-- A put that reached a package over a link, staged in a slice until the partition's next landing (R325); `arrival` numbers such
puts in the order in which they came. -/
structure LinkPut where
  arrival : Nat
  part : Nat
  rsp : RSpace
  addr : Nat
  bytes : List Byte
deriving DecidableEq, Repr

/-- A cluster slice (R12, R304). `notify` is the notification queue (R321): a granule, and the core whose access brought
its counter to 16. -/
structure Cluster where
  prog : Memory
  bounce : List BounceLine
  held : List AtomEntry
  pageReq : List (List Nat)
  notify : List (Nat × Nat)
  notifyOvf : Bool
  counters : List AccCounter
  ratoms : List AtomEntry
  staged : List StageRow
  reserved : Nat
  calls : List (List CallPkt)
  linkPuts : List LinkPut
  frozen : Bool
  skidUntil : Nat
deriving DecidableEq, Repr

/-- A saved context (R350, R351): where its image was written, every core of the partition as it stood, the incremented
`PHCNT`, and the grids that were resident. -/
structure Saved where
  tier : BitVec 2
  base : Dword
  phcnt : Dword
  gen : BitVec 16
  cores : List (Nat × Core)
  grids : List Nat
deriving DecidableEq, Repr

/-- A partition with its register block (R25, R353, R354). -/
structure Partition where
  opened : Bool
  first : Nat
  ncl : Nat
  phcnt : Dword
  preemptReq : Bool
  removeReq : Bool
  restoreReq : Bool
  closed : Bool
  hasImage : Bool
  ptroot : Dword
  ctxtier : BitVec 2
  ctxbase : Dword
  phtmo : Word
  qmask : BitVec 64
  dcore : BitVec 8
  dslot : BitVec 4
  dkind : BitVec 2
  didx : BitVec 26
  ddata : Dword
  key : Option (BitVec 512)
  gen : BitVec 16
  tenantScope : Bool
  stragOn : Bool
  strag : Nat
  stragFired : Bool
  image : Option Saved
  held : Bool
  apLeaves : List (Nat × Dword)
  cpImage : Nat
deriving DecidableEq, Repr

/-- One end of a Pyrfort link (R322-R325, R374, R378). `stream` is the model's own number of its training and `queued` counts the
payloads it was given to send since. Sending: the next sequence number, the flits sent and not
acknowledged with their payloads, the payloads waiting, the flits last resent and the history at the last one
acknowledged. Receiving: the next number expected, the last 16 KiB of history, how many bytes have entered it, that count at
each flit received, the payloads delivered, and the flit a retry was asked for. -/
structure Link where
  up : Bool
  peer : BitVec 8
  stream : Nat
  queued : Nat
  txSeq : BitVec 12
  unacked : List (BitVec 12 × List Byte × List Byte)
  txq : List (List Byte)
  resent : List (List Byte)
  txHist : List Byte
  rxNext : BitVec 12
  rxHist : List Byte
  rxTotal : Nat
  rxMarks : List (BitVec 12 × Nat)
  delivered : List (List Byte)
  retryAsked : Option (BitVec 12)
deriving DecidableEq, Repr

/-- The last answer in the DOE mailbox (R376). -/
inductive SpdmAnswer where
  | none
  | version (major minor : Nat)
  | capabilities (sessions : Bool)
  | algorithms (ecdsaP256 sha256 : Bool)
  | digests (slots : List (BitVec 256))
  | certificate (slot offset : Nat) (bytes : List Byte)
  | challengeAuth (slot : Nat) (nonce : BitVec 256) (sig : BitVec 512)
  | measurements (blocks : List (Nat × BitVec 256)) (nonce : BitVec 256) (sig : Option (BitVec 512))
  | error
deriving DecidableEq, Repr

/-- The SPDM responder (R376): how far the connection has come, and its last answer. -/
structure Spdm where
  stage : Nat
  answer : SpdmAnswer
deriving DecidableEq, Repr

/-- A path whose packets are resent under its own check (R377). -/
inductive ResendPath where
  | mesh | bridge | pcie | cxl
deriving DecidableEq, Repr

/-- What happens next, in the model's own tape (log 3). `issue` is one clock of a scheduler: it issues by
R80 among the splits whose bit is not in `stalled`, four bits a group (the splits that wait for a fixed-latency result or a bank
in that clock, R81, R125). `piece`, `begin` and `ahead` are an engine's progress with a command before it
completes, a piece of the write queues being one word of a queued store (R329, log 12), and `arrive` the arrival of a word that it
wrote (log 12); `fetchAhead` is a core reading code before a group fetches it (R215, log 41); `take` is the transform pipe taking a word from a scheduler's queue (R182); `resend` is a packet
sent again on a path (R377). -/
inductive Move where
  | issue (core : Fin 256) (sched : Fin 4) (stalled : BitVec 16)
  | event (i : Instr)
  | hostWrite (addr : Dword) (bytes : List Byte)
  | tick (n : Nat)
  | piece (core : Fin 256) (engine : Engine) (idx : Nat)
  | begin (core : Fin 256) (engine : Engine)
  | ahead (core : Fin 256) (engine : Engine) (spc : Space) (off : Nat)
  | arrive (idx : Nat)
  | fetchAhead (core : Fin 256) (slot : Fin 16) (pc : Word)
  | take (core : Fin 256) (sched : Fin 4)
  | resend (path : ResendPath)
deriving DecidableEq, Repr

/-- Where a word that an engine wrote lies (R329): a scratchpad, a vault, a register file or accumulators of a core, the
program area of a slice, host memory or the second tier. Byte memories are named by words of four bytes. -/
inductive WordPlace where
  | scratch (core i : Nat)
  | vault (core i : Nat)
  | regs (core i : Nat)
  | acc (core i : Nat)
  | slice (cluster i : Nat)
  | host (i : Nat)
  | tier (i : Nat)
deriving DecidableEq, Repr

/-- A word that a command has written and that is not visible yet (R329, R330). `cmd` is the command's number; `after` names
the commands whose host words come first; `ordered` is that of its transfer; `mask` has the bytes that the command wrote. -/
structure LateWord where
  cmd : Nat
  grid : Nat
  uid : Nat
  after : List Nat
  ordered : Bool
  place : WordPlace
  val : Word
  mask : BitVec 4
deriving DecidableEq, Repr

/-- The group and split whose word executes (log 3). -/
structure Cur where
  core : Nat
  slot : Nat
  split : Nat
deriving DecidableEq, Repr

/-- The device. `tierSize` is the second tier's size, 0 when it is disabled (R373); `vfs` says that bring-up reached its
step 7 (R375), `tried` which links its step 5 has trained or marked down, and `cpGood` that the command-processor image passes its
check; `failed` holds the cores marked failed since their partition's reset, `failMap` every core marked failed since bring-up:
one that failed its test by its number among the 288, one marked later as 288 plus its core number; `spares` lists the clusters
whose spare is unused (R379, R380); `coreErrs` counts a core's uncorrectable errors since its partition's reset; `late` holds words
written and not yet visible; `fwVersion` and `fwGood` are the version of the firmware image in flash and whether its signature is
valid; `cur` and `free` are the model's own. -/
structure State where
  clock : Nat
  agenda : List Move
  free : Nat
  cur : Cur
  host : Memory
  tier : Memory
  cores : List Core
  clusters : List Cluster
  parts : List Partition
  queues : List Queue
  grids : List Grid
  nextId : Nat
  power : Bool
  recov : Bool
  vfs : Bool
  tried : BitVec 12
  cpGood : Bool
  tierSize : Nat
  pkgnum : BitVec 8
  fenced : BitVec 32
  vce : Word
  sce : Word
  retry : Word
  ue : Word
  ueKind : BitVec 8
  ueCore : BitVec 8
  ueAddr : BitVec 48
  links : List Link
  route : Store 12
  pair : Store 8
  peerPair : Store 8
  throttle : Nat
  failed : List Nat
  failMap : List Nat
  spares : List Nat
  coreErrs : Store 8
  late : List LateWord
  rollback : Nat
  fwVersion : Nat
  fwGood : Bool
  spdm : Spdm
deriving DecidableEq, Repr

/-! ## Stops -/

/-- Why a step stops with a fault. -/
inductive Fault where
  /-- A word was to be executed with no group in the selected slot. Raised by the meaning of every word row
  when `cur` names an empty slot or split; `step` selects a group first, so no step raises it. Safe. -/
  | noIssuingGroup
deriving DecidableEq, Repr

/-- Why a step is refused. -/
inductive Refusal where
  /-- An instruction without a meaning, by its mnemonic. Raised by an arm of `exec` alone. Safe. -/
  | notModelled (mnemonic : String)
deriving DecidableEq, Repr

/-! ## Reset -/

/-- The times of a matrix unit that has done nothing; R246 names no class for a plane that nothing has loaded, which limits no pass
(log 62). -/
def UnitTimes.zero : UnitTimes where
  pathEnd := 0
  unitEnd := 0
  planeAt := 0
  passed := false
  batchAt := none
  classes := [4, 4]

/-- A core after reset (R353: everything zero, nothing resident). -/
def Core.reset : Core where
  regs := []
  sp := []
  shownSp := none
  shownRegs := none
  vault := []
  acc := []
  planes := []
  act := false
  tables := []
  mq := []
  mclosed := 0
  mdone := 0
  stall := 0
  mowner := none
  uses := []
  otherUse := none
  times := UnitTimes.zero
  cruiser := none
  run := none
  lsFault := false
  lsEmit := 0
  lsCount := 0
  lsRan := false
  copies := []
  decq := []
  dcache := []
  xpipe := [[], [], [], []]
  xptaken := []
  ctxs := [none, none, none, none]
  cq := []
  recq := []
  tangc := 0
  xlate := 0
  wpa := [0, 0, 0, 0]
  wpctl := 0
  wpact := false
  brkf := false
  sgrp := 0
  step := false
  stepb := false
  tlb := []
  itlb := []
  lastPage := []
  icache := []
  walks := []
  atoms := []
  xfers := []
  moves := []
  groups := List.replicate 16 none
  teams := List.replicate 16 none
  acks := []
  early := []
  begun := []

/-- A cluster slice after reset (R304, R353). -/
def Cluster.reset : Cluster where
  prog := []
  bounce := []
  held := []
  pageReq := List.replicate 8 []
  notify := []
  notifyOvf := false
  counters := []
  ratoms := []
  staged := []
  reserved := 0
  calls := List.replicate 8 []
  linkPuts := []
  frozen := false
  skidUntil := 0

/-- A partition number that is not open, its register block at the reset values of R354. -/
def Partition.reset : Partition where
  opened := false
  first := 0
  ncl := 0
  phcnt := 0
  preemptReq := false
  removeReq := false
  restoreReq := false
  closed := false
  hasImage := false
  ptroot := 0
  ctxtier := 0
  ctxbase := 0
  phtmo := 0
  qmask := 0
  dcore := 0
  dslot := 0
  dkind := 0
  didx := 0
  ddata := 0
  key := none
  gen := 0
  tenantScope := false
  stragOn := false
  strag := 0
  stragFired := false
  image := none
  held := false
  apLeaves := []
  cpImage := 0

/-- A command queue at the reset values of R354. -/
def Queue.reset : Queue where
  base := 0
  qclass := 1
  size := 0
  head := 0
  tail := 0
  stop := false
  en := false
  ready := []

/-- A link that is not trained (R378). -/
def Link.reset : Link where
  up := false
  peer := 0
  stream := 0
  queued := 0
  txSeq := 0
  unacked := []
  txq := []
  resent := []
  txHist := []
  rxNext := 0
  rxHist := []
  rxTotal := 0
  rxMarks := []
  delivered := []
  retryAsked := none

/-- The device right after power-on and bring-up (R375), with no partition opened yet (log 6). -/
def State.reset : State where
  clock := 0
  agenda := []
  free := 0
  cur := { core := 0, slot := 0, split := 0 }
  host := []
  tier := []
  cores := List.replicate 256 Core.reset
  clusters := List.replicate 32 Cluster.reset
  parts := List.replicate 16 Partition.reset
  queues := List.replicate 64 Queue.reset
  grids := []
  nextId := 0
  power := true
  recov := false
  vfs := true
  tried := 0xFFF
  cpGood := true
  tierSize := Config.tierBytes
  pkgnum := 0
  fenced := 0
  vce := 0
  sce := 0
  retry := 0
  ue := 0
  ueKind := 0
  ueCore := 0
  ueAddr := 0
  links := List.replicate 12 Link.reset
  route := []
  pair := []
  peerPair := []
  throttle := 0
  failed := []
  failMap := []
  spares := List.range 32
  coreErrs := []
  late := []
  rollback := 0
  fwVersion := 0
  fwGood := true
  spdm := { stage := 0, answer := .none }

end Sys2Proof.Machine
end

