-- ==== Sys2Proof/Machine/Base.lean ====
section
/-! DEFINITION. Storage, bytes and the accessors of the device, its cores, groups, teams, grids and
partitions. Every later file reads and writes the state through these. -/

namespace Sys2Proof.Machine

open Sys2Proof

/-! ## Sparse storage -/

/-- The cell at an address; an unlisted one reads as zero. -/
def Store.read (m : Store w) (a : Nat) : BitVec w :=
  match m with
  | [] => 0
  | e :: t => if e.1 = a then e.2 else Store.read t a

/-- Insertion before the first higher address. -/
def Store.insert (m : Store w) (a : Nat) (v : BitVec w) : Store w :=
  match m with
  | [] => [(a, v)]
  | e :: t => if a < e.1 then (a, v) :: e :: t else e :: Store.insert t a v

/-- No entry at an address. -/
def Store.erase (m : Store w) (a : Nat) : Store w := m.filter (fun e => e.1 != a)

/-- Writing a cell; writing zero removes the entry. -/
def Store.write (m : Store w) (a : Nat) (v : BitVec w) : Store w :=
  if v = 0 then Store.erase m a else Store.insert (Store.erase m a) a v

/-- The canonical form: addresses strictly rising, and no entry of zero. -/
def Store.wf (m : Store w) : Bool :=
  decide (m.Pairwise (fun x y => x.1 < y.1)) && m.all (fun e => e.2 != 0)

/-- Writing several cells in turn. -/
def Store.writeAll (m : Store w) (l : List (Nat × BitVec w)) : Store w :=
  l.foldl (fun m e => Store.write m e.1 e.2) m

/-- The storage without the cells whose address satisfies `p`. -/
def Store.clear (m : Store w) (p : Nat → Bool) : Store w := m.filter (fun e => !p e.1)

/-- One step of a walk along cells: the next one if it lies at the address, else a zero. -/
def Store.walkOne (a : Nat) (x : List (BitVec w) × Store w) : List (BitVec w) × Store w :=
  match x.2 with
  | [] => (0 :: x.1, [])
  | e :: t => if e.1 = a then (e.2 :: x.1, t) else (0 :: x.1, e :: t)

/-- The `n` cells from an address of a store in canonical form, in one walk along it. -/
def Store.span (m : Store w) (a n : Nat) : List (BitVec w) :=
  ((List.range n).foldl (fun x i => Store.walkOne (a + i) x) ([], m.filter (fun e => decide (a ≤ e.1)))).1.reverse

/-- The cells that hold a list of values from an address: those that are not zero. -/
def Store.ofList (a : Nat) (l : List (BitVec w)) : Store w :=
  ((l.zipIdx a).filter (fun x => x.1 != 0)).map (fun x => (x.2, x.1))

/-- Cells put in the place of those from `a` to `b` of a store in canonical form. -/
def Store.between (m : Store w) (a b : Nat) (l : Store w) : Store w :=
  m.filter (fun e => decide (e.1 < a)) ++ (l ++ m.filter (fun e => decide (b ≤ e.1)))

/-- A store in canonical form with the cells from an address replaced by a list of values, in one walk along it. -/
def Store.splice (m : Store w) (a : Nat) (l : List (BitVec w)) : Store w := m.between a (a + l.length) (Store.ofList a l)

/-- A list in `n` pieces of `k`. -/
def chunks (k n : Nat) (l : List α) : List (List α) :=
  ((List.range n).foldl (fun (x : List (List α) × List α) _ => (x.2.take k :: x.1, x.2.drop k)) ([], l)).1.reverse

/-- The canonical form of a byte memory. -/
def Memory.wf (m : Memory) : Bool := Store.wf m

/-! ## Bytes, little-endian (R2) -/

/-- The number that bytes make, the first the least significant. -/
def leNat (bs : List Byte) : Nat := bs.foldr (fun b n => b.toNat + 256 * n) 0

/-- The `n` low bytes of a number, the least significant first. -/
def leBytes (n v : Nat) : List Byte := (List.range n).map (fun i => BitVec.ofNat 8 (v / 256 ^ i))

/-- `n` bytes from an address. -/
def Memory.bytes (m : Memory) (a n : Nat) : List Byte := (List.range n).map (fun i => Store.read m (a + i))

/-- Storing bytes from an address. -/
def Memory.store (m : Memory) (a : Nat) (bs : List Byte) : Memory :=
  Store.writeAll m ((List.range bs.length).map (fun i => (a + i, bs.getD i 0)))

/-- A little-endian number of `n` bytes. -/
def Memory.nat (m : Memory) (a n : Nat) : Nat := leNat (Memory.bytes m a n)
/-- A word. -/
def Memory.word (m : Memory) (a : Nat) : Word := BitVec.ofNat 32 (Memory.nat m a 4)
/-- A dword. -/
def Memory.dword (m : Memory) (a : Nat) : Dword := BitVec.ofNat 64 (Memory.nat m a 8)

/-- The words of four bytes that differ between two byte memories. -/
def Memory.changed (m m' : Memory) : List Nat :=
  ((m ++ m').map (fun e => e.1 / 4)).eraseDups.filter (fun i => Memory.word m (4 * i) != Memory.word m' (4 * i))
/-- Writing one word of four bytes. -/
def Memory.putWord (m : Memory) (i : Nat) (v : Word) : Memory := Memory.store m (4 * i) (leBytes 4 v.toNat)
/-- The cells that differ between two stores. -/
def Store.changed (m m' : Store w) : List Nat :=
  ((m ++ m').map (fun e => e.1)).eraseDups.filter (fun i => Store.read m i != Store.read m' i)

/-! ## Cores, groups, teams -/

def State.core (s : State) (c : Nat) : Core := s.cores.getD c Core.reset
def State.setCore (s : State) (c : Nat) (k : Core) : State := { s with cores := s.cores.set c k }
def State.modCore (s : State) (c : Nat) (f : Core → Core) : State := s.setCore c (f (s.core c))

def Core.group (k : Core) (slot : Nat) : Option Group := k.groups.getD slot none
def Core.setGroup (k : Core) (slot : Nat) (g : Option Group) : Core := { k with groups := k.groups.set slot g }
def Core.team (k : Core) (j : Nat) : Option Team := k.teams.getD j none
def Core.setTeam (k : Core) (j : Nat) (t : Option Team) : Core := { k with teams := k.teams.set j t }

def State.group (s : State) (c slot : Nat) : Option Group := (s.core c).group slot
def State.setGroup (s : State) (c slot : Nat) (g : Group) : State := s.modCore c (fun k => k.setGroup slot (some g))
/-- Changing a resident group; an empty slot stays empty. -/
def State.modGroup (s : State) (c slot : Nat) (f : Group → Group) : State :=
  match s.group c slot with
  | some g => s.setGroup c slot (f g)
  | none => s
/-- Changing a resident group that is still the one of a number. -/
def State.modOwner (s : State) (c slot uid : Nat) (f : Group → Group) : State :=
  s.modGroup c slot (fun g => if g.uid = uid then f g else g)
def State.team (s : State) (c j : Nat) : Option Team := (s.core c).team j
/-- Changing a resident team. -/
def State.modTeam (s : State) (c j : Nat) (f : Team → Team) : State :=
  match s.team c j with
  | some t => s.modCore c (fun k => k.setTeam j (some (f t)))
  | none => s

def State.cluster (s : State) (i : Nat) : Cluster := s.clusters.getD i Cluster.reset
def State.modCluster (s : State) (i : Nat) (f : Cluster → Cluster) : State :=
  { s with clusters := s.clusters.set i (f (s.cluster i)) }

def State.part (s : State) (p : Nat) : Partition := s.parts.getD p Partition.reset
def State.modPart (s : State) (p : Nat) (f : Partition → Partition) : State :=
  { s with parts := s.parts.set p (f (s.part p)) }

def State.queue (s : State) (q : Nat) : Queue := s.queues.getD q Queue.reset
def State.modQueue (s : State) (q : Nat) (f : Queue → Queue) : State :=
  { s with queues := s.queues.set q (f (s.queue q)) }

def State.link (s : State) (l : Nat) : Link := s.links.getD l Link.reset
def State.modLink (s : State) (l : Nat) (f : Link → Link) : State :=
  { s with links := s.links.set l (f (s.link l)) }

/-- The grid of a number. -/
def State.grid? (s : State) (id : Nat) : Option Grid := s.grids.find? (fun g => g.id == id)
/-- Changing the grids of a number. -/
def State.modGrid (s : State) (id : Nat) (f : Grid → Grid) : State :=
  { s with grids := s.grids.map (fun g => if g.id == id then f g else g) }

/-- A launch record with every field zero. -/
def LaunchRec.zero : LaunchRec where
  tag := 0
  fmt := 0
  ver := 0
  flags := 0
  code := 0
  entry := 0
  xentry := 0
  teams := 0
  gpt := 0
  dlim := 0
  blk := 0
  aff := 0
  idx := 0
  scratch := 0
  vault := 0
  symq := 0
  fpctl := 0
  tvt := 0
  tdt := 0
  slots := []
  args := 0
  resaddr := 0
  phtmov := 0
  dclass := 0

/-- A grid with every field zero, for a group whose grid is not listed. -/
def Grid.zero : Grid where
  id := 0
  part := 0
  lrec := LaunchRec.zero
  lrecAt := 0
  node := 0
  queue := 0
  parent := none
  depth := 0
  limit := 0
  order := 0
  codesz := 0
  xsz := 0
  dataOff := 0
  datasz := 0
  repsig := 0
  tails := []
  posted := false
  result := 0
  nextTeam := 0
  teamsLeft := 0
  phase := .waiting
  remSaved := false
  remState := 0
  remCode := 0

/-- The grid of a number, or the zero grid. -/
def State.grid (s : State) (id : Nat) : Grid := (s.grid? id).getD Grid.zero

def LaunchRec.det (r : LaunchRec) : Bool := r.flags.getLsbD 0
def LaunchRec.xgrp (r : LaunchRec) : Bool := r.flags.getLsbD 1
def LaunchRec.tail (r : LaunchRec) : Bool := r.flags.getLsbD 2
def LaunchRec.child (r : LaunchRec) : Bool := r.flags.getLsbD 3

/-- Whether an open partition holds a core (R353). -/
def Partition.hasCore (p : Partition) (c : Nat) : Bool :=
  p.opened && decide (p.first ≤ c / 8) && decide (c / 8 < p.first + p.ncl)

/-- The number of the open partition that holds a core; 16 if none does. -/
def State.partOf (s : State) (c : Nat) : Nat := s.parts.findIdx (fun p => p.hasCore c)

/-- Whether an open partition holds a cluster. -/
def Partition.hasCluster (p : Partition) (i : Nat) : Bool :=
  p.opened && decide (p.first ≤ i) && decide (i < p.first + p.ncl)

/-- The cores of a partition in ascending order (R10). -/
def Partition.coreList (p : Partition) : List Nat := (List.range (8 * p.ncl)).map (fun i => 8 * p.first + i)
/-- The clusters of a partition. -/
def Partition.clusterList (p : Partition) : List Nat := (List.range p.ncl).map (fun i => p.first + i)

/-- Whether the partition is in an X-phase: `PHCNT` is odd (R17). -/
def Partition.isX (p : Partition) : Bool := p.phcnt.getLsbD 0

/-- The resident groups of a core with their slots. -/
def Core.groupList (k : Core) : List (Nat × Group) :=
  (List.range 16).filterMap (fun i => (k.group i).map (fun g => (i, g)))
/-- The resident teams of a core with their slots. -/
def Core.teamList (k : Core) : List (Nat × Team) :=
  (List.range 16).filterMap (fun j => (k.team j).map (fun t => (j, t)))

/-- The slots of a team's groups on its core. -/
def Core.teamSlots (k : Core) (j : Nat) : List Nat :=
  k.groupList.filterMap (fun e => if e.2.team = j then some e.1 else none)

/-- A fresh free-value index; the free values are those of `Config` at it (log 4). -/
def State.fresh (s : State) : Nat × State := (s.free, { s with free := s.free + 1 })

/-- Putting a value in a list of optional cells. -/
def setOpt (l : List (Option α)) (i : Nat) (v : Option α) : List (Option α) := l.set i v

/-- The lowest index of an empty cell. -/
def lowestFree (l : List (Option α)) : Option Nat := l.findIdx? (fun x => x.isNone)

/-- Insertion before the first element that is not less. -/
def insertBy (le : α → α → Bool) (x : α) : List α → List α
  | [] => [x]
  | y :: t => if le x y then x :: y :: t else y :: insertBy le x t

/-- A stable sort. -/
def sortBy (le : α → α → Bool) (l : List α) : List α := l.foldr (insertBy le) []

/-- Lexicographic order of equally long keys, equal keys included. -/
def lexLe : List Nat → List Nat → Bool
  | [], _ => true
  | _ :: _, [] => false
  | a :: s, b :: t => decide (a < b) || (a == b && lexLe s t)

/-! ## A group's plain registers -/

/-- Every lane. -/
abbrev allLanes : LaneMask := 0xFFFFFFFF

/-- A predicate's lanes; `p0` reads true (R63). -/
def Group.pred (g : Group) (k : Nat) : LaneMask := if k = 0 then allLanes else g.p.getD k 0

/-- Writing a predicate in the lanes of `m`; a write of `p0` is discarded (R63). -/
def Group.setPred (g : Group) (k : Nat) (m v : LaneMask) : Group :=
  if k = 0 then g else { g with p := g.p.set k ((g.p.getD k 0 &&& ~~~m) ||| (v &&& m)) }

def Group.scalar (g : Group) (n : Nat) : Word := g.s.getD n 0
def Group.setScalar (g : Group) (n : Nat) (v : Word) : Group := { g with s := g.s.set n v }

/-- An index register's value in a lane. -/
def Group.idxReg (g : Group) (k lane : Nat) : Word := Store.read g.i (k * 32 + lane)
/-- Writing an index register in the lanes of `m`. -/
def Group.setIdx (g : Group) (k : Nat) (m : LaneMask) (f : Nat → Word) : Group :=
  { g with i := Store.writeAll g.i ((LaneMask.toList m).map (fun l => (k * 32 + l, f l))) }

def Group.split (g : Group) (i : Nat) : Option Split := g.splits.getD i none
def Group.setSplit (g : Group) (i : Nat) (sp : Split) : Group := { g with splits := g.splits.set i (some sp) }

/-- The number of vector registers of the group's allocation, `16 × B` (R61). -/
def Group.nregs (g : Group) : Nat := 16 * g.blocks.length

/-- The cell of a group's vector register in its scheduler's file (R21). -/
def Group.cell (g : Group) (slot r lane : Nat) : Nat :=
  (slot / 4) * 16384 + g.blocks.getD (r / 16) 0 * 512 + (r % 16) * 32 + lane

/-- A vector register's value in a lane, through the block map, or in the spill image (R90). -/
def Core.readV (k : Core) (slot : Nat) (g : Group) (r lane : Nat) : Word :=
  match g.spill with
  | some m => Store.read m (r * 32 + lane)
  | none => Store.read k.regs (g.cell slot r lane)

/-- Writing vector registers `(register, lane, value)` of a group. -/
def State.writeV (s : State) (c slot : Nat) (l : List (Nat × Nat × Word)) : State :=
  match s.group c slot with
  | none => s
  | some g =>
    match g.spill with
    | some m =>
      s.setGroup c slot { g with spill := some (Store.writeAll m (l.map (fun e => (e.1 * 32 + e.2.1, e.2.2)))) }
    | none =>
      s.modCore c (fun k => { k with regs := Store.writeAll k.regs (l.map (fun e => (g.cell slot e.1 e.2.1, e.2.2))) })

/-! ## Pending results (R81) -/

/-- The pending kind of a vector register. -/
def Group.pendV (g : Group) (r : Nat) : Option PendKind :=
  (g.inflight.find? (fun f => f.vregs.contains r)).map (fun f => f.kind)
/-- The pending kind of a scalar register. -/
def Group.pendS (g : Group) (n : Nat) : Option PendKind :=
  (g.inflight.find? (fun f => f.sregs.contains n)).map (fun f => f.kind)
/-- The registers of an operand log's lanes that a firm gather has not finished (R225). -/
def OpLog.vregs (o : OpLog) : List Nat :=
  ((List.range 32).filter (fun l => o.guard.getLsbD l && !o.pcm.getLsbD l)).flatMap
    (fun l => (List.range (match o.size with
      | .n64 => 2
      | .n128 => 4
      | _ => 1)).map (fun j => o.dregs.getD l 0 + j))
/-- Whether it has lanes to finish. -/
def OpLog.unfinished (o : OpLog) : Bool := o.guard &&& ~~~o.pcm != 0
/-- Whether a register is logged by a firm gather that faulted (R225). -/
def Group.logged (g : Group) (r : Nat) : Bool := g.logs.any (fun o => o.any (fun o => o.vregs.contains r))

/-- A result in flight holds a register pending. -/
def Inflight.pends (f : Inflight) : Bool := !f.vregs.isEmpty || !f.sregs.isEmpty
/-- Some result of the group is still in flight: what a context save waits for (R85). -/
def Group.inFlight (g : Group) : Bool := g.inflight.any Inflight.pends
/-- Whether any pending bit of the group is set: a register that a firm gather has logged is logged, not pending (R225). -/
def Group.anyPending (g : Group) : Bool :=
  g.inflight.any (fun f => f.vregs.any (fun r => !g.logged r) || !f.sregs.isEmpty)
/-- A result in flight of a firm gather that has faulted, for which trap entry does not wait (R85). -/
def Group.faulting (g : Group) (f : Inflight) : Bool :=
  f.kind == .gather && g.logs.any (fun o => o.any OpLog.unfinished) &&
    !g.logs.any (fun o => o.any (fun x => x.flight == f.id && !x.unfinished))
/-- What trap entry waits for (R85). -/
def Group.entryPending (g : Group) : Bool :=
  g.inflight.any (fun f => !g.faulting f && (f.vregs.any (fun r => !g.logged r) || !f.sregs.isEmpty))

/-! ## Words written and not yet visible (R329, R330, log 12) -/

/-- Changing a core's scratchpad by anything but a store of its groups: the other cores see it too (R315, R329). -/
def Core.modSp (k : Core) (f : Memory → Memory) : Core := { k with sp := f k.sp, shownSp := k.shownSp.map f }
/-- Changing a core's register file by a transfer: the other cores see it too (R315, R329). -/
def Core.modRegs (k : Core) (f : Store 32 → Store 32) : Core := { k with regs := f k.regs, shownRegs := k.shownRegs.map f }

/-- The indices of either list, each once. -/
def unite (l m : List Nat) : List Nat := l ++ m.filter (fun i => !l.contains i)

/-- The words that differ between two states, as the second holds them or shows them to other cores, but for those of host memory. -/
def State.changes (s t : State) : List (WordPlace × Word) :=
  (List.range Config.nCores).flatMap (fun c =>
    let a := s.core c
    let b := t.core c
    (unite (Memory.changed a.sp b.sp) (Memory.changed (a.shownSp.getD []) (b.shownSp.getD []))).map (fun i =>
      (WordPlace.scratch c i, Memory.word b.sp (4 * i))) ++
    (Memory.changed a.vault b.vault).map (fun i => (WordPlace.vault c i, Memory.word b.vault (4 * i))) ++
    (unite (Store.changed a.regs b.regs) (Store.changed (a.shownRegs.getD []) (b.shownRegs.getD []))).map (fun i =>
      (WordPlace.regs c i, Store.read b.regs i)) ++
    (Store.changed a.acc b.acc).map (fun i => (WordPlace.acc c i, Store.read b.acc i))) ++
  (List.range Config.nClusters).flatMap (fun k =>
    let a := (s.cluster k).prog
    let b := (t.cluster k).prog
    (Memory.changed a b).map (fun i => (WordPlace.slice k i, Memory.word b (4 * i)))) ++
  (Memory.changed s.tier t.tier).map (fun i => (WordPlace.tier i, Memory.word t.tier (4 * i)))

/-- Writing a word where it lies. -/
def State.putWord (s : State) (p : WordPlace) (v : Word) : State :=
  match p with
  | .scratch c i => s.modCore c (fun k => { k with sp := Memory.putWord k.sp i v })
  | .vault c i => s.modCore c (fun k => { k with vault := Memory.putWord k.vault i v })
  | .regs c i => s.modCore c (fun k => { k with regs := Store.write k.regs i v })
  | .acc c i => s.modCore c (fun k => { k with acc := Store.write k.acc i v })
  | .slice q i => s.modCluster q (fun k => { k with prog := Memory.putWord k.prog i v })
  | .host i => { s with host := Memory.putWord s.host i v }
  | .tier i => { s with tier := Memory.putWord s.tier i v }

/-- The word as it stands. -/
def State.wordAt (s : State) (p : WordPlace) : Word :=
  match p with
  | .scratch c i => Memory.word (s.core c).sp (4 * i)
  | .vault c i => Memory.word (s.core c).vault (4 * i)
  | .regs c i => Store.read (s.core c).regs i
  | .acc c i => Store.read (s.core c).acc i
  | .slice q i => Memory.word (s.cluster q).prog (4 * i)
  | .host i => Memory.word s.host (4 * i)
  | .tier i => Memory.word s.tier (4 * i)

/-- The word as the other cores see it (R329). -/
def State.shownAt (s : State) (p : WordPlace) : Word :=
  match p with
  | .scratch c i => Memory.word ((s.core c).shownSp.getD (s.core c).sp) (4 * i)
  | .regs c i => Store.read ((s.core c).shownRegs.getD (s.core c).regs) i
  | p => s.wordAt p

/-- Writing a word as the other cores see it. -/
def State.putShown (s : State) (p : WordPlace) (v : Word) : State :=
  match p with
  | .scratch c i => s.modCore c (fun k => { k with shownSp := k.shownSp.map (fun m => Memory.putWord m i v) })
  | .regs c i => s.modCore c (fun k => { k with shownRegs := k.shownRegs.map (fun m => Store.write m i v) })
  | _ => s

/-- The bytes in which two words differ. -/
def diffBytes (a b : Word) : BitVec 4 :=
  BitVec.ofNat 4 ((List.range 4).foldl (fun n i => if a.extractLsb' (8 * i) 8 = b.extractLsb' (8 * i) 8 then n else n + 2 ^ i) 0)
/-- A word with the bytes of a mask replaced. -/
def mergeBytes (old new : Word) (m : BitVec 4) : Word :=
  let w : Word := BitVec.ofNat 32 ((List.range 4).foldl (fun n i => if m.getLsbD i then n + 0xFF * 256 ^ i else n) 0)
  (old &&& ~~~w) ||| (new &&& w)

/-- A late word becomes visible. -/
def State.landWord (s : State) (w : LateWord) : State :=
  (s.putWord w.place (mergeBytes (s.wordAt w.place) w.val w.mask)).putShown w.place
    (mergeBytes (s.shownAt w.place) w.val w.mask)

/-- The late words that satisfy `p` become visible, in their order. -/
def State.landWords (s : State) (p : LateWord → Bool) : State :=
  { ((s.late.filter p).foldl State.landWord s) with late := s.late.filter (fun w => !p w) }

/-- The words of a command become visible. -/
def State.landCmd (s : State) (cmd : Nat) : State := s.landWords (fun w => w.cmd == cmd)

/-- The state `t`, in which the words of `l` stand as `s` has them and are late instead, those too that were late in `s` and landed
on the way to `t`. `tag` is what they carry. -/
def State.hideWords (s t : State) (tag : LateWord) (l : List (WordPlace × Word)) : State :=
  { (l.foldl (fun t x => (t.putWord x.1 (s.wordAt x.1)).putShown x.1 (s.shownAt x.1)) t) with
    late := t.late ++ l.map (fun x => { tag with
      place := x.1, val := x.2, mask := diffBytes (s.wordAt x.1) x.2 ||| diffBytes (s.shownAt x.1) (t.shownAt x.1) }) }

/-- The state `t`, in which the bytes of host memory from `lo` to below `hi` stand as `s` has them: all of them, the ones that do
not differ too, are on their way (R330). -/
def State.hideHost (s t : State) (tag : LateWord) (lo hi : Nat) : State :=
  (List.range ((hi + 3) / 4 - lo / 4)).foldl (fun (u : State) j =>
    let i := lo / 4 + j
    let m := BitVec.ofNat 4 ((List.range 4).foldl (fun n b => if lo ≤ 4 * i + b ∧ 4 * i + b < hi then n + 2 ^ b else n) 0)
    let p := WordPlace.host i
    { u.putWord p (mergeBytes (t.wordAt p) (s.wordAt p) m) with
      late := u.late ++ [{ tag with place := p, val := t.wordAt p, mask := m }] }) t

/-- A late word arrives unless words that it must follow are still on their way (R330). -/
def State.arrive (s : State) (k : Nat) : State :=
  match s.late[k]? with
  | none => s
  | some w =>
    if s.late.any (fun x => w.after.contains x.cmd) then s
    else { s.landWord w with late := s.late.eraseIdx k }

end Sys2Proof.Machine
end

