-- ==== Sys2Proof/Machine/Split.lean ====
section
/-! DEFINITION. Splits, branches, reconvergence and exits (R75-R79). -/

namespace Sys2Proof.Machine

open Sys2Proof

/-- The address of the next word. -/
def nextPc (pc : Word) : Word := pc + 8

/-- A split whose PC is the J of its top record acts on that record (R77). -/
def Split.atJoin (sp : Split) : Bool :=
  match sp.stack with
  | r :: _ => sp.pc == r.j
  | [] => false

/-- A held split issues nothing (R77). -/
def Split.held (sp : Split) : Bool :=
  match sp.stack with
  | r :: _ => sp.pc == r.j && r.dmask == 0
  | [] => false

/-- Switching to the deferred path of the top record when the split is at its J (R77). -/
def Split.switch (sp : Split) : Split :=
  match sp.stack with
  | r :: t =>
    if sp.pc == r.j && r.dmask != 0 then
      { sp with pc := r.dpc, mask := r.dmask, stack := { r with amask := r.amask ||| sp.mask, dmask := 0 } :: t }
    else sp
  | [] => sp

/-- The AMASK of the top record. -/
def Split.topAmask (sp : Split) : LaneMask :=
  match sp.stack with
  | r :: _ => r.amask
  | [] => 0

/-- Whether two held splits share one join: equal J, equal MJ, equal depth (R77). -/
def Split.sameJoin (a b : Split) : Bool :=
  match a.stack, b.stack with
  | r :: _, q :: _ => r.j == q.j && r.mj == q.mj && a.stack.length == b.stack.length
  | _, _ => false

/-- The entries whose splits are held on the same join as `sp`. -/
def joinMates (l : List (Option Split)) (sp : Split) : List Nat :=
  (List.range l.length).filter (fun i =>
    match l.getD i none with
    | some q => q.held && sp.sameJoin q
    | none => false)

/-- The lanes that wait at the join of `sp`: the masks and the top AMASKs of its mates. -/
def joinLanes (l : List (Option Split)) (sp : Split) : LaneMask :=
  (joinMates l sp).foldl (fun m i =>
    match l.getD i none with
    | some q => m ||| q.mask ||| q.topAmask
    | none => m) 0

/-- The lowest entry whose split can fuse with its mates now (R77). -/
def fusable (l : List (Option Split)) : Option Nat :=
  (List.range l.length).find? (fun i =>
    match l.getD i none with
    | some q =>
      match q.stack with
      | r :: _ => q.held && joinLanes l q == r.mj
      | [] => false
    | none => false)

/-- A stack with the lanes that wait in another copy of it: a lane that waits at an outer join is held by one copy only
(R75), so both copies' waiting lanes wait in the stack of the fused split. -/
def mergeWaiting (a b : List JoinRec) : List JoinRec :=
  List.zipWith (fun r q => { r with amask := r.amask ||| q.amask }) a b

/-- Fusing the splits that share the join of entry `i`, the lowest of them. -/
def fuseAt (l : List (Option Split)) (i : Nat) : List (Option Split) :=
  match l.getD i none with
  | some q =>
    match q.stack with
    | r :: t =>
      let rest := (joinMates l q).foldl (fun st j =>
        match l.getD j none with
        | some x => mergeWaiting st x.stack.tail
        | none => st) t
      ((joinMates l q).foldl (fun m j => m.set j none) l).set i (some { q with mask := r.mj, pc := r.j, stack := rest })
    | [] => l
  | none => l

/-- Deferred switches and fusions until nothing more changes (R77), with whether any fusion took place.
The fuel exceeds the number of records and deferred paths that four splits can hold. -/
def settleSplits : Nat → List (Option Split) → List (Option Split) × Bool
  | 0, l => (l, false)
  | n + 1, l =>
    let l' := l.map (fun o => o.map Split.switch)
    match fusable l' with
    | some i => ((settleSplits n (fuseAt l' i)).1, true)
    | none => if l' == l then (l', false) else settleSplits n l'

/-- No latch record and latch service begun anew (R64, R68). -/
def Split.clearLatch (sp : Split) : Split := { sp with latch := [], since := 0 }
def Group.clearLatch (g : Group) : Group := { g with splits := g.splits.map (fun o => o.map Split.clearLatch) }

/-- The split table after `settleSplits`; a fusion clears every latch record of the group (R64, R77). -/
def Group.reconverge (g : Group) : Group :=
  let r := settleSplits 128 g.splits
  let g' := { g with splits := r.1 }
  if r.2 then g'.clearLatch else g'

/-- A split's PC becomes `pc`. -/
def Group.setPc (g : Group) (i : Nat) (pc : Word) : Group :=
  match g.split i with
  | some sp => (g.setSplit i { sp with pc := pc }).reconverge
  | none => g

/-- The splits in use. -/
def Group.splitList (g : Group) : List Split := g.splits.filterMap id

/-- Converged (R75): one split, which holds every lane that has not exited, and no lane waits. -/
def Group.converged (g : Group) : Bool :=
  match g.splitList with
  | [sp] => sp.mask == g.live && sp.stack.all (fun r => r.amask == 0)
  | _ => false

/-- The effect of a branch on the split table (R76). -/
def Group.branch (g : Group) (i : Nat) (target next : Word) (rpc : Option Word) (t : LaneMask) : Except Cause Group :=
  match g.split i with
  | none => .ok g
  | some sp =>
    let t := t &&& sp.mask
    if t = 0 then .ok (g.setPc i next)
    else if t = sp.mask then .ok (g.setPc i target)
    else match rpc with
      | none => .error Causes.divergentUniform
      | some j =>
        if sp.stack.length ≥ 8 then .error Causes.reconvOverflow
        else
          let rest := sp.mask &&& ~~~t
          match lowestFree g.splits with
          | some f =>
            let top : JoinRec := { j := j, mj := sp.mask, dpc := 0, dmask := 0, amask := 0 }
            let taken := { sp with pc := target, mask := t, stack := top :: sp.stack }
            let other := { sp with pc := next, mask := rest, stack := top :: sp.stack.map (fun r => { r with amask := 0 }) }
            .ok ((g.setSplit i taken).setSplit f other).reconverge
          | none =>
            let top : JoinRec := { j := j, mj := sp.mask, dpc := next, dmask := rest, amask := 0 }
            .ok (g.setSplit i { sp with pc := target, mask := t, stack := top :: sp.stack }).reconverge

/-- Removing lanes from every mask of a record (R78). -/
def JoinRec.drop (r : JoinRec) (m : LaneMask) : JoinRec :=
  { r with mj := r.mj &&& ~~~m, dmask := r.dmask &&& ~~~m, amask := r.amask &&& ~~~m }

/-- Removing lanes from a split (R78). -/
def Split.drop (sp : Split) (m : LaneMask) : Split :=
  { sp with mask := sp.mask &&& ~~~m, stack := sp.stack.map (fun r => r.drop m) }

/-- Whether some split other than entry `i` holds a copy of a deferred path (log 15). -/
def heldElsewhere (l : List (Option Split)) (i : Nat) (r : JoinRec) : Bool :=
  (List.range l.length).any (fun k => k != i &&
    match l.getD k none with
    | some q => q.stack.any (fun x => x.j == r.j && x.mj == r.mj && x.dpc == r.dpc && x.dmask == r.dmask)
    | none => false)

/-- What a split of entry `i` whose MASK became zero does with its stack (R78, log 15). -/
def emptySplit (l : List (Option Split)) (i : Nat) (sp : Split) : List JoinRec → Option Split
  | [] => none
  | r :: t =>
    if r.dmask != 0 && !heldElsewhere l i r then
      some { sp with pc := r.dpc, mask := r.dmask, stack := { r with dmask := 0 } :: t }
    else if r.amask != 0 then some { sp with pc := r.j, mask := 0, stack := { r with dmask := 0 } :: t }
    else emptySplit l i sp t

/-- Every split with MASK zero that is not waiting at a join acts (R78), in entry order. -/
def actEmpty (l : List (Option Split)) : List (Option Split) :=
  (List.range l.length).foldl (fun l i =>
    match l.getD i none with
    | some sp => if sp.mask == 0 then l.set i (emptySplit l i sp sp.stack) else l
    | none => l) l

/-- Lanes exit (R78): they leave every mask, emptied splits act, and fusion is checked again. -/
def Group.exitLanes (g : Group) (m : LaneMask) : Group :=
  let l := g.splits.map (fun o => o.map (fun sp => sp.drop m))
  { g with live := g.live &&& ~~~m, helper := g.helper &&& ~~~m, splits := actEmpty l }.reconverge

end Sys2Proof.Machine
end

