-- ==== Sys2Proof/Machine/Walk.lean ====
section
/-! DEFINITION. Page tables, translation, and reading bytes through them (R206, R208, R209, R213-R215, R320). -/

namespace Sys2Proof.Machine

open Sys2Proof

/-! ## Entries (R208) -/

def Pte.valid (e : Dword) : Bool := e.getLsbD 0
def Pte.leaf (e : Dword) : Bool := e.getLsbD 1
def Pte.res (e : Dword) : Bool := e.getLsbD 2
def Pte.w (e : Dword) : Bool := e.getLsbD 3
def Pte.tier (e : Dword) : Nat := (e.extractLsb' 6 2).toNat
def Pte.core (e : Dword) : Nat := (e.extractLsb' 56 8).toNat
/-- ADDR as an address, bits [51:12] in place. -/
def Pte.addr (e : Dword) : Nat := (e.extractLsb' 12 40).toNat * 4096
/-- No reserved field is set and TIER is not 11. -/
def Pte.clean (e : Dword) : Bool := e.extractLsb' 52 4 == 0 && e.extractLsb' 8 4 == 0 && Pte.tier e != 3
/-- The vault offset of a resident leaf's frame, in [28:16] or [28:21]. -/
def Pte.frame (big : Bool) (e : Dword) : Nat :=
  if big then (e.extractLsb' 21 8).toNat * 0x200000 else (e.extractLsb' 16 13).toNat * 0x10000
/-- The page size. -/
def pageSize (big : Bool) : Nat := if big then 0x200000 else 0x10000

/-- Where a leaf lies: a page-table address in host memory, a table of the command processor's own that holds an aperture's
leaf by its granule (R206, log 16). -/
inductive LeafRef where
  | host (addr : Nat)
  | aperture (granule : Nat)
deriving DecidableEq, Repr

/-- What a walk that does not yield invalid finds. -/
structure Leaf where
  pte : Dword
  big : Bool
  ref : LeafRef
deriving DecidableEq, Repr

/-- A leaf whose frame lies outside the spill area (R208). -/
def Leaf.ok (l : Leaf) : Bool := !Pte.res l.pte || decide (Pte.frame l.big l.pte < Config.spillBase)

/-- The aperture range (R206). -/
def inAperture (va : Nat) : Bool := decide (Config.apertureBase ≤ va) && decide (va < Config.apertureEnd)

/-- The aperture of a team (R206). -/
def aperture (c j : Nat) : Nat := Config.apertureBase + c * 0x200000000 + j * 0x20000000

/-- The aperture leaf of a granule that lies in a table of the command processor's own. -/
def Partition.apLeaf (p : Partition) (granule : Nat) : Option Dword :=
  (p.apLeaves.find? (fun e => e.1 == granule)).map (fun e => e.2)

/-- An entry of a table of levels 1 to 3 that points to the next table. -/
def Pte.table (e : Dword) : Bool := Pte.valid e && Pte.clean e && !Pte.leaf e

/-- The level-3 entry of an address: its place in host memory and the entry; none where the path ends before it. -/
def level3 (host : Memory) (p : Partition) (va : Nat) : Option (Nat × Dword) :=
  let root := (p.ptroot.extractLsb' 12 40).toNat * 4096
  let e1 := Memory.dword host (root + 8 * (va / 2 ^ 39 % 512))
  if !Pte.table e1 then none
  else
    let e2 := Memory.dword host (Pte.addr e1 + 8 * (va / 2 ^ 30 % 512))
    if !Pte.table e2 then none
    else
      let a3 := Pte.addr e2 + 8 * (va / 2 ^ 21 % 512)
      some (a3, Memory.dword host a3)

/-- The place in host memory of an address's level-4 entry; none where its path does not reach level 4. -/
def level4 (host : Memory) (p : Partition) (va : Nat) : Option Nat :=
  match level3 host p va with
  | some (_, e3) => if Pte.table e3 then some (Pte.addr e3 + 8 * (va / 2 ^ 16 % 32)) else none
  | none => none

/-- A leaf word as a walk ends in it: none where it is invalid (R208). -/
def endWalk (e : Dword) (big : Bool) (r : LeafRef) : Option Leaf :=
  let l : Leaf := { pte := e, big := big, ref := r }
  if Pte.valid e && Pte.clean e && Pte.leaf e && l.ok then some l else none

/-- The walk of a partition-virtual address (R208); `none` is invalid. -/
def walk (host : Memory) (p : Partition) (va : Nat) : Option Leaf :=
  match p.apLeaf (va / 0x10000) with
  | some e => endWalk e false (.aperture (va / 0x10000))
  | none =>
    match level3 host p va with
    | none => none
    | some (a3, e3) =>
      if Pte.table e3 then
        let a4 := Pte.addr e3 + 8 * (va / 2 ^ 16 % 32)
        endWalk (Memory.dword host a4) false (.host a4)
      else endWalk e3 true (.host a3)

/-- Where the leaf of a page of either size lies on the present path of an address, valid or not; none where the path has no
place for it. -/
def leafPlace (host : Memory) (p : Partition) (va : Nat) (big : Bool) : Option LeafRef :=
  match p.apLeaf (va / 0x10000) with
  | some _ => if big then none else some (.aperture (va / 0x10000))
  | none =>
    match level3 host p va with
    | none => none
    | some (a3, e3) =>
      if big then if Pte.table e3 then none else some (.host a3)
      else if Pte.table e3 then some (.host (Pte.addr e3 + 8 * (va / 2 ^ 16 % 32)))
      else none

/-- Resident for core `c` (R209). -/
def Leaf.resident (l : Leaf) (c : Nat) : Bool := Pte.res l.pte && Pte.core l.pte == c

/-- The vault offset of an address on a resident page. -/
def Leaf.offset (l : Leaf) (va : Nat) : Nat := Pte.frame l.big l.pte + va % pageSize l.big
/-- The backing address of an address on a page with RES = 0. -/
def Leaf.backing (l : Leaf) (va : Nat) : Nat := Pte.addr l.pte + va % pageSize l.big

/-- Writing a leaf. -/
def State.putLeaf (s : State) (p : Nat) (r : LeafRef) (e : Dword) : State :=
  match r with
  | .host a => { s with host := Memory.store s.host a (leBytes 8 e.toNat) }
  | .aperture g => s.modPart p (fun q => { q with apLeaves := q.apLeaves.map (fun x => if x.1 == g then (g, e) else x) })

/-- A leaf's word as it now stands. -/
def State.leafNow (s : State) (p : Nat) (r : LeafRef) : Dword :=
  match r with
  | .host a => Memory.dword s.host a
  | .aperture g => ((s.part p).apLeaf g).getD 0

/-- A and D set in a leaf word (R320). -/
def Pte.accessed (isStore : Bool) (e : Dword) : Dword := e ||| 0x10 ||| (if isStore then 0x20 else 0)

/-- A is set, and D for a store, in the leaf as it now stands in the page table (R320, log 17): where a held translation gave
the access and the host has rewritten the leaf since, in the host's value. -/
def State.touchLeaf (s : State) (p : Nat) (l : Leaf) (isStore : Bool) : State :=
  let now := s.leafNow p l.ref
  if Pte.accessed isStore now = now then s else s.putLeaf p l.ref (Pte.accessed isStore now)

/-! ## Held translations (R213, R214) -/

/-- Whether an entry covers an address. -/
def XlEntry.covers (e : XlEntry) (va : Nat) : Bool := e.page == va / pageSize e.big

/-- Whether two leaf words translate alike: all but A and D agree. -/
def sameMap (x y : Dword) : Bool := x ||| 0x30 == y ||| 0x30

/-- A translation that a last-page register or the TLB holds for an address (R213). -/
def Core.heldLeaf (k : Core) (key va : Nat) : Option XlEntry :=
  match k.lastPage.find? (fun e => e.key == key && e.covers va) with
  | some e => some e
  | none => k.tlb.find? (fun e => e.covers va)

/-- Filling the TLB, and the last-page registers of the keys (R213). A lane's key is 32 times its group's slot, plus
the lane. -/
def Core.fill (k : Core) (keys : List Nat) (va : Nat) (l : Leaf) : Core :=
  let e : XlEntry := { key := 0, page := va / pageSize l.big, big := l.big, leaf := l.pte }
  { k with
    lastPage := keys.map (fun x => { e with key := x }) ++ k.lastPage.filter (fun x => !keys.contains x.key)
    tlb := (e :: k.tlb.filter (fun x => !x.covers va)).take Config.tlbCap }

/-- A held translation as a leaf: none where the present path has no place for a leaf of its size, in which an access by it could
set A (R320), so that the access translates again. -/
def State.heldAs (s : State) (p va : Nat) (e : XlEntry) : Option Leaf :=
  (leafPlace s.host (s.part p) va e.big).map (fun r => { pte := e.leaf, big := e.big, ref := r })

/-- The translation that one access of core `c` uses: the present one, or, where a held translation differs
from it, either (R214; the choice is a free value). The flag says whether it was held (R213). -/
def State.pick (s : State) (c p key va : Nat) : State × Option Leaf × Bool :=
  let now := walk s.host (s.part p) va
  match (s.core c).heldLeaf key va with
  | none => (s, now, false)
  | some e =>
    let same := match now with
      | some l => sameMap e.leaf l.pte && e.big == l.big
      | none => false
    if same then (s, now, true)
    else match s.heldAs p va e with
      | none => (s, now, false)
      | some old =>
        let r := s.fresh
        if Config.freeBit r.1 then (r.2, some old, true) else (r.2, now, false)

/-- A lane's walk, for an access or for a lookup that makes none, which fills when it returns (R213, log 17): lanes of one word on
one page share it. -/
def Core.addWalk (k : Core) (p slot lane va : Nat) (l : Leaf) (access : Bool) : Core :=
  let m : LaneMask := 1#32 <<< lane
  let grid := ((k.group slot).map (fun g => g.grid)).getD 0
  let hit := fun (w : Walk) => w.grid == grid && w.part == p && w.slot == slot && w.leaf == l.pte && w.big == l.big &&
    w.access == access && w.va / pageSize l.big == va / pageSize l.big
  if k.walks.any hit then
    { k with walks := k.walks.map (fun w => if hit w then { w with lanes := w.lanes ||| m } else w) }
  else
    { k with walks := k.walks ++ [{
      grid := grid, part := p, va := va, big := l.big, leaf := l.pte, access := access, slot := slot, lanes := m }] }

/-- A lane's last-page register takes the page it translated (R213). -/
def Core.holdPage (k : Core) (key va : Nat) (l : Leaf) : Core :=
  { k with lastPage := { key := key, page := va / pageSize l.big, big := l.big, leaf := l.pte } ::
      k.lastPage.filter (fun x => x.key != key) }

/-- What an access of a lane does to the leaf and the held translations (R213, R320): A is set, and D for a store; a hit loads
the lane's last-page register, and an access that the held translations missed fills them: a store at once, a load by a walk. -/
def State.accessed (s : State) (c p slot lane va : Nat) (l : Leaf) (hit isStore : Bool) : State :=
  let t := s.touchLeaf p l isStore
  let now : Leaf := { l with pte := t.leafNow p l.ref }
  t.modCore c (fun k =>
    if hit then k.holdPage (slot * 32 + lane) va l
    else if isStore then k.fill [slot * 32 + lane] va now
    else k.addWalk p slot lane va now true)

/-- The key of an engine's or a transfer's accesses, which no lane has. -/
abbrev engineKey : Nat := 512

/-- The translation of an engine's or a transfer's access: it sets A, and D for a write, and fills the TLB where that held no
translation. -/
def State.translate (s : State) (c p va : Nat) (isStore : Bool) : State × Option Leaf :=
  let r := s.pick c p engineKey va
  match r.2.1 with
  | none => (r.1, none)
  | some l =>
    let t := r.1.touchLeaf p l isStore
    (if r.2.2 then t else t.modCore c (fun k => k.fill [] va l), some l)

/-- The translations of 64 KiB pages from one granule on leave a core's TLBs and last-page registers. -/
def Core.dropPages (k : Core) (first n : Nat) : Core :=
  let out := fun (e : XlEntry) => e.big || decide (e.page < first) || decide (first + n ≤ e.page)
  { k with tlb := k.tlb.filter out, itlb := k.itlb.filter out, lastPage := k.lastPage.filter out }

/-- A sweep of a core clears its last-page registers, its TLB and its instruction TLB and cache (R213, R215). -/
def Core.sweep (k : Core) : Core := { k with lastPage := [], tlb := [], itlb := [], icache := [] }

/-! ## Bytes wherever they lie (R215) -/

/-- A byte of a page, from the vault that holds it or from its backing; a page with no backing reads as zero. -/
def State.byteOf (s : State) (l : Leaf) (va : Nat) : Byte :=
  if Pte.res l.pte then Store.read (s.core (Pte.core l.pte)).vault (l.offset va)
  else match Pte.tier l.pte with
    | 1 => Store.read s.tier (l.backing va)
    | 2 => Store.read s.host (l.backing va)
    | _ => 0

/-- A byte at a partition-virtual address; `none` on an invalid page. -/
def State.byteAt (s : State) (p va : Nat) : Option Byte := (walk s.host (s.part p) va).map (fun l => s.byteOf l va)

/-- Bytes at a partition-virtual address; `none` if any lies on an invalid page. The command processor reads so, and sets no A: the
model's choice (log 17). -/
def State.bytesAt (s : State) (p va n : Nat) : Option (List Byte) :=
  (List.range n).mapM (fun i => s.byteAt p ((va + i) % 2 ^ 48))

/-- The eight bytes of an aligned address as code. -/
def State.wordOf (s : State) (l : Leaf) (va : Nat) : Dword :=
  BitVec.ofNat 64 (leNat ((List.range 8).map (fun i => s.byteOf l (va + i))))

/-- The instruction TLB takes a translation (R215). -/
def Core.fillCode (k : Core) (va : Nat) (l : Leaf) : Core :=
  let e : XlEntry := { key := 0, page := va / pageSize l.big, big := l.big, leaf := l.pte }
  { k with itlb := (e :: k.itlb.filter (fun x => !x.covers va)).take Config.itlbCap }

/-- Reading a word of code, or a trap's handler address (R215, R344): the page's A is set (R320) and the translation joins the
instruction TLB. Where one that is held there differs from the page table, either is used, a free choice (R214). None is an invalid
page; else the leaf by which the word was read, and the word. -/
def State.codeRead (s : State) (c p va : Nat) : State × Option (Leaf × Dword) :=
  let fresh := fun (s : State) => match walk s.host (s.part p) va with
    | some l => ((s.touchLeaf p l false).modCore c (fun k => k.fillCode va l), some (l, s.wordOf l va))
    | none => (s, none)
  match (s.core c).itlb.find? (fun e => e.covers va) with
  | none => fresh s
  | some e =>
    if (walk s.host (s.part p) va).any (fun l => sameMap e.leaf l.pte && e.big == l.big) then fresh s
    else match s.heldAs p va e with
      | none => fresh s
      | some old =>
        let r := s.fresh
        if Config.freeBit r.1 then (r.2.touchLeaf p old false, some (old, r.2.wordOf old va)) else fresh r.2

end Sys2Proof.Machine
end

