-- ==== Sys2Proof/Machine/Operands.lean ====
section
/-! DEFINITION. The operands of a word: its environment, register reads through the latch (R64), destination
writes (R61, R121-R123), and the checks of R72 that need the machine. -/

namespace Sys2Proof.Machine

open Sys2Proof

/-- The constants `c0`-`c15` (R62). -/
def constVal (n : Fin 16) : Word :=
  [0x00000000#32, 0x00000001#32, 0xFFFFFFFF#32, 0x3F800000#32, 0xBF800000#32, 0x3F000000#32, 0x40000000#32,
   0x7F800000#32, 0xFF800000#32, 0x7FC00000#32, 0x80000000#32, 0x7FFFFFFF#32, 0x3C003C00#32, 0x3F317218#32,
   0x3FB8AA3B#32, 0x40490FDB#32].getD n.val 0

/-- A precise trap that a word raises: cause, `TINFO`, `TLANE` (R341). -/
structure Trap where
  cause : Cause
  info : BitVec 64
  lane : Nat
deriving DecidableEq, Repr

/-- A trap whose `TINFO` and `TLANE` are 0. -/
def trapOf (c : Cause) : Trap := { cause := c, info := 0, lane := 0 }

/-! ## The environment of a word -/

/-- What a word reads: the issuing core, slot and split with their state when it reads its sources, the grid
and partition, and the lanes whose guard passes. -/
structure Env where
  core : Nat
  slot : Nat
  split : Nat
  k : Core
  g : Group
  sp : Split
  gr : Grid
  pt : Partition
  act : LaneMask

/-- The lanes that pass a guard. -/
def Group.passing (g : Group) (pg : Nat) (pn : Bool) : LaneMask := if pn then ~~~g.pred pg else g.pred pg

/-- The environment of the current word under a guard; none if the selected entry is empty. -/
def State.env (s : State) (pg : Nat) (pn : Bool) : Option Env :=
  match s.group s.cur.core s.cur.slot with
  | none => none
  | some g =>
    match g.split s.cur.split with
    | none => none
    | some sp =>
      some { core := s.cur.core, slot := s.cur.slot, split := s.cur.split, k := s.core s.cur.core, g := g, sp := sp,
             gr := s.grid g.grid, pt := s.part (s.grid g.grid).part, act := sp.mask &&& g.passing pg pn }

/-- A latch-served value of a vector register (R64). -/
def Split.latched (sp : Split) (r : Nat) : Option (List Word) :=
  (sp.latch.flatMap id).find? (fun e => e.1 == r) |>.map (fun e => e.2)

/-- A vector register's value in a lane: latch-served (R64), from the register file, or unbounded (log 4). A source lane of
`shfl`, `shflx` or `bcast` whose guard failed is not bound-checked (R61): inside the allocation it reads its register,
whatever the window (log 53). -/
def Env.rdV (e : Env) (r lane : Nat) : Word :=
  if r < e.g.nregs then
    match e.sp.latched r with
    | some vs => vs.getD lane 0
    | none => e.k.readV e.slot e.g r lane
  else Config.outside r lane

/-- The vector register number an operand names in a lane. -/
def Env.vnum (e : Env) (r : Reg) (lane : Nat) : Nat :=
  match r with
  | .v n => n.val
  | .vi k => (e.g.idxReg k.val lane).toNat
  | .s n => n.val
  | .c n => n.val

/-- An operand's value in a lane (R61, R62). -/
def Env.rd (e : Env) (r : Reg) (lane : Nat) : Word :=
  match r with
  | .v n => e.rdV n.val lane
  | .vi k => e.rdV (e.g.idxReg k.val lane).toNat lane
  | .s n => e.g.scalar n.val
  | .c n => constVal n

/-- A scalar or constant operand's value. -/
def Env.sc (e : Env) (r : Reg) : Word := e.rd r 0

/-- The operand that follows another in number, by `j`. -/
def regPlus (r : Reg) (j : Nat) : Reg :=
  match r with
  | .v n => .v (Fin.ofNat 192 (n.val + j))
  | .vi k => .vi k
  | .s n => .s (Fin.ofNat 24 (n.val + j))
  | .c n => .c (Fin.ofNat 16 (n.val + j))

/-- A pair's 64-bit value, the low word first (R207). -/
def Env.rd64 (e : Env) (r : Reg) (lane : Nat) : Dword := e.rd (regPlus r 1) lane ++ e.rd r lane

/-- The lanes that pass the guard, ascending. -/
def Env.lanes (e : Env) : List Nat := LaneMask.toList e.act
/-- Passing lanes that are not helper lanes. -/
def Env.realLanes (e : Env) : List Nat := LaneMask.toList (e.act &&& ~~~e.g.helper)

/-! ## Writes -/

/-- Writing a destination in the passing lanes: a scalar takes the value of the lowest passing lane (R123), a
constant discards it (R61). -/
def Env.wr (e : Env) (d : Reg) (f : Nat → Word) (s : State) : State :=
  match d with
  | .v n => s.writeV e.core e.slot (e.lanes.map (fun l => (n.val, l, f l)))
  | .vi k => s.writeV e.core e.slot
      ((e.lanes.map (fun l => ((e.g.idxReg k.val l).toNat, l, f l))).filter (fun x => decide (x.1 < e.g.nregs)))
  | .s n => if e.act = 0 then s else s.modGroup e.core e.slot (fun g => g.setScalar n.val (f (LaneMask.lowest e.act)))
  | .c _ => s

/-- Writing a scalar-class destination once. -/
def Env.wrS (e : Env) (d : Reg) (v : Word) (s : State) : State :=
  match d with
  | .s n => s.modGroup e.core e.slot (fun g => g.setScalar n.val v)
  | _ => s

/-- Writing a predicate in the passing lanes. -/
def Env.wrP (e : Env) (p : Nat) (f : Nat → Bool) (s : State) : State :=
  s.modGroup e.core e.slot (fun g => g.setPred p e.act (LaneMask.ofFn f))

/-- Changing the issuing group. -/
def Env.modG (e : Env) (f : Group → Group) (s : State) : State := s.modGroup e.core e.slot f
/-- Changing the issuing core. -/
def Env.modK (e : Env) (f : Core → Core) (s : State) : State := s.modCore e.core f
/-- Changing the issuing group's team. -/
def Env.modT (e : Env) (f : Team → Team) (s : State) : State := s.modTeam e.core e.g.team f

/-- A team with every field zero, for a group whose team is not listed. -/
def Team.zero : Team where
  grid := 0
  num := 0
  spb := 0
  scratch := 0
  vault := 0
  age := 0
  afnext := 1
  aflive := 0
  afquota := 0
  frqSz := 0
  frqBase := 0
  frqhd := 0
  frqtl := 0
  gen := 0
  children := []
  ending := false

/-- The issuing group's team. -/
def Env.t (e : Env) : Team := (e.k.team e.g.team).getD Team.zero

/-- A new result in flight (R81); its number is the device's next. -/
def State.addInflight (s : State) (c slot : Nat) (f : Nat → Inflight) : State :=
  { (s.modGroup c slot (fun g => { g with inflight := g.inflight ++ [f s.nextId] })) with nextId := s.nextId + 1 }

/-! ## The checks of R72 that need the machine -/

/-- The operands and legality of a word: held registers, source and destination fields with their register
counts in field order (D first), affine operands, index registers named, phases, group level (R105), whether a due
firm-gather trap is taken before it whatever it touches (R225), and a check made after the register fields: pair
banks (R68) or privilege (R335). `also` names the registers it reads through `v[ik]` in lanes whose guard failed (R120, R146,
R147, R175), `alsoD` those it writes there (R175), `unwritten` the destinations that none of its lanes writes (R69, R238). -/
structure Form where
  g : Guard
  held : List Nat
  dsts : List (Reg × Nat)
  srcs : List (Reg × Nat)
  affD : List (Fin 8)
  affS : List (Fin 8)
  idxs : List (Fin 8)
  inC : Bool
  inX : Bool
  group : Bool
  log : Bool
  pre : Env → Option Trap
  also : Env → List Nat
  alsoD : Env → List Nat
  unwritten : Env → List Nat

/-- A form with no operands that is legal in both phases. -/
def Form.plain (g : Guard) : Form where
  g := g
  held := []
  dsts := []
  srcs := []
  affD := []
  affS := []
  idxs := []
  inC := true
  inX := true
  group := false
  log := false
  pre := fun _ => none
  also := fun _ => []
  alsoD := fun _ => []
  unwritten := fun _ => []

/-- The direct vector register that a hold names (R64). -/
def heldReg (h : Hold) (a b c : Option Reg) : List Nat :=
  match h, a, b, c with
  | .a, some (.v n), _, _ => [n.val]
  | .b, _, some (.v n), _ => [n.val]
  | .c, _, _, some (.v n) => [n.val]
  | _, _, _, _ => []

/-- A register operand lies in the allocation (R61). -/
def Env.regIn (e : Env) (x : Reg × Nat) : Bool :=
  match x.1 with
  | .v n => decide (n.val + x.2 ≤ e.g.nregs)
  | .vi k => decide (k.val < e.gr.lrec.idx)
  | _ => true

/-- Every register field is in the allocation and the record's counts (R61, R63). -/
def Form.regsIn (f : Form) (e : Env) : Bool :=
  (f.dsts ++ f.srcs).all e.regIn && (f.affD ++ f.affS).all (fun a => decide (a.val < e.gr.lrec.aff)) &&
    f.idxs.all (fun i => decide (i.val < e.gr.lrec.idx))

/-- Whether a scalar register is among the operands (R122). -/
def Form.usesScalar (f : Form) : Bool :=
  (f.dsts ++ f.srcs).any (fun x => match x.1 with
    | .s _ => true
    | _ => false)

/-- The first register of an affine register (R42). -/
def Env.affBase (e : Env) (a : Nat) : Nat := 16 * (e.g.blocks.length - e.gr.lrec.aff + a)

/-- The vector registers an operand touches in the passing lanes. -/
def Env.vregs (e : Env) (x : Reg × Nat) : List Nat :=
  match x.1 with
  | .v n => (List.range x.2).map (fun j => n.val + j)
  | .vi k => e.lanes.map (fun l => (e.g.idxReg k.val l).toNat)
  | _ => []

/-- The vector registers of an affine operand. -/
def Env.affRegs (e : Env) (a : Fin 8) : List Nat := (List.range 16).map (fun j => e.affBase a.val + j)

/-- The vector registers that an operand names through `v[ik]` in some lanes, whatever their guard. -/
def Env.indexed (e : Env) (r : Reg) (lanes : List Nat) : List Nat :=
  match r with
  | .vi k => lanes.map (fun l => (e.g.idxReg k.val l).toNat)
  | _ => []

/-- The scalar registers an operand touches. -/
def scalars (x : Reg × Nat) : List Nat :=
  match x.1 with
  | .s n => (List.range x.2).map (fun j => n.val + j)
  | _ => []

/-- Every vector register a word reads or writes, in the order met (R83). -/
def Form.allV (f : Form) (e : Env) : List Nat :=
  (f.dsts ++ f.srcs).flatMap e.vregs ++ f.also e ++ f.alsoD e ++ (f.affD ++ f.affS).flatMap e.affRegs
/-- The vector registers that a word writes, or will write with a pending result: none when no lane passes (R64). -/
def Form.written (f : Form) (e : Env) : List Nat :=
  if e.act = 0 then []
  else (f.dsts.flatMap e.vregs ++ f.alsoD e ++ f.affD.flatMap e.affRegs).filter (fun r => !(f.unwritten e).contains r)
/-- Every scalar register a word reads or writes. -/
def Form.allS (f : Form) : List Nat := (f.dsts ++ f.srcs).flatMap scalars

/-- The `TINFO` of unsettled-read: the field value of the first register met that is pending other than as a
transform-pipe destination, or that a firm gather has logged (R83, R225, log 18). -/
def Form.unsettled (f : Form) (e : Env) : Option Nat :=
  let bad := fun (k : Option PendKind) => match k with
    | some .transform => false
    | some _ => true
    | none => false
  match (f.allV e).find? (fun r => bad (e.g.pendV r) || e.g.logged r) with
  | some r => some r
  | none => (f.allS.find? (fun n => bad (e.g.pendS n))).map (fun n => 0xD0 + n)

/-- Whether a word must wait for the transform pipe (R84). -/
def Form.stalls (f : Form) (e : Env) : Bool := (f.allV e).any (fun r => e.g.pendV r == some .transform)

/-- The index-bound check of one operand in the passing lanes (R61, R120): lane and number of the first
failure. -/
def Env.badIndex (e : Env) (x : Reg × Nat) : Option (Nat × Nat) :=
  match x.1 with
  | .vi k => (e.lanes.map (fun l => (l, (e.g.idxReg k.val l).toNat))).find? (fun y =>
      decide (y.2 < e.g.winLo.toNat) || decide (e.g.winHi.toNat ≤ y.2) || decide (e.g.nregs ≤ y.2))
  | _ => none

/-- The order of R72 from the register fields on: a trap, a stall, or neither. Of several operands that fail the index-bound check in
the lowest failing lane, the first in field order is named, D first (log 18). -/
def Form.check (f : Form) (e : Env) : Except Trap Bool :=
  if !f.regsIn e then .error (trapOf Causes.reservedRegister)
  else match f.pre e with
    | some t => .error t
    | none =>
      if (e.pt.isX && !f.inX) || (!e.pt.isX && !f.inC) then
        .error { cause := Causes.phaseIllegal, info := BitVec.ofNat 64 (e.pt.phcnt.toNat % 2 ^ 32), lane := 0 }
      else if f.group && !e.g.converged then .error (trapOf Causes.groupDiverged)
      else if f.usesScalar && !e.g.converged then .error (trapOf Causes.scalarDiverged)
      else match f.unsettled e with
        | some n => .error { cause := Causes.unsettledRead, info := BitVec.ofNat 64 n, lane := 0 }
        | none =>
          match ((f.dsts ++ f.srcs).filterMap e.badIndex) with
          | x :: rest =>
            let y := rest.foldl (fun m z => if z.1 < m.1 then z else m) x
            .error { cause := Causes.indexBound, info := BitVec.ofNat 64 y.2, lane := y.1 }
          | [] => .ok (f.stalls e)

end Sys2Proof.Machine
end

