-- ==== Sys2Proof/Machine/Float.lean ====
section
/-! DEFINITION. Exact arithmetic and its rounding (R8, R150-R154, R157): fractions, the IEEE formats, the helper
`round_mode`, and the operations of row 0x3 on one lane's patterns. -/

namespace Sys2Proof.Machine

open Sys2Proof

/-! ## Exact fractions -/

/-- An exact rational: `num / den`, with `den` positive in every use. -/
structure Q where
  num : Int
  den : Nat
deriving DecidableEq, Repr

def Q.ofInt (n : Int) : Q := { num := n, den := 1 }
def Q.zero : Q := Q.ofInt 0
def Q.add (a b : Q) : Q := { num := a.num * b.den + b.num * a.den, den := a.den * b.den }
def Q.neg (a : Q) : Q := { a with num := -a.num }
def Q.sub (a b : Q) : Q := a.add b.neg
def Q.mul (a b : Q) : Q := { num := a.num * b.num, den := a.den * b.den }
def Q.abs (a : Q) : Q := { a with num := a.num.natAbs }
def Q.isZero (a : Q) : Bool := a.num == 0
def Q.isNeg (a : Q) : Bool := decide (a.num < 0)
def Q.le (a b : Q) : Bool := decide (a.num * b.den ≤ b.num * a.den)
def Q.lt (a b : Q) : Bool := decide (a.num * b.den < b.num * a.den)
def Q.eq (a b : Q) : Bool := a.num * b.den == b.num * a.den
/-- `1 / a` for a non-zero `a`. -/
def Q.inv (a : Q) : Q := { num := if a.num < 0 then -(a.den : Int) else a.den, den := a.num.natAbs }
def Q.div (a b : Q) : Q := a.mul b.inv
def Q.floor (a : Q) : Int := a.num / a.den
/-- `2 ^ e`. -/
def Q.pow2 (e : Int) : Q :=
  if 0 ≤ e then { num := 2 ^ e.toNat, den := 1 } else { num := 1, den := 2 ^ (-e).toNat }
/-- `a × 2 ^ e`. -/
def Q.scale (a : Q) (e : Int) : Q :=
  if 0 ≤ e then { a with num := a.num * 2 ^ e.toNat } else { a with den := a.den * 2 ^ (-e).toNat }
/-- Lowest terms, so that long sums stay small. -/
def Q.norm (a : Q) : Q :=
  let g := Nat.gcd a.num.natAbs a.den
  if g ≤ 1 then a else { num := a.num / g, den := a.den / g }
/-- The exponent of a non-zero value: the greatest `e` with `2 ^ e ≤ |a|`. -/
def Q.log2 (a : Q) : Int :=
  let e : Int := (Nat.log2 a.num.natAbs : Int) - (Nat.log2 a.den : Int)
  if (Q.pow2 e).le a.abs then e else e - 1

/-! ## Formats and modes -/

/-- A rounding direction. -/
inductive Rm where
  | rne | rz | rdn | rup
deriving DecidableEq, Repr

/-- An IEEE format (R150): precision with the hidden bit, and the exponents of the least normal and the
largest finite values. -/
structure Fmt where
  p : Nat
  ebits : Nat
deriving DecidableEq, Repr

def fp32 : Fmt := { p := 24, ebits := 8 }
def fp16 : Fmt := { p := 11, ebits := 5 }
def bf16 : Fmt := { p := 8, ebits := 8 }

def Fmt.bias (f : Fmt) : Nat := 2 ^ (f.ebits - 1) - 1
def Fmt.emin (f : Fmt) : Int := 1 - (f.bias : Int)
/-- The exponent of the least subnormal. -/
def Fmt.qmin (f : Fmt) : Int := f.emin - (f.p - 1 : Nat)
def Fmt.signBit (f : Fmt) : Nat := 2 ^ (f.p - 1 + f.ebits)
def Fmt.infCode (f : Fmt) : Nat := (2 ^ f.ebits - 1) * 2 ^ (f.p - 1)
def Fmt.maxCode (f : Fmt) : Nat := f.infCode - 1
def Fmt.nanCode (f : Fmt) : Nat := f.infCode + 2 ^ (f.p - 2)

/-- The format of an FP type. -/
def fpFmt : FpTy → Fmt
  | .f32 => fp32
  | .f16 => fp16
  | .bf16 => bf16
/-- The format of a 16-bit pair type. -/
def halfFmt : HalfTy → Fmt
  | .f16 => fp16
  | .bf16 => bf16

/-- What `FPCTL` and the instruction's modifier select (R151, R153). -/
structure FpMode where
  rm : Rm
  fzi : Bool
  fzr : Bool
  ovs : Bool
deriving DecidableEq, Repr

/-- Nearest even with no flush and no saturation, as the words that ignore `FPCTL` round. -/
def FpMode.plain : FpMode := { rm := .rne, fzi := false, fzr := false, ovs := false }

/-- The direction of `FPCTL`.RM (R151). -/
def rmOf (x : Nat) : Rm :=
  match x % 4 with
  | 0 => .rne
  | 1 => .rz
  | 2 => .rdn
  | _ => .rup

/-- The mode of an instruction under `FPCTL` (R153 step 1). -/
def fpMode (fpctl : Word) (r : Rnd) : FpMode where
  rm := match r with
    | .rctl => rmOf fpctl.toNat
    | .rne => .rne
    | .rz => .rz
    | .rdn => .rdn
    | .rup => .rup
  fzi := fpctl.getLsbD 2
  fzr := fpctl.getLsbD 3
  ovs := fpctl.getLsbD 4

/-! ## Flags (R152) -/

abbrev Flags := BitVec 6
abbrev flagNX : Flags := 1
abbrev flagUF : Flags := 2
abbrev flagOF : Flags := 4
abbrev flagDZ : Flags := 8
abbrev flagIV : Flags := 16
abbrev flagSAT : Flags := 32

/-- A result pattern with the flags it raises. -/
abbrev FpRes := Nat × Flags

/-! ## Values -/

/-- What a pattern stands for: a NaN (signalling or quiet), an infinity, or a signed magnitude. -/
inductive Fv where
  | nan (signalling : Bool)
  | inf (neg : Bool)
  | num (neg : Bool) (mag : Q)
deriving DecidableEq, Repr

/-- The value of a pattern (R150), a subnormal read as zero of its sign with `fzi` (R153 step 2). -/
def Fmt.value (f : Fmt) (fzi : Bool) (x : Nat) : Fv :=
  let neg := decide (f.signBit ≤ x % (2 * f.signBit))
  let m := x % f.signBit
  let frac := m % 2 ^ (f.p - 1)
  let ex := m / 2 ^ (f.p - 1)
  if ex = 2 ^ f.ebits - 1 then
    if frac = 0 then .inf neg else .nan (decide (frac < 2 ^ (f.p - 2)))
  else if ex = 0 then
    if fzi then .num neg Q.zero else .num neg ((Q.ofInt frac).scale f.qmin)
  else .num neg ((Q.ofInt (frac + 2 ^ (f.p - 1) : Nat)).scale (f.qmin + (ex - 1 : Nat)))

/-- A signed value. -/
def signed (neg : Bool) (q : Q) : Q := if neg then q.neg else q

/-- Rounding a non-negative fraction to an integer under a direction, for a value of sign `neg`. -/
def roundMag (rm : Rm) (neg : Bool) (q : Q) : Nat :=
  let n := (q.num / q.den).toNat
  let r := (q.num % q.den).toNat
  match rm with
  | .rz => n
  | .rdn => if neg && r != 0 then n + 1 else n
  | .rup => if !neg && r != 0 then n + 1 else n
  | .rne => if 2 * r < q.den then n else if q.den < 2 * r then n + 1 else n + n % 2

/-- A pattern of sign `neg`. -/
def Fmt.mk' (f : Fmt) (neg : Bool) (code : Nat) : Nat := if neg then f.signBit + code else code

/-- Rounding a non-zero magnitude to a code: significand at the quantum `2 ^ q`. The code of a result at or
past the infinity code has overflowed. -/
def Fmt.codeAt (f : Fmt) (rm : Rm) (neg : Bool) (mag : Q) (q : Int) : Nat × Bool :=
  let x := mag.scale (-q)
  let n := roundMag rm neg x
  ((q - f.qmin).toNat * 2 ^ (f.p - 1) + n, decide (x.num != n * x.den))

/-- `round_mode` of a non-zero value (R153 steps 3 to 5). -/
def Fmt.roundNz (f : Fmt) (m : FpMode) (neg : Bool) (mag : Q) : FpRes :=
  let e := mag.log2
  let qu := e - (f.p - 1 : Nat)
  let un := roundMag m.rm neg (mag.scale (-qu))
  -- tiny: the value rounded with an unbounded exponent lies below the least normal value
  let tiny := decide (e + (if un = 2 ^ f.p then 1 else 0) < f.emin)
  if tiny then
    if m.fzr then (f.mk' neg 0, flagUF ||| flagNX)
    else
      let c := f.codeAt m.rm neg mag f.qmin
      (f.mk' neg c.1, if c.2 then flagUF ||| flagNX else 0)
  else
    let c := f.codeAt m.rm neg mag (max qu f.qmin)
    if f.infCode ≤ c.1 then
      let toMax := m.ovs || (match m.rm with
        | .rne => false
        | .rz => true
        | .rdn => !neg
        | .rup => neg)
      (f.mk' neg (if toMax then f.maxCode else f.infCode), flagOF ||| flagNX)
    else (f.mk' neg c.1, if c.2 then flagNX else 0)

/-- `round_mode` of a value whose zero has the sign `zneg` (R153). -/
def Fmt.round (f : Fmt) (m : FpMode) (zneg : Bool) (x : Q) : FpRes :=
  if x.isZero then (f.mk' zneg 0, 0) else f.roundNz m x.isNeg x.abs

/-- The canonical NaN (R154). -/
def Fmt.nanRes (f : Fmt) (iv : Bool) : FpRes := (f.nanCode, if iv then flagIV else 0)

def Fv.isNan : Fv → Bool
  | .nan _ => true
  | _ => false
def Fv.isSnan : Fv → Bool
  | .nan b => b
  | _ => false
def Fv.negate : Fv → Fv
  | .nan b => .nan b
  | .inf n => .inf (!n)
  | .num n q => .num (!n) q

/-- A sum of two values (R153 step 6, R154). -/
def Fmt.addV (f : Fmt) (m : FpMode) (a b : Fv) : FpRes :=
  match a, b with
  | .nan x, _ => f.nanRes (x || b.isSnan)
  | _, .nan y => f.nanRes y
  | .inf x, .inf y => if x == y then (f.mk' x f.infCode, 0) else f.nanRes true
  | .inf x, .num _ _ => (f.mk' x f.infCode, 0)
  | .num _ _, .inf y => (f.mk' y f.infCode, 0)
  | .num x p, .num y q => f.round m (if x == y then x else m.rm == .rdn) ((signed x p).add (signed y q))

/-- A product of two values. -/
def Fmt.mulV (f : Fmt) (m : FpMode) (a b : Fv) : FpRes :=
  match a, b with
  | .nan x, _ => f.nanRes (x || b.isSnan)
  | _, .nan y => f.nanRes y
  | .inf x, .inf y => (f.mk' (x != y) f.infCode, 0)
  | .inf x, .num y q => if q.isZero then f.nanRes true else (f.mk' (x != y) f.infCode, 0)
  | .num x p, .inf y => if p.isZero then f.nanRes true else (f.mk' (x != y) f.infCode, 0)
  | .num x p, .num y q => f.round m (x != y) (signed (x != y) (p.mul q))

/-- The exact product as a value; `none` for 0 × ∞. -/
def mulExact (a b : Fv) : Option Fv :=
  match a, b with
  | .nan x, _ => some (.nan x)
  | _, .nan y => some (.nan y)
  | .inf x, .inf y => some (.inf (x != y))
  | .inf x, .num y q => if q.isZero then none else some (.inf (x != y))
  | .num x p, .inf y => if p.isZero then none else some (.inf (x != y))
  | .num x p, .num y q => some (.num (x != y) (p.mul q))

/-- The fused form (R157, R166): the product and sum exact, one rounding. -/
def Fmt.fmaV (f : Fmt) (m : FpMode) (np : Bool) (a b c : Fv) : FpRes :=
  if a.isNan || b.isNan || c.isNan then
    f.nanRes (a.isSnan || b.isSnan || c.isSnan || (mulExact a b).isNone)
  else
    match mulExact a b with
    | none => f.nanRes true
    | some p => f.addV m (if np then p.negate else p) c

/-- `fmin` and `fmax` (R167). The inputs are patterns; a flushed subnormal is returned as zero of its sign. -/
def Fmt.minMax (f : Fmt) (fzi max : Bool) (a b : Nat) : FpRes :=
  let va := f.value fzi a
  let vb := f.value fzi b
  let keep := fun (x : Nat) (v : Fv) => match v with
    | .num n q => if q.isZero then f.mk' n 0 else x
    | _ => x
  let iv : Flags := if va.isSnan || vb.isSnan then flagIV else 0
  let key := fun (v : Fv) => match v with
    | .inf n => (if n then Q.pow2 200 |>.neg else Q.pow2 200, n)
    | .num n q => (signed n q, n)
    | .nan _ => (Q.zero, false)
  match va.isNan, vb.isNan with
  | true, true => (f.nanCode, iv)
  | true, false => (keep b vb, iv)
  | false, true => (keep a va, iv)
  | false, false =>
    let x := key va
    let y := key vb
    let less := x.1.lt y.1 || (x.1.eq y.1 && x.2 && !y.2)
    let aLess := less || (x.1.eq y.1 && x.2 == y.2)
    (if aLess != max then keep a va else keep b vb, iv)

/-- The order of two values that are not NaN: less, equal. -/
def cmpV (a b : Fv) : Bool × Bool :=
  let key := fun (v : Fv) => match v with
    | .inf n => if n then (Q.pow2 200).neg else Q.pow2 200
    | .num n q => signed n q
    | .nan _ => Q.zero
  ((key a).lt (key b), (key a).eq (key b))

/-- `fcmp` (R168). -/
def fcmpV (cnd : FpCond) (a b : Fv) : Bool × Flags :=
  let un := a.isNan || b.isNan
  let sn : Flags := if a.isSnan || b.isSnan then flagIV else 0
  let c := cmpV a b
  match cnd with
  | .eq => (!un && c.2, sn)
  | .ne => (un || !c.2, sn)
  | .lt => (!un && c.1, if un then flagIV else 0)
  | .le => (!un && (c.1 || c.2), if un then flagIV else 0)
  | .gt => (!un && !(c.1 || c.2), if un then flagIV else 0)
  | .ge => (!un && !c.1, if un then flagIV else 0)
  | .un => (un, sn)
  | .num => (!un, sn)

/-- `fclass` (R169). -/
def fclassV (x : Nat) : Word :=
  match fp32.value false x with
  | .nan true => 0x1
  | .nan false => 0x2
  | .inf true => 0x4
  | .inf false => 0x200
  | .num n q =>
    if q.isZero then (if n then 0x20 else 0x40)
    else if q.lt (Q.pow2 (-126)) then (if n then 0x10 else 0x80)
    else (if n then 0x8 else 0x100)

/-- `frnd` (R170). -/
def frndV (m : FpMode) (x : Nat) : FpRes :=
  match fp32.value m.fzi x with
  | .nan b => fp32.nanRes b
  | .inf n => (fp32.mk' n fp32.infCode, 0)
  | .num n q =>
    let i := roundMag m.rm n q
    if i = 0 then (fp32.mk' n 0, 0) else ((fp32.roundNz FpMode.plain n (Q.ofInt i)).1, 0)

/-- Conversion between formats (R172). Widening is exact; narrowing past the largest finite value raises SAT
as well where OVS clamps it. A subnormal BF16 is a subnormal FP32, which FZR flushes as it does every tiny result of R153
(log 58). -/
def cvtV (m : FpMode) (src dst : Fmt) (x : Nat) : FpRes :=
  match src.value m.fzi x with
  | .nan b => dst.nanRes b
  | .inf n => (dst.mk' n dst.infCode, 0)
  | .num n q =>
    let r := dst.round m n (signed n q)
    if m.ovs && (r.2 &&& flagOF) != 0 then (r.1, r.2 ||| flagSAT) else r

/-- `f2i` (R173). -/
def f2iV (m : FpMode) (ft : Fmt) (ty : IntTy) (x : Nat) : FpRes :=
  let lo : Int := if ty = .s32 then -2147483648 else 0
  let hi : Int := if ty = .s32 then 2147483647 else 4294967295
  let out := fun (i : Int) => (BitVec.ofInt 32 i).toNat
  match ft.value m.fzi x with
  | .nan _ => (0, flagIV)
  | .inf n => (out (if n then lo else hi), flagIV ||| flagSAT)
  | .num n q =>
    let i : Int := if n then -(roundMag m.rm n q : Int) else roundMag m.rm n q
    if i < lo then (out lo, flagIV ||| flagSAT)
    else if hi < i then (out hi, flagIV ||| flagSAT)
    else (out i, if (Q.ofInt i).eq (signed n q) then 0 else flagNX)

/-- `i2f` (R174); an exact zero is +0. A sum past FP16's largest number that OVS clamps raises OF and NX as any overflow of R153
does, and not SAT (log 58). -/
def i2fV (m : FpMode) (ft : Fmt) (ty : IntTy) (x : Word) : FpRes :=
  let v : Int := if ty = .s32 then x.toInt else x.toNat
  ft.round m false (Q.ofInt v)

/-! ## Shared by later chapters -/

/-- `round_rne(x, f32)` (R8), with no flush; an exact zero is +0. -/
def rne32 (x : Q) : Word := BitVec.ofNat 32 (fp32.round FpMode.plain false x).1
/-- Rounding to FP32 toward +∞ or −∞. -/
def rup32 (x : Q) : Word := BitVec.ofNat 32 (fp32.round { FpMode.plain with rm := .rup } false x).1
def rdn32 (x : Q) : Word := BitVec.ofNat 32 (fp32.round { FpMode.plain with rm := .rdn } false x).1

/-- The exact value of a finite FP32 pattern; none for an infinity or a NaN. -/
def fin32 (x : Word) : Option Q :=
  match fp32.value false x.toNat with
  | .num n q => some (signed n q)
  | _ => none

/-- A 16-bit pattern widened to FP32, a NaN to the canonical NaN (R254, log 19). -/
def widen (src : Fmt) (x : Nat) : Word := BitVec.ofNat 32 (cvtV FpMode.plain src fp32 x).1

/-- `round_rne` of a non-negative rational to an integer (R158). -/
def rneInt (x : Q) : Nat := roundMag .rne false x

end Sys2Proof.Machine
end

