-- ==== Sys2Proof/Machine/Ops.lean ====
section
/-! DEFINITION. How a word executes: taking a trap and returning from one (R344, R345), the start of context
removal (R349), latch records (R64), and the order of R72. -/

namespace Sys2Proof.Machine

open Sys2Proof

/-! ## The end of a word that waits -/

/-- The latch record of a word, the registers it wrote leaving every record (R64), and the count of words since
latch service ended (R68). -/
def Group.latchWord (g : Group) (split : Nat) (rec : LatchWord) (written : List Nat) : Group :=
  { g with splits := (List.range g.splits.length).map (fun i =>
      (g.splits.getD i none).map (fun sp =>
        let sp := if i = split then { sp with latch := (rec :: sp.latch).take 2, since := min 2 (sp.since + 1) } else sp
        { sp with latch := sp.latch.map (fun w => w.filter (fun x => !written.contains x.1)) })) }

/-- A scalar destination takes a word; a constant one discards it (R61). -/
def Group.putS (g : Group) (d : Reg) (v : Word) : Group :=
  match d with
  | .s n => g.setScalar n.val v
  | _ => g

/-- The word in which a converged group waits completes: its split goes on at the next word. Latch service counted the word when
it issued, so a restore since then leaves the next two words its exemption (R68). -/
def Group.endWait (g : Group) : Group :=
  match (List.range 4).find? (fun i => (g.split i).isSome) with
  | some i => { (g.setPc i (nextPc (((g.split i).map (fun sp => sp.pc)).getD 0))) with wait := .ready }
  | none => { g with wait := .ready }

/-- The status of the last run (R265). -/
def Core.lsStatus (k : Core) : Word :=
  if k.lsRan then (if k.lsFault then 0x80000000 else 0) + BitVec.ofNat 32 (min 0x7FFFFFFF k.lsCount) else 0

/-- An empty status. -/
def TgStatus.zero : TgStatus := { fault := false, miss := false, refused := false, late := false, count := 0 }

/-- The status word of transfer groups (R314). -/
def statusWord (l : List TgStatus) : Word :=
  let flag := fun (b : Bool) (v : Word) => if b then v else 0
  flag (l.any (fun t => t.fault)) 0x80000000 ||| flag (l.any (fun t => t.miss)) 0x40000000 |||
    flag (l.any (fun t => t.refused)) 0x20000000 ||| flag (l.any (fun t => t.late)) 0x10000000 |||
    BitVec.ofNat 32 (min 0xFFFF (l.foldl (fun n t => n + t.count) 0))

/-- The statuses that an `xwait` reads: one group, or all eight (R314). -/
def Group.xstatus (g : Group) (tg : Option Nat) : List TgStatus :=
  ((tg.map (fun n => [n])).getD (List.range 8)).map (fun i => g.tg.getD i TgStatus.zero)

/-! ## Traps and removal -/

/-- The grids that descend from a grid (R89), by at most ten generations. -/
def descendants (gs : List Grid) : Nat → List Nat → List Nat
  | 0, ids => ids
  | n + 1, ids =>
    let kids := gs.filterMap (fun g =>
      match g.parent with
      | some p => if ids.contains p.1 && !ids.contains g.id then some g.id else none
      | none => none)
    if kids.isEmpty then ids else descendants gs n (ids ++ kids)

/-- A blocked group of a grid whose removal begins is released with an error status (R349 step 3). -/
def Group.failWait (k : Core) (g : Group) : Group :=
  match g.wait with
  | .ready | .settle | .results | .stalled => g
  | .chwait _ _ st => (g.setPred st allLanes 0).endWait
  | .lswait d => (g.putS d (k.lsStatus ||| 0x80000000)).endWait
  | .xwait tg d => (g.putS d (statusWord (g.xstatus tg) ||| 0x80000000)).endWait
  | .barw | .fence _ | .cpyw _ | .yield _ | .regrow _ | .mwait _ => g.endWait

/-- Starting a grid's removal (R349): from here on it issues nothing and no landing waits for it; its blocked groups are
released, and its children are removed in the same way. -/
def State.removeGrid (s : State) (id : Nat) (st : BitVec 8) (code : Cause) : State :=
  let ids := (descendants s.grids 10 [id]).filter (fun i => s.grids.any (fun g => g.id == i && g.phase != .removing))
  { s with
    cores := s.cores.map (fun k => { k with groups := k.groups.map (fun o => o.map (fun g =>
      if ids.contains g.grid then Group.failWait k g else g)) })
    grids := s.grids.map (fun g =>
      if ids.contains g.id && g.phase != .removing then
        { g with phase := .removing, remSaved := g.phase == .saved, remState := if g.id == id then st else 5,
                 remCode := if g.id == id then code else Causes.contextRemoved }
      else g) }

/-- A fatal fault of a grid (R336, R344, R347). -/
def State.fatal (s : State) (id : Nat) (code : Cause) : State := s.removeGrid id 4 code

/-- The group state that trap entry leaves (R344 steps 4 to 6). -/
def Group.enter (g : Group) (r : Raised) (handler : Word) : Group :=
  { g with
    frame := { splits := g.splits, trapping := r.split, helper := g.helper }
    tcause := r.cause
    tepc := r.tepc
    tinfo := r.info
    tlane := BitVec.ofNat 5 r.lane
    splits := [some { pc := handler, mask := g.live, stack := [], latch := [], since := 0 }, none, none, none]
    helper := 0
    atH := true
    raised := none
    wait := .ready }

/-- Taking a trap (R344): the raised trap of a group, once its pending results have returned (R85); the handler's address is read
as code is (R215, R320). With no
handler, or at H (R336), the grid is removed. The handler's PC is the low 32 bits of what the entry's dword exceeds CODE by, also for
an entry that is no address of CODE plus 32 bits, which R53 and R344 do not speak of: the model's choice (log 73). -/
def State.enterTrap (s : State) (c slot : Nat) : State :=
  match s.group c slot with
  | none => s
  | some g =>
    match g.raised with
    | none => s
    | some r =>
      if g.entryPending then s
      else if g.atH then
        (s.setGroup c slot { g with raised := none }).fatal g.grid Causes.trapInHandler
      else
        let gr := s.grid g.grid
        let cls := r.cause.toNat / 128
        if g.tvec = 0 then (s.setGroup c slot { g with raised := none }).fatal g.grid r.cause
        else
          let x := s.codeRead c gr.part ((g.tvec.toNat + 8 * cls) % 2 ^ 48)
          match x.2 with
          | none => (x.1.setGroup c slot { g with raised := none }).fatal g.grid Causes.codeFetch
          | some w =>
            if w.2 = 0xFFFFFFFFFFFFFFFF then (x.1.setGroup c slot { g with raised := none }).fatal g.grid r.cause
            else x.1.setGroup c slot (g.enter r ((w.2 - gr.lrec.code).setWidth 32))

/-- A trap raised by, or before, a word of split `split` at `tepc`: taken at once when nothing is pending. -/
def State.raiseTrap (s : State) (c slot split : Nat) (t : Trap) (tepc : Word) : State :=
  (s.modGroup c slot (fun g =>
    { g with raised := some { cause := t.cause, info := t.info, lane := t.lane, tepc := tepc, split := split },
             wait := .ready })).enterTrap c slot

/-- Returning from a handler (R345 steps 2 and 3). -/
def Group.return (g : Group) : Group :=
  let l := g.frame.splits.set g.frame.trapping
    ((g.frame.splits.getD g.frame.trapping none).map (fun sp => { sp with pc := g.tepc }))
  let gone := ~~~g.live
  ({ g with splits := l, helper := g.frame.helper, atH := false, live := allLanes }.exitLanes gone).clearLatch

/-- Making a trap due at a group's next issue (R341 "N"); a cause already due is not made due twice. -/
def Group.makeDue (g : Group) (d : DueTrap) : Group :=
  if g.due.any (fun x => x.cause == d.cause && x.info == d.info) then g else { g with due := g.due ++ [d] }

/-- A trap becomes due for the group in a slot. -/
def State.dueTrap (s : State) (c slot : Nat) (cause : Cause) (info : BitVec 64) : State :=
  s.modGroup c slot (fun g => g.makeDue { cause := cause, info := info, lane := 0 })

/-! ## Results in flight (R81) -/

/-- A result in flight of a group. -/
def Group.flight (g : Group) (id : Nat) : Option Inflight := g.inflight.find? (fun f => f.id == id)

/-- A result returns: its data is written, its flags are ORed into `FPFLG`, and its pending bits clear. Data of a firm gather for a
register number that a handler's `regshrink` has taken out of the allocation is dropped, and a number that it left names the register
that has it now: R117 and R226 name no outcome, and this is the model's choice (log 72). -/
def State.deliver (s : State) (c slot id : Nat) : State :=
  match (s.group c slot).bind (fun g => g.flight id) with
  | none => s
  | some f =>
    (s.writeV c slot (f.vdata.filter (fun x => ((s.group c slot).any (fun g => decide (x.1 < g.nregs)))))).modGroup c slot (fun g =>
      { (f.sdata.foldl (fun g x => g.setScalar x.1 x.2) g) with
        fpflg := g.fpflg ||| f.flags
        inflight := g.inflight.filter (fun x => x.id != id) })

/-- The data of a result in flight becomes known. -/
def State.fillFlight (s : State) (c slot id : Nat) (f : Inflight → Inflight) : State :=
  s.modGroup c slot (fun g => { g with inflight := g.inflight.map (fun x => if x.id == id then f x else x) })

/-! ## Due traps (R225, R342) -/

/-- The lowest lane that a logged gather has not finished. -/
def OpLog.lane (o : OpLog) : Nat := LaneMask.lowest (o.guard &&& ~~~o.pcm)
/-- `TINFO` of the firm-gather trap (R341). -/
def OpLog.info (o : OpLog) : BitVec 64 := (if o.dropped then 1#32 else 0#32) ++ o.pcm

/-- The firm-gather trap that is due: its first unfinished logged gather. -/
def Group.gatherTrap (g : Group) : Option (Nat × Trap) :=
  (g.logs.findIdx? (fun o => o.any (fun x => x.unfinished))).bind (fun n =>
    (g.logs.getD n none).map (fun x => (n, { cause := Causes.firmGather, info := x.info, lane := x.lane })))

/-- Taking a due firm-gather trap before a word (R225). -/
def State.takeGather (s : State) (c slot split : Nat) (tepc : Word) : State :=
  match (s.group c slot).bind Group.gatherTrap with
  | some x =>
    (s.modGroup c slot (fun g => { g with gatherLog := x.1, gatherDue := false })).raiseTrap c slot split x.2 tepc
  | none => s.modGroup c slot (fun g => { g with gatherDue := false })

/-- The due trap of the lowest code, and the others (R342). -/
def lowestDue : List DueTrap → Option (DueTrap × List DueTrap)
  | [] => none
  | d :: t =>
    match lowestDue t with
    | none => some (d, [])
    | some (x, r) => if x.cause.toNat < d.cause.toNat then some (x, d :: r) else some (d, t)

/-- The straggler trap is due: it takes a group out of its wait (R102). -/
def Group.stragglerDue (g : Group) : Bool := g.due.any (fun d => d.cause == Causes.straggler)

/-- Taking the due trap of the lowest code before a word (R342); the straggler trap marks the group (R102). -/
def State.takeDue (s : State) (c slot split : Nat) (tepc : Word) : State :=
  match (s.group c slot).bind (fun g => lowestDue g.due) with
  | some x =>
    (s.modGroup c slot (fun g => { g with due := x.2, strag := g.strag || x.1.cause == Causes.straggler })).raiseTrap c slot
      split { cause := x.1.cause, info := x.1.info, lane := x.1.lane } tepc
  | none => s

/-! ## Executing a word -/

/-- What a word's own effect leaves: the split goes on at the next word, the effect has set the program
counters, the word is not finished and stays, or it traps after an effect that R155 lets stand. -/
inductive Eff where
  | done (s : State)
  | jump (s : State)
  | hold (s : State)
  | trap (s : State) (t : Trap)

/-- The held registers with their values as the word reads them (R64): the value served, where its own read is latch-served, also
where the register has changed since with no word's write, which is the model's choice (log 64). -/
def Env.holds (e : Env) (held : List Nat) : LatchWord :=
  held.map (fun r => (r, (List.range 32).map (fun l => e.rdV r l)))

/-- Recording a finished word in the latch of its split. -/
def Env.latch (e : Env) (f : Form) (s : State) : State :=
  s.modGroup e.core e.slot (fun g =>
    g.latchWord e.split (e.holds f.held) (f.written e))

/-- The split goes on at the next word, and the group is ready again. -/
def Env.advance (e : Env) (s : State) : State :=
  s.modGroup e.core e.slot (fun g => { (g.setPc e.split (nextPc e.sp.pc)) with wait := .ready })

/-- A group waits at the word (R80). -/
def Env.waitFor (e : Env) (w : Wait) (s : State) : State := s.modGroup e.core e.slot (fun g => { g with wait := w })

/-- Whether a due firm-gather trap is taken before a word (R225). -/
def Form.meetsGather (f : Form) (e : Env) : Bool :=
  e.g.gatherDue && !e.g.atH && (f.g.settle || f.group || f.log || (f.allV e).any e.g.logged)

/-- A trap that is taken before a word while a firm gather's is due (R225, R342). -/
def Form.dueFirst (f : Form) (e : Env) (s : State) : Option State :=
  if f.meetsGather e then some (s.takeGather e.core e.slot e.split e.sp.pc)
  else if e.g.gatherDue && !e.g.atH && !e.g.due.isEmpty then some (s.takeDue e.core e.slot e.split e.sp.pc)
  else none

/-- A precise trap of a word, whose own effects that stand are in `s'`. A firm gather's trap that is due is handled first,
and the word issues again after it (R225, R342). -/
def Env.trapAt (e : Env) (s s' : State) (t : Trap) (tepc : Word) : State :=
  if e.g.gatherDue && !e.g.atH then s.takeGather e.core e.slot e.split e.sp.pc else s'.raiseTrap e.core e.slot e.split t tepc

/-- A word: the traps due before it, the settle wait, the checks of R72, then its own effect. -/
def runWord (f : Form) (body : Env → State → Except Trap Eff) (s : State) : Host.Outcome State Fault Refusal :=
  match s.env f.g.pg.val f.g.pn with
  | none => .fault .noIssuingGroup
  | some e =>
    match f.dueFirst e s with
    | some s' => .next s'
    | none =>
    if f.g.settle && e.g.anyPending then .next (e.waitFor .settle s)
    else match f.check e with
      | .error t => .next (e.trapAt s s t e.sp.pc)
      | .ok true => .next (e.waitFor .results s)
      | .ok false =>
        match body e s with
        | .error t => .next (e.trapAt s s t e.sp.pc)
        | .ok (.done s') => .next (e.advance (e.latch f s'))
        | .ok (.jump s') => .next s'
        | .ok (.hold s') => .next s'
        | .ok (.trap s' t) => .next (e.trapAt s s' t e.sp.pc)

/-- A word whose effect always finishes. -/
def runEff (f : Form) (eff : Env → State → State) (s : State) : Host.Outcome State Fault Refusal :=
  runWord f (fun e s => .ok (.done (eff e s))) s

/-- A group-level word (R105): with no passing lane it does nothing; otherwise it acts once. -/
def runGroup (f : Form) (body : Env → State → Except Trap Eff) (s : State) : Host.Outcome State Fault Refusal :=
  runWord { f with group := true } (fun e s => if e.act = 0 then .ok (.done s) else body e s) s

end Sys2Proof.Machine
end

