-- ==== Sys2Proof/Machine/Flags.lean ====
section
/-! DEFINITION. How the flags a word raises reach `FPFLG`, and the floating-point-exception trap (R152, R155). -/

namespace Sys2Proof.Machine

open Sys2Proof

/-- The trap enables of `FPCTL` (R151). -/
def trapEnables (fpctl : Word) : Flags := fpctl.extractLsb' 8 6

/-- Flags are ORed into `FPFLG`. -/
def Env.orFlags (e : Env) (fl : Flags) (s : State) : State := e.modG (fun g => { g with fpflg := g.fpflg ||| fl }) s

/-- The union of the flags of the lanes of a list. -/
def unionFlags (ls : List Nat) (f : Nat → Flags) : Flags := ls.foldl (fun x l => x ||| f l) 0

/-- A word that raised the flags `fl`, of which those in `may` can trap: the flags stand, and the word either
traps with nothing written or makes its writes (R155). The trap names no lane, so that its `TLANE` is 0: the model's reading
(log 18). -/
def Env.fpEnd (e : Env) (fl may : Flags) (write : State → State) (s : State) : Eff :=
  let s1 := e.orFlags fl s
  if fl &&& may &&& trapEnables e.g.fpctl != 0 then
    .trap s1 { cause := Causes.fpException, info := fl.setWidth 64, lane := 0 }
  else .done (write s1)

end Sys2Proof.Machine
end

