-- ==== Sys2Proof/Machine/Integer.lean ====
section
/-! DEFINITION. Rows 0x1 and 0x2: integer, index, predicate and lane instructions (spec/05_integer.md). -/

namespace Sys2Proof.Machine

open Sys2Proof

/-! ## Shapes -/

/-- The form of a word with a destination and up to three sources. -/
def aluForm (g : Guard) (h : Hold) (d : Reg) (a b c : Option Reg) : Form :=
  { Form.plain g with
    held := heldReg h a b c
    dsts := [(d, 1)]
    srcs := (a.toList ++ b.toList ++ c.toList).map (fun r => (r, 1)) }

/-- One source. -/
def alu1 (g : Guard) (h : Hold) (d a : Reg) (f : Word → Word) : State → Host.Outcome State Fault Refusal :=
  runEff (aluForm g h d (some a) none none) (fun e s => e.wr d (fun l => f (e.rd a l)) s)

/-- Two sources. -/
def alu2 (g : Guard) (h : Hold) (d a b : Reg) (f : Word → Word → Word) : State → Host.Outcome State Fault Refusal :=
  runEff (aluForm g h d (some a) (some b) none) (fun e s => e.wr d (fun l => f (e.rd a l) (e.rd b l)) s)

/-- Three sources. -/
def alu3 (g : Guard) (h : Hold) (d a b c : Reg) (f : Word → Word → Word → Word) :
    State → Host.Outcome State Fault Refusal :=
  runEff (aluForm g h d (some a) (some b) (some c))
    (fun e s => e.wr d (fun l => f (e.rd a l) (e.rd b l) (e.rd c l)) s)

/-- The immediate form: the immediate stands for B (R58). -/
def aluI (g : Guard) (d a : Reg) (imm : Word) (f : Word → Word → Word) : State → Host.Outcome State Fault Refusal :=
  alu1 g .none d a (fun x => f x imm)

/-! ## Arithmetic (R130-R134) -/

/-- A source under an integer type. -/
def intVal (ty : IntTy) (x : Word) : Int :=
  match ty with
  | .s32 => x.toInt
  | .n32 => x.toNat

/-- Clamping to an integer type's range. -/
def satTo (ty : IntTy) (t : Int) : Int :=
  match ty with
  | .s32 => max (-2147483648) (min 2147483647 t)
  | .n32 => max 0 (min 4294967295 t)

/-- The low 32 bits of an exact result, saturated first with SAT (R130). -/
def narrow (sat : Bool) (ty : IntTy) (t : Int) : Word := BitVec.ofInt 32 (if sat then satTo ty t else t)

def addVal (sat : Bool) (ty : IntTy) (a b : Word) : Word := narrow sat ty (intVal ty a + intVal ty b)
def subVal (sat : Bool) (ty : IntTy) (a b : Word) : Word := narrow sat ty (intVal ty a - intVal ty b)
def mulVal (sat : Bool) (ty : IntTy) (a b : Word) : Word := narrow sat ty (intVal ty a * intVal ty b)
def madVal (sat : Bool) (ty : IntTy) (a b c : Word) : Word := narrow sat ty (intVal ty a * intVal ty b + intVal ty c)
/-- The high word of the product. -/
def mulhVal (ty : IntTy) (a b : Word) : Word := BitVec.ofInt 32 (intVal ty a * intVal ty b / 4294967296)
def minVal (ty : IntTy) (a b : Word) : Word := if intVal ty a ≤ intVal ty b then a else b
def maxVal (ty : IntTy) (a b : Word) : Word := if intVal ty a ≤ intVal ty b then b else a
def absVal (sat : Bool) (a : Word) : Word := narrow sat .s32 (if a.toInt < 0 then -a.toInt else a.toInt)
def negVal (sat : Bool) (a : Word) : Word := narrow sat .s32 (-a.toInt)

/-- A comparison (R133). -/
def cmpVal (cnd : IntCond) (ty : IntTy) (a b : Word) : Bool :=
  match cnd with
  | .eq => a == b
  | .ne => a != b
  | .lt => decide (intVal ty a < intVal ty b)
  | .le => decide (intVal ty a ≤ intVal ty b)
  | .gt => decide (intVal ty a > intVal ty b)
  | .ge => decide (intVal ty a ≥ intVal ty b)

def leaVal (sh : Nat) (a b : Word) : Word := a + (b <<< sh)

/-! ## Shifts and bits (R136-R140) -/

def shlVal (a n : Word) : Word := if n.toNat < 32 then a <<< n.toNat else 0
def shrVal (a n : Word) : Word := if n.toNat < 32 then a >>> n.toNat else 0
def sarVal (a n : Word) : Word := a.sshiftRight (min n.toNat 32)
def rotVal (right : Bool) (a n : Word) : Word :=
  if right then a.rotateRight (n.toNat % 32) else a.rotateLeft (n.toNat % 32)
/-- The funnel shift of `high:low` (R137). -/
def fshVal (left : Bool) (hi lo n : Word) : Word :=
  let x : Dword := hi ++ lo
  let k := n.toNat % 64
  if left then (x <<< k).extractLsb' 32 32 else (x >>> k).extractLsb' 0 32

/-- Position and width of a bit field (R138). -/
def fieldOf (f : FieldDesc) (r : Word) : Nat × Nat :=
  match f with
  | .imm pos wm1 => (pos.toNat, wm1.toNat + 1)
  | .reg _ => ((r.extractLsb' 0 8).toNat, min 32 (r.extractLsb' 8 8).toNat)

/-- Extraction of a field, from A extended without end (R138). -/
def bfxVal (ty : IntTy) (a : Word) (pw : Nat × Nat) : Word :=
  if pw.2 = 0 then 0
  else
    let x := intVal ty a / 2 ^ pw.1 % 2 ^ pw.2
    match ty with
    | .n32 => BitVec.ofInt 32 x
    | .s32 => BitVec.ofInt 32 (if x ≥ 2 ^ (pw.2 - 1) then x - 2 ^ pw.2 else x)

/-- Insertion of a field (R138). -/
def bfiVal (a b : Word) (pw : Nat × Nat) : Word :=
  LaneMask.ofFn (fun j => if pw.1 ≤ j && decide (j < pw.1 + pw.2) then b.getLsbD (j - pw.1) else a.getLsbD j)

def popcVal (a : Word) : Word := BitVec.ofNat 32 ((List.range 32).countP (fun j => a.getLsbD j))
/-- The zero bits above the highest one bit; 32 for 0 (R139). -/
def clzVal (a : Word) : Word := BitVec.ofNat 32 (((List.range 32).find? (fun j => a.getLsbD (31 - j))).getD 32)
def brevVal (a : Word) : Word := LaneMask.ofFn (fun j => a.getLsbD (31 - j))

/-- One result byte of `prmt` (R140). -/
def prmtByte (pool : Dword) (ctl : Byte) : Byte :=
  let b : Byte := pool.extractLsb' (8 * (ctl.extractLsb' 0 3).toNat) 8
  match (ctl.extractLsb' 3 2).toNat with
  | 0 => b
  | 1 => b.reverse
  | 2 => if b.getLsbD 7 then 0xFF else 0
  | _ => 0

def prmtVal (a b c : Word) : Word :=
  let pool : Dword := b ++ a
  prmtByte pool (c.extractLsb' 24 8) ++ prmtByte pool (c.extractLsb' 16 8) ++ prmtByte pool (c.extractLsb' 8 8) ++
    prmtByte pool (c.extractLsb' 0 8)

/-! ## Row 0x1 (R127-R140) -/

def execMov (g : Guard) (h : Hold) (d a : Reg) (s : State) := alu1 g h d a (fun x => x) s
def execMovi (g : Guard) (d : Reg) (imm : BitVec 32) (s : State) :=
  runEff (aluForm g .none d none none none) (fun e s => e.wr d (fun _ => imm) s) s
def execIadd (g : Guard) (h : Hold) (d a b : Reg) (sat : Bool) (ty : IntTy) (s : State) := alu2 g h d a b (addVal sat ty) s
def execIaddImm (g : Guard) (d a : Reg) (imm : BitVec 32) (s : State) := aluI g d a imm (addVal false .s32) s
def execIsub (g : Guard) (h : Hold) (d a b : Reg) (sat : Bool) (ty : IntTy) (s : State) := alu2 g h d a b (subVal sat ty) s
def execIsubImm (g : Guard) (d a : Reg) (imm : BitVec 32) (s : State) := aluI g d a imm (subVal false .s32) s
def execImul (g : Guard) (h : Hold) (d a b : Reg) (sat : Bool) (ty : IntTy) (s : State) := alu2 g h d a b (mulVal sat ty) s
def execImulImm (g : Guard) (d a : Reg) (imm : BitVec 32) (s : State) := aluI g d a imm (mulVal false .s32) s
def execImulh (g : Guard) (h : Hold) (d a b : Reg) (ty : IntTy) (s : State) := alu2 g h d a b (mulhVal ty) s
def execImad (g : Guard) (h : Hold) (d a b c : Reg) (sat : Bool) (ty : IntTy) (s : State) :=
  alu3 g h d a b c (madVal sat ty) s

/-- Carry-in of the carry forms in a lane (R131). -/
def carryIn (e : Env) (ci : Option (Fin 8)) (l : Nat) : Int :=
  match ci with
  | some k => if (e.g.pred k.val).getLsbD l then 1 else 0
  | none => 0

/-- `iaddc` and `isubb` (R131): the exact sum or difference with the carry-in, and whether it left the range. -/
def runCarry (g : Guard) (h : Hold) (d a b : Reg) (ci : Option (Fin 8)) (co : Fin 8)
    (f : Int → Int → Int → Int) (out : Int → Bool) (s : State) : Host.Outcome State Fault Refusal :=
  runEff (aluForm g h d (some a) (some b) none) (fun e s =>
    let t := fun l => f (e.rd a l).toNat (e.rd b l).toNat (carryIn e ci l)
    e.wrP co.val (fun l => out (t l)) (e.wr d (fun l => BitVec.ofInt 32 (t l)) s)) s

def execIaddc (g : Guard) (h : Hold) (d a b : Reg) (ci : Option (Fin 8)) (co : Fin 8) (s : State) :=
  runCarry g h d a b ci co (fun x y c => x + y + c) (fun t => decide (4294967296 ≤ t)) s
def execIsubb (g : Guard) (h : Hold) (d a b : Reg) (ci : Option (Fin 8)) (co : Fin 8) (s : State) :=
  runCarry g h d a b ci co (fun x y c => x - y - c) (fun t => decide (t < 0)) s

def execImin (g : Guard) (h : Hold) (d a b : Reg) (ty : IntTy) (s : State) := alu2 g h d a b (minVal ty) s
def execIminImm (g : Guard) (d a : Reg) (imm : BitVec 32) (s : State) := aluI g d a imm (minVal .s32) s
def execImax (g : Guard) (h : Hold) (d a b : Reg) (ty : IntTy) (s : State) := alu2 g h d a b (maxVal ty) s
def execImaxImm (g : Guard) (d a : Reg) (imm : BitVec 32) (s : State) := aluI g d a imm (maxVal .s32) s
def execIabs (g : Guard) (h : Hold) (d a : Reg) (sat : Bool) (s : State) := alu1 g h d a (absVal sat) s
def execIneg (g : Guard) (h : Hold) (d a : Reg) (sat : Bool) (s : State) := alu1 g h d a (negVal sat) s

/-- `icmp` (R133). -/
def execIcmp (g : Guard) (h : Hold) (p : Fin 8) (a b : Reg) (cnd : IntCond) (ty : IntTy) (s : State) :=
  runEff { aluForm g h a (some a) (some b) none with dsts := [] }
    (fun e s => e.wrP p.val (fun l => cmpVal cnd ty (e.rd a l) (e.rd b l)) s) s

/-- `isel` (R133). -/
def execIsel (g : Guard) (h : Hold) (d a b : Reg) (p : Fin 8) (s : State) :=
  runEff (aluForm g h d (some a) (some b) none)
    (fun e s => e.wr d (fun l => if (e.g.pred p.val).getLsbD l then e.rd a l else e.rd b l) s) s

def execLea (g : Guard) (h : Hold) (d a b : Reg) (sh : BitVec 5) (s : State) := alu2 g h d a b (leaVal sh.toNat) s
def execAnd (g : Guard) (h : Hold) (d a b : Reg) (s : State) := alu2 g h d a b (fun x y => x &&& y) s
def execAndImm (g : Guard) (d a : Reg) (imm : BitVec 32) (s : State) := aluI g d a imm (fun x y => x &&& y) s
def execOr (g : Guard) (h : Hold) (d a b : Reg) (s : State) := alu2 g h d a b (fun x y => x ||| y) s
def execOrImm (g : Guard) (d a : Reg) (imm : BitVec 32) (s : State) := aluI g d a imm (fun x y => x ||| y) s
def execXor (g : Guard) (h : Hold) (d a b : Reg) (s : State) := alu2 g h d a b (fun x y => x ^^^ y) s
def execXorImm (g : Guard) (d a : Reg) (imm : BitVec 32) (s : State) := aluI g d a imm (fun x y => x ^^^ y) s
def execNot (g : Guard) (h : Hold) (d a : Reg) (s : State) := alu1 g h d a (fun x => ~~~x) s
def execAndn (g : Guard) (h : Hold) (d a b : Reg) (s : State) := alu2 g h d a b (fun x y => x &&& ~~~y) s
def execAndnImm (g : Guard) (d a : Reg) (imm : BitVec 32) (s : State) := aluI g d a imm (fun x y => x &&& ~~~y) s
def execShl (g : Guard) (h : Hold) (d a b : Reg) (s : State) := alu2 g h d a b shlVal s
def execShlImm (g : Guard) (d a : Reg) (imm : BitVec 32) (s : State) := aluI g d a imm shlVal s
def execShr (g : Guard) (h : Hold) (d a b : Reg) (s : State) := alu2 g h d a b shrVal s
def execShrImm (g : Guard) (d a : Reg) (imm : BitVec 32) (s : State) := aluI g d a imm shrVal s
def execSar (g : Guard) (h : Hold) (d a b : Reg) (s : State) := alu2 g h d a b sarVal s
def execSarImm (g : Guard) (d a : Reg) (imm : BitVec 32) (s : State) := aluI g d a imm sarVal s
def execRot (g : Guard) (h : Hold) (d a b : Reg) (right : Bool) (s : State) := alu2 g h d a b (rotVal right) s
def execRotImm (g : Guard) (d a : Reg) (imm : BitVec 32) (s : State) := aluI g d a imm (rotVal false) s
def execFsh (g : Guard) (h : Hold) (d a b c : Reg) (left : Bool) (s : State) := alu3 g h d a b c (fshVal left) s

/-- `bfx` (R138). -/
def execBfx (g : Guard) (h : Hold) (d a : Reg) (f : FieldDesc) (ty : IntTy) (s : State) :=
  match f with
  | .imm _ _ => alu1 g h d a (fun x => bfxVal ty x (fieldOf f 0)) s
  | .reg r => alu2 g h d a r (fun x y => bfxVal ty x (fieldOf f y)) s

/-- `bfi` (R138). -/
def execBfi (g : Guard) (h : Hold) (d a b : Reg) (f : FieldDesc) (s : State) :=
  match f with
  | .imm _ _ => alu2 g h d a b (fun x y => bfiVal x y (fieldOf f 0)) s
  | .reg r => alu3 g h d a b r (fun x y z => bfiVal x y (fieldOf f z)) s

def execPopc (g : Guard) (h : Hold) (d a : Reg) (s : State) := alu1 g h d a popcVal s
def execClz (g : Guard) (h : Hold) (d a : Reg) (s : State) := alu1 g h d a clzVal s
def execBrev (g : Guard) (h : Hold) (d a : Reg) (s : State) := alu1 g h d a brevVal s
def execPrmt (g : Guard) (h : Hold) (d a b c : Reg) (s : State) := alu3 g h d a b c prmtVal s

/-! ## Row 0x2 (R141-R149) -/

/-- Writing an index register in the passing lanes (R142). -/
def Env.wrI (e : Env) (i : Fin 8) (f : Nat → Word) (s : State) : State :=
  s.modGroup e.core e.slot (fun g => g.setIdx i.val e.act f)

def execIxset (g : Guard) (h : Hold) (i : Fin 8) (a : Reg) (s : State) :=
  runEff { Form.plain g with held := heldReg h (some a) none none, srcs := [(a, 1)], idxs := [i] }
    (fun e s => e.wrI i (e.rd a) s) s
def execIxsetImm (g : Guard) (i : Fin 8) (imm : BitVec 32) (s : State) :=
  runEff { Form.plain g with idxs := [i] } (fun e s => e.wrI i (fun _ => imm) s) s
def execIxsetGet (g : Guard) (d : Reg) (i : Fin 8) (s : State) :=
  runEff { Form.plain g with dsts := [(d, 1)], idxs := [i] } (fun e s => e.wr d (e.g.idxReg i.val) s) s
def execIxadd (g : Guard) (h : Hold) (i j : Fin 8) (b : Reg) (s : State) :=
  runEff { Form.plain g with held := heldReg h none (some b) none, srcs := [(b, 1)], idxs := [i, j] }
    (fun e s => e.wrI i (fun l => e.g.idxReg j.val l + e.rd b l) s) s
def execIxaddImm (g : Guard) (i j : Fin 8) (imm : BitVec 32) (s : State) :=
  runEff { Form.plain g with idxs := [i, j] } (fun e s => e.wrI i (fun l => e.g.idxReg j.val l + imm) s) s

/-- `ixbnd` (R143); its index-bound trap names no register (log 18). -/
def execIxbnd (g : Guard) (a b : Reg) (s : State) :=
  runGroup { Form.plain g with srcs := [(a, 1), (b, 1)] }
    (fun e s =>
      if (e.sc b).toNat ≤ (e.sc a).toNat || e.g.nregs < (e.sc b).toNat then .error (trapOf Causes.indexBound)
      else .ok (.done (e.modG (fun g => { g with winLo := e.sc a, winHi := e.sc b }) s))) s

/-- `pset` (R144). -/
def execPset (g : Guard) (p a b : Fin 8) (tt : BitVec 4) (s : State) :=
  runEff (Form.plain g) (fun e s => e.wrP p.val (fun l =>
    tt.getLsbD (2 * ((e.g.pred a.val).getLsbD l).toNat + ((e.g.pred b.val).getLsbD l).toNat)) s) s

/-- The predicates of a lane as a byte (R145). -/
def Env.predByte (e : Env) (l : Nat) : Word := LaneMask.ofFn (fun k => decide (k < 8) && (e.g.pred k).getLsbD l)

/-- `pmov` (R145). -/
def execPmov (g : Guard) (h : Hold) (f : PmovForm) (s : State) :=
  match f with
  | .tov d p => runEff { Form.plain g with dsts := [(d, 1)] }
      (fun e s => e.wr d (fun l => if (e.g.pred p.val).getLsbD l then 1 else 0) s) s
  | .fromv p a => runEff { Form.plain g with held := heldReg h (some a) none none, srcs := [(a, 1)] }
      (fun e s => e.wrP p.val (fun l => e.rd a l != 0) s) s
  | .pack d => runEff { Form.plain g with dsts := [(d, 1)] } (fun e s => e.wr d e.predByte s) s
  | .unpack a => runEff { Form.plain g with held := heldReg h (some a) none none, srcs := [(a, 1)] }
      (fun e s => (List.range 8).foldl (fun s k => e.wrP k (fun l => (e.rd a l).getLsbD k) s) s) s

/-- The source lane of `shfl` and `shflx` (R146). -/
def shflSrc (mask : LaneMask) (w : Nat) (mode : ShflMode) (l : Nat) (b : Word) : Nat :=
  let base := l - l % w
  let src : Int := match mode with
    | .idx => (base + b.toNat % w : Nat)
    | .up => (l : Int) - b.toNat
    | .down => (l : Int) + b.toNat
    | .xor => (l ^^^ (b.toNat % w) : Nat)
  if src < base || (base + w : Nat) ≤ src || !mask.getLsbD src.toNat then l else src.toNat

/-- The form of a word that reads A in lanes other than its own: `srcs` are the lanes it reads. -/
def shflForm (g : Guard) (h : Hold) (d a b : Reg) (srcs : Env → List Nat) : Form :=
  { aluForm g h d (some a) (some b) none with
    also := fun e => e.indexed a (srcs e) }

/-- The source lane of a lane of `shfl` or `shflx`, by its B. -/
def Env.shflLane (e : Env) (wid : Fin 5) (mode : ShflMode) (b : Nat → Word) (l : Nat) : Nat :=
  shflSrc e.sp.mask (32 / 2 ^ wid.val) mode l (b l)

def execShfl (g : Guard) (h : Hold) (d a b : Reg) (wid : Fin 5) (mode : ShflMode) (s : State) :=
  let src := fun (e : Env) => e.shflLane wid mode (fun _ => e.sc b)
  runEff (shflForm g h d a b (fun e => e.lanes.map (src e))) (fun e s => e.wr d (fun l => e.rd a (src e l)) s) s
def execShflx (g : Guard) (h : Hold) (d a b : Reg) (wid : Fin 5) (mode : ShflMode) (s : State) :=
  let src := fun (e : Env) => e.shflLane wid mode (fun l => e.rd b l)
  runEff (shflForm g h d a b (fun e => e.lanes.map (src e))) (fun e s => e.wr d (fun l => e.rd a (src e l)) s) s

/-- The lane that `bcast` reads. -/
def Env.bcastLane (e : Env) (b : Reg) : Nat := (e.sc b).toNat % 32

/-- `bcast` (R147). -/
def execBcast (g : Guard) (h : Hold) (d a b : Reg) (s : State) :=
  runEff (shflForm g h d a b (fun e => [e.bcastLane b])) (fun e s => e.wr d (fun _ => e.rd a (e.bcastLane b)) s) s

/-- The voters and their true votes (R148). -/
def Env.voters (e : Env) : LaneMask := e.act &&& ~~~e.g.helper
def Env.votes (e : Env) (p : Fin 8) : LaneMask := e.voters &&& e.g.pred p.val

/-- `vote` (R148). -/
def execVote (g : Guard) (f : VoteForm) (p : Fin 8) (s : State) :=
  match f with
  | .ballot d => runEff { Form.plain g with dsts := [(d, 1)] } (fun e s => e.wr d (fun _ => e.votes p) s) s
  | .cnt d => runEff { Form.plain g with dsts := [(d, 1)] } (fun e s => e.wr d (fun _ => popcVal (e.votes p)) s) s
  | .any q => runEff (Form.plain g) (fun e s => e.wrP q.val (fun _ => e.votes p != 0) s) s
  | .all q => runEff (Form.plain g) (fun e s => e.wrP q.val (fun _ => e.votes p == e.voters) s) s
  | .eq q => runEff (Form.plain g) (fun e s => e.wrP q.val (fun _ => e.votes p == e.voters || e.votes p == 0) s) s

/-- The special values (R149). -/
def Env.special (e : Env) (sel : SpecialVal) (l : Nat) : Word :=
  match sel with
  | .lane => BitVec.ofNat 32 l
  | .group => BitVec.ofNat 32 e.g.index
  | .team => BitVec.ofNat 32 e.t.num
  | .core => BitVec.ofNat 32 e.core
  | .cluster => BitVec.ofNat 32 (e.core / 8)
  | .pos => BitVec.ofNat 32 (e.core % 8)
  | .phase => if e.pt.isX then 1 else 0
  | .splits => BitVec.ofNat 32 e.g.splitList.length
  | .depth => BitVec.ofNat 32 e.gr.depth
  | .grpsz => BitVec.ofNat 32 e.gr.lrec.gpt
  | .nteams => BitVec.ofNat 32 e.gr.lrec.teams
  | .sched => BitVec.ofNat 32 (e.slot / 4)
  | .helper => if e.g.helper.getLsbD l then 1 else 0
  | .xgrp => if e.g.xgrp then 1 else 0
  | .spbase => BitVec.ofNat 32 e.t.spb

def execRdsp (g : Guard) (d : Reg) (sel : SpecialVal) (s : State) :=
  runEff { Form.plain g with dsts := [(d, 1)] } (fun e s => e.wr d (e.special sel) s) s

end Sys2Proof.Machine
end

