-- ==== Sys2Proof/Machine/FloatOps.lean ====
section
/-! DEFINITION. Row 0x3 but for the K family: floating point and conversion (R164-R174). -/

namespace Sys2Proof.Machine

open Sys2Proof

/-- Row 0x3 is illegal in X-phases (R164). -/
def fpForm (g : Guard) (h : Hold) (d : Reg) (a b c : Option Reg) : Form :=
  { aluForm g h d a b c with inX := false }

/-- A word whose lanes each give a pattern and flags. -/
def runFp (f : Form) (d : Reg) (res : Env → Nat → FpRes) (s : State) : Host.Outcome State Fault Refusal :=
  runWord f (fun e s =>
    .ok (e.fpEnd (unionFlags e.lanes (fun l => (res e l).2)) 0x3F
      (e.wr d (fun l => BitVec.ofNat 32 (res e l).1)) s)) s

/-- An FP32 operand of a lane as a value, subnormals flushed with FZI. -/
def Env.fin (e : Env) (m : FpMode) (r : Reg) (l : Nat) : Fv := fp32.value m.fzi (e.rd r l).toNat

/-- A two-source FP32 word. -/
def fp2 (g : Guard) (h : Hold) (d a b : Reg) (rnd : Rnd) (op : FpMode → Fv → Fv → FpRes) (s : State) :=
  runFp (fpForm g h d (some a) (some b) none) d
    (fun e l => let m := fpMode e.g.fpctl rnd; op m (e.fin m a l) (e.fin m b l)) s

/-- The immediate form: B is the FP32 immediate, with `.rctl` (R58). -/
def fpI (g : Guard) (d a : Reg) (imm : Word) (op : FpMode → Fv → Fv → FpRes) (s : State) :=
  runFp (fpForm g .none d (some a) none none) d
    (fun e l => let m := fpMode e.g.fpctl .rctl; op m (e.fin m a l) (fp32.value m.fzi imm.toNat)) s

def faddOp (m : FpMode) (a b : Fv) : FpRes := fp32.addV m a b
def fsubOp (m : FpMode) (a b : Fv) : FpRes := fp32.addV m a b.negate
def fmulOp (m : FpMode) (a b : Fv) : FpRes := fp32.mulV m a b

def execFadd (g : Guard) (h : Hold) (d a b : Reg) (rnd : Rnd) (s : State) := fp2 g h d a b rnd faddOp s
def execFaddImm (g : Guard) (d a : Reg) (imm : BitVec 32) (s : State) := fpI g d a imm faddOp s
def execFsub (g : Guard) (h : Hold) (d a b : Reg) (rnd : Rnd) (s : State) := fp2 g h d a b rnd fsubOp s
def execFsubImm (g : Guard) (d a : Reg) (imm : BitVec 32) (s : State) := fpI g d a imm fsubOp s
def execFmul (g : Guard) (h : Hold) (d a b : Reg) (rnd : Rnd) (s : State) := fp2 g h d a b rnd fmulOp s
def execFmulImm (g : Guard) (d a : Reg) (imm : BitVec 32) (s : State) := fpI g d a imm fmulOp s

/-- `ffma` (R166). -/
def execFfma (g : Guard) (h : Hold) (d a b c : Reg) (np nc : Bool) (rnd : Rnd) (s : State) :=
  runFp (fpForm g h d (some a) (some b) (some c)) d
    (fun e l =>
      let m := fpMode e.g.fpctl rnd
      let z := e.fin m c l
      fp32.fmaV m np (e.fin m a l) (e.fin m b l) (if nc then z.negate else z)) s

/-- `fmin` and `fmax` (R167). -/
def fpMinMax (g : Guard) (h : Hold) (d a b : Reg) (max : Bool) (s : State) :=
  runFp (fpForm g h d (some a) (some b) none) d
    (fun e l => fp32.minMax (e.g.fpctl.getLsbD 2) max (e.rd a l).toNat (e.rd b l).toNat) s
def fpMinMaxI (g : Guard) (d a : Reg) (imm : Word) (max : Bool) (s : State) :=
  runFp (fpForm g .none d (some a) none none) d
    (fun e l => fp32.minMax (e.g.fpctl.getLsbD 2) max (e.rd a l).toNat imm.toNat) s

def execFmin (g : Guard) (h : Hold) (d a b : Reg) (s : State) := fpMinMax g h d a b false s
def execFminImm (g : Guard) (d a : Reg) (imm : BitVec 32) (s : State) := fpMinMaxI g d a imm false s
def execFmax (g : Guard) (h : Hold) (d a b : Reg) (s : State) := fpMinMax g h d a b true s
def execFmaxImm (g : Guard) (d a : Reg) (imm : BitVec 32) (s : State) := fpMinMaxI g d a imm true s

/-- `fcmp` (R168). -/
def execFcmp (g : Guard) (h : Hold) (p : Fin 8) (a b : Reg) (cnd : FpCond) (s : State) :=
  runWord { fpForm g h a (some a) (some b) none with dsts := [] } (fun e s =>
    let m := fpMode e.g.fpctl .rctl
    let r := fun l => fcmpV cnd (e.fin m a l) (e.fin m b l)
    .ok (e.fpEnd (unionFlags e.lanes (fun l => (r l).2)) 0x3F (e.wrP p.val (fun l => (r l).1)) s)) s

/-- `fclass` (R169). -/
def execFclass (g : Guard) (h : Hold) (d a : Reg) (s : State) :=
  runEff (fpForm g h d (some a) none none) (fun e s => e.wr d (fun l => fclassV (e.rd a l).toNat) s) s

/-- `frnd` (R170). -/
def execFrnd (g : Guard) (h : Hold) (d a : Reg) (rnd : Rnd) (s : State) :=
  runFp (fpForm g h d (some a) none none) d (fun e l => frndV (fpMode e.g.fpctl rnd) (e.rd a l).toNat) s

/-! ## 16-bit pairs (R171) -/

/-- Half `hi` of a word. -/
def halfOf (hi : Bool) (x : Word) : Nat := (if hi then x.extractLsb' 16 16 else x.extractLsb' 0 16).toNat

/-- Two half results joined, their flags ORed. -/
def joinHalves (lo hi : FpRes) : FpRes := (hi.1 * 65536 + lo.1, lo.2 ||| hi.2)

/-- A two-source 16-bit operation on both halves. -/
def half2 (ty : HalfTy) (m : FpMode) (op : Fmt → FpMode → Fv → Fv → FpRes) (a b : Word) : FpRes :=
  let f := halfFmt ty
  let r := fun hi => op f m (f.value m.fzi (halfOf hi a)) (f.value m.fzi (halfOf hi b))
  joinHalves (r false) (r true)

def execHadd2 (g : Guard) (h : Hold) (d a b : Reg) (ty : HalfTy) (rnd : Rnd) (s : State) :=
  runFp (fpForm g h d (some a) (some b) none) d
    (fun e l => half2 ty (fpMode e.g.fpctl rnd) Fmt.addV (e.rd a l) (e.rd b l)) s
def execHadd2Imm (g : Guard) (d a : Reg) (imm : BitVec 32) (s : State) :=
  runFp (fpForm g .none d (some a) none none) d
    (fun e l => half2 .f16 (fpMode e.g.fpctl .rctl) Fmt.addV (e.rd a l) imm) s
def execHmul2 (g : Guard) (h : Hold) (d a b : Reg) (ty : HalfTy) (rnd : Rnd) (s : State) :=
  runFp (fpForm g h d (some a) (some b) none) d
    (fun e l => half2 ty (fpMode e.g.fpctl rnd) Fmt.mulV (e.rd a l) (e.rd b l)) s
def execHmul2Imm (g : Guard) (d a : Reg) (imm : BitVec 32) (s : State) :=
  runFp (fpForm g .none d (some a) none none) d
    (fun e l => half2 .f16 (fpMode e.g.fpctl .rctl) Fmt.mulV (e.rd a l) imm) s

/-- `hfma2` (R171). -/
def execHfma2 (g : Guard) (h : Hold) (d a b c : Reg) (ty : HalfTy) (rnd : Rnd) (s : State) :=
  runFp (fpForm g h d (some a) (some b) (some c)) d
    (fun e l =>
      let m := fpMode e.g.fpctl rnd
      let f := halfFmt ty
      let v := fun hi r => f.value m.fzi (halfOf hi (e.rd r l))
      joinHalves (f.fmaV m false (v false a) (v false b) (v false c)) (f.fmaV m false (v true a) (v true b) (v true c))) s

/-! ## Conversions (R172-R174) -/

/-- The pattern that a source code of `cvt` reads (R172). -/
def cvtIn (st : CvtSrc) (x : Word) : Nat :=
  match st with
  | .f32 => x.toNat
  | .f16 | .bf16 => halfOf false x
  | .f16h | .bf16h => halfOf true x

def execCvt (g : Guard) (h : Hold) (d a : Reg) (f : CvtForm) (rnd : Rnd) (s : State) :=
  match f with
  | .one st dt =>
    runFp (fpForm g h d (some a) none none) d
      (fun e l => cvtV (fpMode e.g.fpctl rnd) (fpFmt (CvtSrc.fmt st)) (fpFmt dt) (cvtIn st (e.rd a l))) s
  | .two dt b =>
    runFp (fpForm g h d (some a) (some b) none) d
      (fun e l =>
        let m := fpMode e.g.fpctl rnd
        joinHalves (cvtV m fp32 (halfFmt dt) (e.rd a l).toNat) (cvtV m fp32 (halfFmt dt) (e.rd b l).toNat)) s

/-- The pattern of a float source of `f2i` (R173). -/
def floatIn (ft : FpTy) (x : Word) : Nat := if ft = .f32 then x.toNat else halfOf false x

def execF2i (g : Guard) (h : Hold) (d a : Reg) (ft : FpTy) (ty : IntTy) (rnd : Rnd) (s : State) :=
  runFp (fpForm g h d (some a) none none) d
    (fun e l => f2iV (fpMode e.g.fpctl rnd) (fpFmt ft) ty (floatIn ft (e.rd a l))) s
def execI2f (g : Guard) (h : Hold) (d a : Reg) (ft : FpTy) (ty : IntTy) (rnd : Rnd) (s : State) :=
  runFp (fpForm g h d (some a) none none) d
    (fun e l => i2fV (fpMode e.g.fpctl rnd) (fpFmt ft) ty (e.rd a l)) s

end Sys2Proof.Machine
end

