-- ==== Sys2Proof/Machine/Transform.lean ====
section
/-! DEFINITION. Row 0x4, the transform pipe (R180-R182). A function's exact value is held between two close
fractions; where both round alike, that is the result (log 10). -/

namespace Sys2Proof.Machine

open Sys2Proof

/-! ## Integer square roots -/

/-- The greatest `r` with `r * r ≤ n`, by bits from the highest. -/
def isqrt (n : Nat) : Nat :=
  (List.range (Nat.log2 n / 2 + 1)).foldr (fun i r => if (r + 2 ^ i) * (r + 2 ^ i) ≤ n then r + 2 ^ i else r) 0

/-- A fraction that rounds as the square root of `n / 4 ^ k` does in every format of at most 40 bits, for `n` at
least `4 ^ 45`: the root, or the midpoint above its integer part when it is not exact. -/
def rootProxy (n k : Nat) : Q :=
  let r := isqrt n
  if r * r = n then { num := r, den := 2 ^ k } else { num := 2 * r + 1, den := 2 ^ (k + 1) }

/-- The square root of a positive fraction with a power of two as denominator, or of its inverse. -/
def sqrtProxy (x : Q) : Q := rootProxy (x.num.toNat * 4 ^ 400 / x.den) 400

/-- Whether a positive fraction is a power of four. -/
def isPow4 (x : Q) : Bool := x.eq (Q.pow2 x.log2) && x.log2 % 2 == 0

/-- `1 / √x`: exact for a power of four, else a midpoint. -/
def rsqrtProxy (x : Q) : Q :=
  if isPow4 x then Q.pow2 (-(x.log2 / 2))
  else { num := 2 * isqrt (x.den * 4 ^ 400 / x.num.toNat) + 1, den := 2 ^ 401 }

/-! ## Series in fixed point: an `Int` `n` stands for `n / 2 ^ 256` -/

abbrev fxBits : Nat := 256
/-- One. -/
def fxOne : Int := 2 ^ fxBits
/-- A product. -/
def fxMul (a b : Int) : Int := a * b / 2 ^ fxBits

/-- `Σ (±1)^k z^(2k+1)/(2k+1)`, the series of atanh (`alt` false) and atan (`alt` true) at `1/n`, scaled by
`2 ^ bits`. -/
def atanInv (alt : Bool) (bits n : Nat) : Int :=
  ((List.range bits).foldl (fun (a : Int × Int) k =>
    let t := a.2 / (2 * k + 1 : Nat)
    (if alt && k % 2 == 1 then a.1 - t else a.1 + t, a.2 / (n * n : Nat))) (0, (2 : Int) ^ bits / (n : Nat))).1

/-- `ln 2`. -/
def fxLn2 : Int := 2 * atanInv false fxBits 3
/-- `π × 2 ^ 448`, by Machin's formula. -/
def fxPi : Int := 16 * atanInv true 448 5 - 4 * atanInv true 448 239

/-- `e ^ t` for `|t| ≤ 1`. -/
def fxExp (t : Int) : Int :=
  ((List.range 80).foldl (fun (a : Int × Int) k =>
    let u := fxMul a.2 t / (k + 1 : Nat)
    (a.1 + u, u)) (fxOne, fxOne)).1

/-- `ln m` for a fixed-point `m` in `[1, 2)`. -/
def fxLn (m : Int) : Int :=
  let z := (m - fxOne) * fxOne / (m + fxOne)
  let z2 := fxMul z z
  2 * ((List.range 100).foldl (fun (a : Int × Int) k => (a.1 + a.2 / (2 * k + 1 : Nat), fxMul a.2 z2)) (0, z)).1

/-- `sin r` (`odd`) or `cos r` for `|r| ≤ 1`. -/
def fxTrig (odd : Bool) (r : Int) : Int :=
  let r2 := fxMul r r
  let b := if odd then 1 else 0
  ((List.range 40).foldl (fun (a : Int × Int) k =>
    let u := -(fxMul a.2 r2) / ((2 * k + 1 + b) * (2 * k + 2 + b) : Nat)
    (a.1 + u, u)) (if odd then (r, r) else (fxOne, fxOne))).1

/-- A fraction as fixed point. -/
def Q.fx (bits : Nat) (x : Q) : Int := x.num * 2 ^ bits / x.den

/-- The enclosure of a fixed-point value whose error is below `2 ^ -200`. -/
def fxRange (n : Int) : Q × Q :=
  ({ num := n - 2 ^ 56, den := 2 ^ fxBits }, { num := n + 2 ^ 56, den := 2 ^ fxBits })

/-- A single value as its own enclosure. -/
def exactly (x : Q) : Q × Q := (x, x)

/-- `x × (1 - 2 ^ -30)`. -/
def justBelow (x : Q) : Q := x.mul { num := 2 ^ 30 - 1, den := 2 ^ 30 }

/-- `2 ^ x`. The proxies at the ends and near zero round as the value does. -/
def exp2Range (x : Q) : Q × Q :=
  if (Q.ofInt 128).le x then exactly (Q.pow2 200)
  else if x.lt (Q.ofInt (-150)) then exactly (Q.pow2 (-200))
  else if (Q.ofInt x.floor).eq x then exactly (Q.pow2 x.floor)
  else if x.abs.lt (Q.pow2 (-26)) then
    exactly (if x.isNeg then justBelow (Q.ofInt 1) else { num := 2 ^ 30 + 1, den := 2 ^ 30 })
  else
    let r := fxRange (fxExp (fxMul ((x.sub (Q.ofInt x.floor)).fx fxBits) fxLn2))
    (r.1.scale x.floor, r.2.scale x.floor)

/-- `log₂ x` for positive `x`. -/
def log2Range (x : Q) : Q × Q :=
  let e := x.log2
  if x.eq (Q.pow2 e) then exactly (Q.ofInt e)
  else fxRange (e * fxOne + fxLn ((x.scale (-e)).fx fxBits) * fxOne / fxLn2)

/-- `sin x` or `cos x` by reduction to a quarter turn. -/
def trigRange (cosine : Bool) (x : Q) : Q × Q :=
  if x.abs.lt (Q.pow2 (-13)) then exactly (justBelow (if cosine then Q.ofInt 1 else x))
  else
    let v := x.fx 448
    let half := fxPi / 2
    let k := (2 * v + half) / (2 * half)
    let r := (v - k * half) / 2 ^ (448 - fxBits)
    let j := ((if cosine then k + 1 else k) % 4).toNat
    let y := fxTrig (j % 2 == 0) r
    fxRange (if 2 ≤ j then -y else y)

/-- `tanh x`. -/
def tanhRange (x : Q) : Q × Q :=
  let a := x.abs
  let pos : Q × Q :=
    if a.lt (Q.pow2 (-13)) then exactly (justBelow a)
    else if (Q.ofInt 16).le a then exactly { num := 2 ^ 46 - 1, den := 2 ^ 46 }
    else
      let t := 2 * a.fx fxBits
      let n := (t / fxLn2).toNat
      let e := fxExp (t - n * fxLn2) * 2 ^ n
      fxRange (fxOne - 2 * fxOne * fxOne / (e + fxOne))
  if x.isNeg then (pos.2.neg, pos.1.neg) else pos

/-! ## The functions with their special cases (R181) -/

/-- A function of row 0x4. -/
inductive TransformFn where
  | rcp | rsq | sqrt | ex2 | lg2 | sin | cos | tanh
deriving DecidableEq, Repr

/-- The rounding of a non-zero enclosed value; undecided, it is a free value (log 10). -/
def roundRange (m : FpMode) (key : Nat) (r : Q × Q) : FpRes :=
  let a := fp32.round m false r.1
  let b := fp32.round m false r.2
  if a == b then a else ((Config.freeRound key).toNat, a.2 ||| b.2)

/-- The key of an undecided rounding: the function, the mode and the input. -/
def TransformFn.key (f : TransformFn) (m : FpMode) (x : Nat) : Nat :=
  let n := match f with
    | .rcp => 0 | .rsq => 1 | .sqrt => 2 | .ex2 => 3 | .lg2 => 4 | .sin => 5 | .cos => 6 | .tanh => 7
  let r := match m.rm with
    | .rne => 0 | .rz => 1 | .rdn => 2 | .rup => 3
  ((n * 4 + r) * 8 + 4 * m.fzi.toNat + 2 * m.fzr.toNat + m.ovs.toNat) * 2 ^ 32 + x

/-- `round_mode(f(a), f32, m)` (R181). -/
def transformVal (f : TransformFn) (m : FpMode) (x : Nat) : FpRes :=
  let inf := fun (n : Bool) => (fp32.mk' n fp32.infCode, (0 : Flags))
  let zero := fun (n : Bool) => (fp32.mk' n 0, (0 : Flags))
  let one := fun (n : Bool) => (fp32.mk' n 0x3F800000, (0 : Flags))
  let go := fun (r : Q × Q) => roundRange m (f.key m x) r
  match fp32.value m.fzi x with
  | .nan b => fp32.nanRes b
  | .inf n =>
    match f with
    | .rcp => zero n
    | .rsq => if n then fp32.nanRes true else zero false
    | .sqrt | .lg2 => if n then fp32.nanRes true else inf false
    | .ex2 => if n then zero false else inf false
    | .sin | .cos => fp32.nanRes true
    | .tanh => one n
  | .num n q =>
    if q.isZero then
      match f with
      | .rcp | .rsq => ((inf n).1, flagDZ)
      | .sqrt | .sin | .tanh => zero n
      | .ex2 | .cos => one false
      | .lg2 => ((inf true).1, flagDZ)
    else
      match f with
      | .rcp => go (exactly (signed n q).inv)
      | .rsq => if n then fp32.nanRes true else go (exactly (rsqrtProxy q))
      | .sqrt => if n then fp32.nanRes true else go (exactly (sqrtProxy q))
      | .ex2 => go (exp2Range (signed n q))
      | .lg2 => if n then fp32.nanRes true else go (log2Range q)
      | .sin => go (trigRange false (signed n q))
      | .cos => go (trigRange true (signed n q))
      | .tanh => go (tanhRange (signed n q))

/-! ## The pipe (R182) -/

/-- Words in a scheduler's queue of the pipe. -/
def Core.pipe (k : Core) (sched : Nat) : List XpWord := k.xpipe.getD sched []

/-- Queueing a transform word with its results, which hold their registers pending. -/
def Env.queueTransform (e : Env) (x : Reg × Nat) (vdata : List (Nat × Nat × Word)) (flags : Flags) (s : State) : State :=
  let id := s.nextId
  (s.addInflight e.core e.slot (fun id =>
    { id := id, kind := .transform, vregs := e.vregs x, sregs := [], vdata := vdata, sdata := [], flags := flags,
      ready := false })).modCore e.core
    (fun k => { k with xpipe := k.xpipe.set (e.slot / 4) (k.pipe (e.slot / 4) ++ [{ slot := e.slot, inflight := id }]) })

/-- A transform word: a full queue stalls it; with no passing lane it does nothing. -/
def runTransform (f : TransformFn) (g : Guard) (h : Hold) (d a : Reg) (rnd : Rnd) (s : State) :
    Host.Outcome State Fault Refusal :=
  runWord (fpForm g h d (some a) none none) (fun e s =>
    if e.act = 0 then .ok (.done s)
    else if 4 ≤ (e.k.pipe (e.slot / 4)).length then .ok (.hold (e.waitFor .stalled s))
    else
      let r := fun l => transformVal f (fpMode e.g.fpctl rnd) (e.rd a l).toNat
      .ok (.done (e.queueTransform (d, 1) (e.lanes.map (fun l => (e.vnum d l, l, BitVec.ofNat 32 (r l).1)))
        (unionFlags e.lanes (fun l => (r l).2)) s))) s

def execFrcp (g : Guard) (h : Hold) (d a : Reg) (rnd : Rnd) (s : State) := runTransform .rcp g h d a rnd s
def execFrsq (g : Guard) (h : Hold) (d a : Reg) (rnd : Rnd) (s : State) := runTransform .rsq g h d a rnd s
def execFsqrt (g : Guard) (h : Hold) (d a : Reg) (rnd : Rnd) (s : State) := runTransform .sqrt g h d a rnd s
def execFex2 (g : Guard) (h : Hold) (d a : Reg) (rnd : Rnd) (s : State) := runTransform .ex2 g h d a rnd s
def execFlg2 (g : Guard) (h : Hold) (d a : Reg) (rnd : Rnd) (s : State) := runTransform .lg2 g h d a rnd s
def execFsin (g : Guard) (h : Hold) (d a : Reg) (rnd : Rnd) (s : State) := runTransform .sin g h d a rnd s
def execFcos (g : Guard) (h : Hold) (d a : Reg) (rnd : Rnd) (s : State) := runTransform .cos g h d a rnd s
def execFtanh (g : Guard) (h : Hold) (d a : Reg) (rnd : Rnd) (s : State) := runTransform .tanh g h d a rnd s

/-- The words that the pipe can hold: it takes one every 4 clocks, and each leaves 20 clocks later (R182). -/
abbrev pipeDepth : Nat := 5

/-- The pipe takes the oldest word of a scheduler's queue, whose entry is free again (R182). In which rotation it serves the
queues shows only in time (log 9). -/
def State.takeTransform (s : State) (c sched : Nat) : State :=
  match (s.core c).pipe sched with
  | [] => s
  | w :: t =>
    if pipeDepth ≤ (s.core c).xptaken.length then s
    else s.modCore c (fun k => { k with
      xpipe := k.xpipe.set sched t, xptaken := k.xptaken ++ [{ sched := sched, slot := w.slot, inflight := w.inflight }] })

/-- The pipe returns the oldest word of a scheduler (R182): one that it has taken, or else the oldest of the queue, which it has
taken by then. -/
def State.returnTransform (s : State) (c sched : Nat) : State :=
  match (s.core c).xptaken.find? (fun w => w.sched == sched) with
  | some w =>
    (s.modCore c (fun k => { k with xptaken := k.xptaken.eraseP (fun w => w.sched == sched) })).deliver c w.slot w.inflight
  | none =>
    match (s.core c).pipe sched with
    | [] => s
    | w :: t => (s.modCore c (fun k => { k with xpipe := k.xpipe.set sched t })).deliver c w.slot w.inflight

def execTransformResultReturn (core : Fin 256) (sched : Fin 4) (s : State) : Host.Outcome State Fault Refusal :=
  .next (s.returnTransform core.val sched.val)

end Sys2Proof.Machine
end

