-- ==== Sys2Proof/Machine/Affine.lean ====
section
/-! DEFINITION. Row 0x5: affine forms (R183-R205). Quantities are exact; only R196, R200 and R201 round. Those of `afsqrt` are
reals with square roots, whose signs are decided exactly. -/

namespace Sys2Proof.Machine

open Sys2Proof

/-! ## The register (R183-R186) -/

/-- The words of a valid affine register: centre, radius, terms in ascending order of symbol. -/
structure Aff where
  ctr : Word
  rad : Word
  terms : List (Nat × Word)
deriving DecidableEq, Repr

/-- The invalid pattern (R186). -/
def invalidWords : List Word := [0x7FC00000, 0x7F800000] ++ List.replicate 12 0 ++ [0x10, 0]

/-- The symbol of term `j` (R183). -/
def affSym (w : List Word) (j : Nat) : Nat := (w.getD (10 + j / 2) 0).toNat / 65536 ^ (j % 2) % 65536
/-- The coefficient of term `j`. -/
def affCoef (w : List Word) (j : Nat) : Word := w.getD (2 + j) 0
/-- The term count NT. -/
def affNt (w : List Word) : Nat := (w.getD 14 0).toNat % 16

/-- A list of numbers rises strictly. -/
def rising : List Nat → Bool
  | a :: b :: t => decide (a < b) && rising (b :: t)
  | _ => true

/-- The check of R185: none if malformed, `some none` for the invalid pattern. An unused slot must hold the bit pattern zero, so
that -0 there is malformed; a coefficient in use must not be a zero of either sign (log 61). -/
def parseAff (w : List Word) : Option (Option Aff) :=
  let nt := affNt w
  let used := List.range (min nt 8)
  let unused := (List.range 8).filter (fun j => decide (nt ≤ j))
  let fin := fun (x : Word) => (fin32 x).isSome
  if w.getD 15 0 != 0 || (w.getD 14 0) >>> 5 != 0 || decide (8 < nt) then none
  else if (w.getD 14 0).getLsbD 4 then (if w == invalidWords then some none else none)
  else if fin (w.getD 0 0) && fin (w.getD 1 0) && !(w.getD 1 0).msb &&
      used.all (fun j => fin (affCoef w j) && (affCoef w j) <<< 1 != 0) &&
      rising (0 :: used.map (affSym w)) && unused.all (fun j => affCoef w j == 0 && affSym w j == 0) then
    some (some { ctr := w.getD 0 0, rad := w.getD 1 0, terms := used.map (fun j => (affSym w j, affCoef w j)) })
  else none

/-- The 16 words of a valid register (R183). -/
def Aff.words (a : Aff) : List Word :=
  let sym := fun j => (a.terms.getD j (0, 0)).1
  [a.ctr, a.rad] ++ (List.range 8).map (fun j => (a.terms.getD j (0, 0)).2) ++
    (List.range 4).map (fun i => BitVec.ofNat 32 (sym (2 * i) + 65536 * sym (2 * i + 1))) ++
    [BitVec.ofNat 32 a.terms.length, 0]

/-- The exact value of a finite pattern. -/
def val32 (x : Word) : Q := (fin32 x).getD Q.zero

/-- A sum of fractions. -/
def Q.sum (l : List Q) : Q := l.foldl (fun a b => (a.add b).norm) Q.zero

/-- The exact coefficient of a symbol; 0 if the register does not carry it. -/
def Aff.coef (a : Aff) (s : Nat) : Q := ((a.terms.find? (fun t => t.1 == s)).map (fun t => val32 t.2)).getD Q.zero
/-- The symbols carried. -/
def Aff.syms (a : Aff) : List Nat := a.terms.map (fun t => t.1)
/-- `S`: the exact RAD + Σ|COEF|. -/
def Aff.dev (a : Aff) : Q := Q.sum (val32 a.rad :: a.terms.map (fun t => (val32 t.2).abs))

/-- The symbols that either register carries, ascending, without repeats. -/
def symUnion (a b : List Nat) : List Nat :=
  sortBy (fun x y => decide (x ≤ y)) (a ++ b.filter (fun s => !a.contains s))

/-! ## Forming a result (R196) -/

/-- The real `r + a√p + b√q`; the radicands `p` and `q`, which are not negative, are those of the word (R198). -/
structure Surd where
  r : Q
  a : Q
  b : Q
deriving DecidableEq, Repr

/-- A fraction as a real. -/
def Surd.rat (x : Q) : Surd := { r := x, a := Q.zero, b := Q.zero }
def Surd.add (x y : Surd) : Surd := { r := (x.r.add y.r).norm, a := (x.a.add y.a).norm, b := (x.b.add y.b).norm }
def Surd.neg (x : Surd) : Surd := { r := x.r.neg, a := x.a.neg, b := x.b.neg }
def Surd.sub (x y : Surd) : Surd := x.add y.neg
def Surd.sum (l : List Surd) : Surd := l.foldl Surd.add (Surd.rat Q.zero)

/-- The sign of `u + v` from the signs of `u`, `v` and `u² - v²`. -/
def signOfSum (u v : Int) (squares : Int) : Int := if v = 0 || u = v then u else if u = 0 then v else u * squares

/-- The sign of `r + a√p`. -/
def rootSign (p r a : Q) : Int :=
  signOfSum r.num.sign (if p.isZero then 0 else a.num.sign) ((r.mul r).sub ((a.mul a).mul p)).num.sign

/-- The sign of a real. -/
def Surd.sign (p q : Q) (x : Surd) : Int :=
  signOfSum (rootSign p x.r x.a) (if q.isZero then 0 else x.b.num.sign)
    (rootSign p (((x.r.mul x.r).add ((x.a.mul x.a).mul p)).sub ((x.b.mul x.b).mul q)).norm (((x.r.add x.r).mul x.a)))

def Surd.isZero (p q : Q) (x : Surd) : Bool := x.sign p q == 0
def Surd.abs (p q : Q) (x : Surd) : Surd := if x.sign p q < 0 then x.neg else x

/-- `√x` in units of `2 ^ -bits`, rounded down. -/
def rootFloor (bits : Nat) (x : Q) : Int := isqrt (x.num.toNat * 4 ^ bits / x.den)

/-- A fraction that rounds as a real does, in every direction: the real itself where it is one of the multiples of 2⁻⁴⁰⁰, among
which every FP32 value and every midpoint lies, else the middle of the two multiples around it. The roots are taken with 16 bits
more, and the multiple below is settled by exact signs. -/
def Surd.fraction (p q : Q) (x : Surd) : Q :=
  if x.a.isZero && x.b.isZero then x.r
  else
    let u := fun (n : Int) => ({ num := n, den := 2 ^ 400 } : Q)
    let near := (((x.r.scale 416).add (x.a.mul (Q.ofInt (rootFloor 416 p)))).add (x.b.mul (Q.ofInt (rootFloor 416 q)))).floor / 2 ^ 16
    let left := fun (n : Int) => (x.sub (Surd.rat (u n))).sign p q
    let n := if 0 ≤ left (near + 1) then near + 1 else if 0 ≤ left near then near else near - 1
    if left n = 0 then u n else { num := 2 * n + 1, den := 2 ^ 401 }

/-- The exact quantities of a result, with the radicands of its reals. -/
structure AffQty where
  p : Q
  q : Q
  x : Surd
  c : List (Nat × Surd)
  r0 : Surd
  e : Surd
deriving DecidableEq, Repr

/-- The quantities of a result that are all fractions. -/
structure RatQty where
  x : Q
  c : List (Nat × Q)
  r0 : Q
  e : Q
deriving DecidableEq, Repr

def RatQty.qty (v : RatQty) : AffQty where
  p := Q.zero
  q := Q.zero
  x := Surd.rat v.x
  c := v.c.map (fun t => (t.1, Surd.rat t.2))
  r0 := Surd.rat v.r0
  e := Surd.rat v.e

/-- What an affine word writes in a lane: the invalid pattern, words as they stand, or a form with the
coefficient of its fresh symbol, if it mints one. -/
inductive AffRes where
  | invalid
  | words (w : List Word)
  | form (a : Aff) (fresh : Option Word)
deriving DecidableEq, Repr

/-- A pattern that is not finite. -/
def notFin (x : Word) : Bool := (fin32 x).isNone

/-- Terms by magnitude, the largest first; of equals the lower symbol counts as larger. -/
def byMagnitude (ts : List (Nat × Word)) : List (Nat × Word) :=
  sortBy (fun a b =>
    let x := (val32 a.2).abs
    let y := (val32 b.2).abs
    y.lt x || (x.eq y && decide (a.1 ≤ b.1))) ts

/-- Terms in ascending order of symbol. -/
def bySymbol (ts : List (Nat × Word)) : List (Nat × Word) := sortBy (fun a b => decide (a.1 ≤ b.1)) ts

/-- The sum of the magnitudes of terms. -/
def magSum (ts : List (Nat × Word)) : Q := Q.sum (ts.map (fun t => (val32 t.2).abs))

/-- The procedure of R196 up to the minting. -/
def formAff (helper : Bool) (q : AffQty) : AffRes :=
  let round := fun (f : Q → Word) (x : Surd) => f (x.fraction q.p q.q)
  let off := fun (x : Surd) (w : Word) => (x.sub (Surd.rat (val32 w))).abs q.p q.q
  let x0 := round rne32 q.x
  let cs := q.c.map (fun t => (t.1, t.2, round rne32 t.2))
  if notFin x0 || cs.any (fun t => notFin t.2.2) then .invalid
  else
    let err := Surd.sum (off q.x x0 :: cs.map (fun t => off t.2.1 t.2.2))
    let ts := byMagnitude ((cs.filter (fun t => !(val32 t.2.2).isZero)).map (fun t => (t.1, t.2.2)))
    let fresh := !helper && !q.e.isZero q.p q.q
    let keep := if helper || decide (ts.length + (if fresh then 1 else 0) ≤ 8) then 8 else 7
    let excess := Surd.rat (magSum (ts.drop keep))
    let r := round rup32 (Surd.sum ([q.r0, err] ++ (if helper then [q.e, excess] else [])))
    -- seven terms are kept only where a fresh symbol takes the rest
    let e := if helper then Surd.rat Q.zero else q.e.add excess
    let f := if e.isZero q.p q.q then none else some (round rup32 e)
    if notFin r || (match f with
      | some x => notFin x
      | none => false) then .invalid
    else .form { ctr := x0, rad := r, terms := bySymbol (ts.take keep) } f

/-- A fresh symbol joins a form; a number it already carries merges with its term (R196). None is an invalid result: a
coefficient or a radius that rounds to an infinity. -/
def Aff.join (a : Aff) (n : Nat) (f : Word) : Option (List Word) :=
  match a.terms.find? (fun t => t.1 == n) with
  | none => some { a with terms := bySymbol ((n, f) :: a.terms) }.words
  | some t =>
    let tot := (val32 t.2).add (val32 f)
    let c2 := rne32 tot
    if notFin c2 then none
    else
      let rad := rup32 ((val32 a.rad).add (tot.sub (val32 c2)).abs)
      if notFin rad then none
      else
        let rest := a.terms.filter (fun u => u.1 != n)
        some { a with rad := rad,
                      terms := if (val32 c2).isZero then rest else bySymbol ((n, c2) :: rest) }.words

/-- The number after another, 65535 being followed by 1 (R188). -/
def nextSymbol (n : Nat) : Nat := n % 65535 + 1

/-- What the minting lanes of a word leave: each lane's words, the next number, and how many numbers were taken. -/
structure Minted where
  words : List (Nat × List Word)
  next : Nat
  count : Nat

/-- A lane's words before those of the later lanes. -/
def Minted.add (l : Nat) (w : List Word) (m : Minted) : Minted := { m with words := (l, w) :: m.words }

/-- The words of each lane's result, the minting lanes taking numbers in ascending order (R188). A lane whose form cannot take
its symbol is invalid and takes no number (R186). -/
def assignSymbols (n : Nat) : List (Nat × AffRes) → Minted
  | [] => { words := [], next := n, count := 0 }
  | (l, .invalid) :: t => Minted.add l invalidWords (assignSymbols n t)
  | (l, .words w) :: t => Minted.add l w (assignSymbols n t)
  | (l, .form a none) :: t => Minted.add l a.words (assignSymbols n t)
  | (l, .form a (some f)) :: t =>
    match a.join n f with
    | none => Minted.add l invalidWords (assignSymbols n t)
    | some w =>
      let r := assignSymbols (nextSymbol n) t
      { words := (l, w) :: r.words, next := r.next, count := r.count + 1 }

/-! ## Executing a word of the row -/

/-- The 16 words of an affine operand in a lane. -/
def Env.affWords (e : Env) (a lane : Nat) : List Word := (List.range 16).map (fun j => e.rdV (e.affBase a + j) lane)

/-- The register that an operand holds in a lane, once checked: none for an invalid one. -/
def Env.aff (e : Env) (a : Fin 8) (lane : Nat) : Option Aff := (parseAff (e.affWords a.val lane)).bind id

/-- The lowest passing lane with a malformed operand (R185). -/
def Env.badAff (e : Env) (ops : List (Fin 8)) : Option Nat :=
  e.lanes.find? (fun l => ops.any (fun a => (parseAff (e.affWords a.val l)).isNone))

/-- The form of a word of row 0x5 (R195). -/
def affForm (g : Guard) (h : Hold) (d s : List (Fin 8)) (dst src : List Reg) (a b : Option Reg) : Form :=
  { Form.plain g with
    held := heldReg h a b none
    dsts := dst.map (fun r => (r, 1))
    srcs := src.map (fun r => (r, 1))
    affD := d
    affS := s
    inX := false }

/-- A word of the row that reads affine operands: the check of R185, then its effect. -/
def runAff (f : Form) (body : Env → State → Except Trap Eff) (s : State) : Host.Outcome State Fault Refusal :=
  runWord f (fun e s =>
    match e.badAff f.affS with
    | some l => .error { cause := Causes.affineFormat, info := 0, lane := l }
    | none => body e s) s

/-- Writing an affine destination: the quota, the numbers minted, the words (R188, R195). The symbol-exhaustion trap names no lane
(log 18). -/
def Env.wrAff (e : Env) (d : Fin 8) (res : Nat → AffRes) (s : State) : Except Trap Eff :=
  let rs := e.lanes.map (fun l => (l, res l))
  let out := assignSymbols e.t.afnext.toNat rs
  if out.count != 0 && decide (e.t.afquota.toNat < e.t.aflive.toNat + out.count) then
    .error { cause := Causes.symbolExhaustion, info := BitVec.ofNat 64 out.count, lane := 0 }
  else
    let ws := out.words.flatMap (fun x => (List.range 16).map (fun j => (e.affBase d.val + j, x.1, x.2.getD j 0)))
    .ok (.done ((s.writeV e.core e.slot ws).modTeam e.core e.g.team (fun t =>
      { t with afnext := BitVec.ofNat 16 out.next, aflive := t.aflive + BitVec.ofNat 16 out.count })))

/-- A word whose lanes each give exact quantities, or an invalid result. -/
def runReal (f : Form) (d : Fin 8) (qty : Env → Nat → Option AffQty) (s : State) : Host.Outcome State Fault Refusal :=
  runAff f (fun e s => e.wrAff d (fun l =>
    match qty e l with
    | none => .invalid
    | some q => formAff (e.g.helper.getLsbD l) q) s) s
/-- A word whose quantities are all fractions. -/
def runForm (f : Form) (d : Fin 8) (qty : Env → Nat → Option RatQty) (s : State) : Host.Outcome State Fault Refusal :=
  runReal f d (fun e l => (qty e l).map RatQty.qty) s

/-! ## The quantities (R197, R198) -/

/-- Coefficients over the symbols of an operand. -/
def Aff.mapCoef (a : Aff) (f : Q → Q) : List (Nat × Q) := a.syms.map (fun s => (s, (f (a.coef s)).norm))
/-- Coefficients over the symbols of two operands. -/
def coefs2 (a b : List Nat) (f : Nat → Q) : List (Nat × Q) := (symUnion a b).map (fun s => (s, (f s).norm))

def half : Q := { num := 1, den := 2 }

def qtySet (sym : Bool) (a b : Q) : RatQty :=
  { x := a, c := [], r0 := if sym then Q.zero else b.abs, e := if sym then b.abs else Q.zero }

def qtyInt (a b : Q) : Option RatQty :=
  if b.lt a then none else some { x := (a.add b).mul half, c := [], r0 := Q.zero, e := (b.sub a).mul half }

/-- `afadd` and `afsub`. -/
def qtyAdd (sub : Bool) (x y : Aff) : RatQty :=
  let op := fun (a b : Q) => if sub then a.sub b else a.add b
  { x := op (val32 x.ctr) (val32 y.ctr)
    c := coefs2 x.syms y.syms (fun s => op (x.coef s) (y.coef s))
    r0 := (val32 x.rad).add (val32 y.rad)
    e := Q.zero }

def qtyScl (k : Q) (x : Aff) : RatQty :=
  { x := k.mul (val32 x.ctr), c := x.mapCoef (fun c => k.mul c), r0 := k.abs.mul (val32 x.rad), e := Q.zero }

def qtyAddc (k : Q) (x : Aff) : RatQty :=
  { x := (val32 x.ctr).add k, c := x.mapCoef (fun c => c), r0 := val32 x.rad, e := Q.zero }

def qtyMul (x y : Aff) : RatQty :=
  let x0 := val32 x.ctr
  let y0 := val32 y.ctr
  { x := x0.mul y0
    c := coefs2 x.syms y.syms (fun s => (x0.mul (y.coef s)).add (y0.mul (x.coef s)))
    r0 := (x0.abs.mul (val32 y.rad)).add (y0.abs.mul (val32 x.rad))
    e := (x.dev.mul y.dev).norm }

def qtySqr (x : Aff) : RatQty :=
  let x0 := val32 x.ctr
  let h := ((x.dev.mul x.dev).mul half).norm
  let two := x0.add x0
  { x := (x0.mul x0).add h, c := x.mapCoef (fun c => two.mul c), r0 := two.abs.mul (val32 x.rad), e := h }

/-- `afrcp`; none where the range holds 0. -/
def qtyRcp (x : Aff) : Option RatQty :=
  let x0 := val32 x.ctr
  let p := x0.sub x.dev
  let q := x0.add x.dev
  if p.le Q.zero && Q.zero.le q then none
  else
    let m := if p.abs.lt q.abs then q else p
    let al := (m.mul m).inv.neg.norm
    let d := fun (t : Q) => (t.inv.sub (al.mul t)).norm
    some { x := ((al.mul x0).add (((d p).add (d q)).mul half)).norm
           c := x.mapCoef (fun c => al.mul c)
           r0 := al.abs.mul (val32 x.rad)
           e := (((d p).sub (d q)).mul half).norm }

/-- `afsqrt`; none where the range goes below 0, and the exact point +0 where it is 0 alone. Else α = 1/(2√q) = (1/(2q))√q, and
since p + q = 2x₀ the quantities of R198 are X = ½√p + ½√q and E = (x₀/(2q))√q − ½√p. -/
def qtySqrt (x : Aff) : Option AffQty :=
  let x0 := val32 x.ctr
  let p := (x0.sub x.dev).norm
  let q := (x0.add x.dev).norm
  if p.lt Q.zero then none
  else if q.isZero then some (RatQty.qty { x := Q.zero, c := [], r0 := Q.zero, e := Q.zero })
  else
    let al := fun (v : Q) => ({ r := Q.zero, a := Q.zero, b := (v.div (q.add q)).norm } : Surd)
    some { p := p, q := q
           x := { r := Q.zero, a := half, b := half }
           c := x.syms.map (fun s => (s, al (x.coef s)))
           r0 := al (val32 x.rad)
           e := { (al x0) with a := half.neg } }

/-- `afdiv`. -/
def qtyDiv (x y : Aff) : Option RatQty :=
  (qtyRcp y).map (fun r =>
    let x0 := val32 x.ctr
    let cy := fun s => ((r.c.find? (fun t => t.1 == s)).map (fun t => t.2)).getD Q.zero
    let sc := Q.sum (r.c.map (fun t => t.2.abs))
    { x := (x0.mul r.x).norm
      c := coefs2 x.syms (r.c.map (fun t => t.1)) (fun s => (x0.mul (cy s)).add (r.x.mul (x.coef s)))
      r0 := ((x0.abs.mul r.r0).add (r.x.abs.mul (val32 x.rad))).norm
      e := ((x0.abs.mul r.e).add (x.dev.mul (Q.sum [sc, r.e, r.r0]))).norm })

/-! ## The words -/

def execAfset (g : Guard) (h : Hold) (d : Fin 8) (a b : Reg) (sym : Bool) (s : State) :=
  runForm (affForm g h [d] [] [] [a, b] (some a) (some b)) d
    (fun e l => do return qtySet sym (← fin32 (e.rd a l)) (← fin32 (e.rd b l))) s

def execAfint (g : Guard) (h : Hold) (d : Fin 8) (a b : Reg) (s : State) :=
  runForm (affForm g h [d] [] [] [a, b] (some a) (some b)) d
    (fun e l => do qtyInt (← fin32 (e.rd a l)) (← fin32 (e.rd b l))) s

/-- `afmov` copies all 16 words unchanged (R199). -/
def execAfmov (g : Guard) (d a : Fin 8) (s : State) :=
  runAff (affForm g .none [d] [a] [] [] none none)
    (fun e s => e.wrAff d (fun l => .words (e.affWords a.val l)) s) s

/-- A word with two affine operands. -/
def affTwo (g : Guard) (d a b : Fin 8) (f : Aff → Aff → Option RatQty) (s : State) :=
  runForm (affForm g .none [d] [a, b] [] [] none none) d (fun e l => do f (← e.aff a l) (← e.aff b l)) s
/-- A word with one affine operand. -/
def affOne (g : Guard) (d a : Fin 8) (f : Aff → Option RatQty) (s : State) :=
  runForm (affForm g .none [d] [a] [] [] none none) d (fun e l => do f (← e.aff a l)) s
/-- A word with an affine operand and an FP32 one. -/
def affScalar (g : Guard) (h : Hold) (d a : Fin 8) (b : Reg) (f : Q → Aff → RatQty) (s : State) :=
  runForm (affForm g h [d] [a] [] [b] none (some b)) d
    (fun e l => do return f (← fin32 (e.rd b l)) (← e.aff a l)) s

def execAfadd (g : Guard) (d a b : Fin 8) (s : State) := affTwo g d a b (fun x y => some (qtyAdd false x y)) s
def execAfsub (g : Guard) (d a b : Fin 8) (s : State) := affTwo g d a b (fun x y => some (qtyAdd true x y)) s
def execAfscl (g : Guard) (h : Hold) (d a : Fin 8) (b : Reg) (s : State) := affScalar g h d a b qtyScl s
def execAfaddc (g : Guard) (h : Hold) (d a : Fin 8) (b : Reg) (s : State) := affScalar g h d a b qtyAddc s
def execAfmul (g : Guard) (d a b : Fin 8) (s : State) := affTwo g d a b (fun x y => some (qtyMul x y)) s
def execAfsqr (g : Guard) (d a : Fin 8) (s : State) := affOne g d a (fun x => some (qtySqr x)) s
def execAfrcp (g : Guard) (d a : Fin 8) (s : State) := affOne g d a qtyRcp s
def execAfdiv (g : Guard) (d a b : Fin 8) (s : State) := affTwo g d a b qtyDiv s

/-- `afsqrt` (R198). -/
def execAfsqrt (g : Guard) (d a : Fin 8) (s : State) :=
  runReal (affForm g .none [d] [a] [] [] none none) d (fun e l => do qtySqrt (← e.aff a l)) s

/-- The terms that `afcond` selects (R200); `t` is the threshold. -/
def condSelect (mode : CondMode) (t : Word) (terms : List (Nat × Word)) : List (Nat × Word) :=
  match mode with
  | .detach => terms
  | .cnt k rad => (byMagnitude terms).drop (if rad then k.toNat else k.toNat - 1)
  | .thr _ _ =>
    match fp32.value false t.toNat with
    | .nan _ => []
    | .inf neg => if neg then [] else terms
    | .num neg m => if neg && !m.isZero then [] else terms.filter (fun u => (val32 u.2).abs.le m)

/-- Whether `afcond` folds into the radius. -/
def CondMode.toRad : CondMode → Bool
  | .detach => true
  | .cnt _ r => r
  | .thr r _ => r

/-- `afcond` in a lane (R200). -/
def condAff (mode : CondMode) (helper : Bool) (t : Word) (w : List Word) : AffRes :=
  match (parseAff w).bind id with
  | none => .words w
  | some a =>
    let sel := condSelect mode t a.terms
    let rest := a.terms.filter (fun u => !sel.contains u)
    let tot := magSum sel
    if CondMode.toRad mode || helper then
      let r := rup32 ((val32 a.rad).add tot)
      if notFin r then .invalid else .words { a with rad := r, terms := rest }.words
    else if decide (2 ≤ sel.length) then
      let f := rup32 tot
      if notFin f then .invalid else .form { a with terms := rest } (some f)
    else .words w

/-- The threshold operand of `afcond`. -/
def CondMode.thrReg : CondMode → List Reg
  | .thr _ t => [t]
  | _ => []

def execAfcond (g : Guard) (h : Hold) (d a : Fin 8) (mode : CondMode) (s : State) :=
  let src := CondMode.thrReg mode
  runAff (affForm g h [d] [a] [] src none src.head?)
    (fun e s => e.wrAff d (fun l =>
      condAff mode (e.g.helper.getLsbD l) ((src.head?.map (fun r => e.rd r l)).getD 0) (e.affWords a.val l)) s) s

/-! ## Reading a register (R201, R205) -/

/-- A word that writes one value a lane from an affine operand. -/
def affRead (g : Guard) (d : Reg) (a : Fin 8) (f : Option Aff → Word) (s : State) :=
  runAff (affForm g .none [] [a] [d] [] none none) (fun e s => .ok (.done (e.wr d (fun l => f (e.aff a l)) s))) s

/-- An end of the enclosure; with `h = 0` it is CTR itself (R201). An exact zero toward −∞ is −0 (R153). -/
def affEnd (low : Bool) (a : Aff) : Word :=
  if a.dev.isZero then a.ctr
  else if low then
    BitVec.ofNat 32 (fp32.round { FpMode.plain with rm := .rdn } true ((val32 a.ctr).sub a.dev)).1
  else rup32 ((val32 a.ctr).add a.dev)

def execAfctr (g : Guard) (d : Reg) (a : Fin 8) (s : State) :=
  affRead g d a (fun x => (x.map (fun x => x.ctr)).getD 0x7FC00000) s
def execAfrad (g : Guard) (d : Reg) (a : Fin 8) (s : State) :=
  affRead g d a (fun x => (x.map (fun x => rup32 x.dev)).getD 0x7F800000) s
def execAflo (g : Guard) (d : Reg) (a : Fin 8) (s : State) :=
  affRead g d a (fun x => (x.map (affEnd true)).getD 0xFF800000) s
def execAfhi (g : Guard) (d : Reg) (a : Fin 8) (s : State) :=
  affRead g d a (fun x => (x.map (affEnd false)).getD 0x7F800000) s

/-- What `afterm` reads (R205). -/
def termVal (sel : TermSel) (w : List Word) (j : Nat) : Word :=
  match sel with
  | .coef _ => if j < affNt w then affCoef w j else 0
  | .sym _ => if j < affNt w then BitVec.ofNat 32 (affSym w j) else 0
  | .cnt => BitVec.ofNat 32 (affNt w)
  | .flags => w.getD 14 0

/-- The index operand of `afterm`. -/
def TermSel.index : TermSel → List Reg
  | .coef j => [j]
  | .sym j => [j]
  | _ => []

def execAfterm (g : Guard) (h : Hold) (d : Reg) (a : Fin 8) (sel : TermSel) (s : State) :=
  let src := TermSel.index sel
  runAff (affForm g h [] [a] [d] src none src.head?)
    (fun e s => .ok (.done (e.wr d (fun l =>
      termVal sel (e.affWords a.val l) ((src.head?.map (fun r => (e.rd r l).toNat)).getD 0)) s))) s

/-! ## Comparison (R202) -/

/-- "Certainly true" and "certainly false". -/
def affCompare (cnd : AfCond) (a b : Aff) : Bool × Bool :=
  let c := (val32 a.ctr).sub (val32 b.ctr)
  let h := Q.sum ([val32 a.rad, val32 b.rad] ++
    (symUnion a.syms b.syms).map (fun s => ((a.coef s).sub (b.coef s)).abs))
  let lo := c.sub h
  let hi := c.add h
  let z := Q.zero
  let same := h.isZero && c.isZero
  let apart := z.lt lo || hi.lt z
  match cnd with
  | .lt => (hi.lt z, z.le lo)
  | .le => (hi.le z, z.lt lo)
  | .gt => (z.lt lo, hi.le z)
  | .ge => (z.le lo, hi.lt z)
  | .eq => (same, apart)
  | .ne => (apart, same)

def execAfcmp (g : Guard) (pt a b pf : Fin 8) (cnd : AfCond) (s : State) :=
  runAff (affForm g .none [] [a, b] [] [] none none)
    (fun e s =>
      let r := fun l => ((do return affCompare cnd (← e.aff a l) (← e.aff b l) : Option (Bool × Bool))).getD (false, false)
      .ok (.done (e.wrP pf.val (fun l => (r l).2) (e.wrP pt.val (fun l => (r l).1) s)))) s

/-! ## The spawn pool (R203, R204) -/

/-- `afrel lo, hi` (R203). -/
def execAfrel (g : Guard) (a b : Reg) (s : State) :=
  runGroup (affForm g .none [] [] [] [a, b] none none)
    (fun e s =>
      let lo := (e.sc a).toNat
      let hi := (e.sc b).toNat
      if lo = 0 ∨ 65535 < hi ∨ hi < lo ∨ e.t.aflive.toNat < hi - lo + 1 then .error (trapOf Causes.symbolRelease)
      else .ok (.done (e.modT (fun t => { t with aflive := t.aflive - BitVec.ofNat 16 (hi - lo + 1) }) s))) s

/-- `afrel.all` (R203). -/
def execAfrelAll (g : Guard) (s : State) :=
  runGroup (affForm g .none [] [] [] [] none none)
    (fun e s => .ok (.done (e.modT (fun t => { t with aflive := 0 }) s))) s

/-- What `afsymq` reads. -/
def poolVal (t : Team) (sel : PoolSel) : Word :=
  match sel with
  | .next => t.afnext.setWidth 32
  | .live => t.aflive.setWidth 32
  | .quota => t.afquota.setWidth 32
  | .free => BitVec.ofNat 32 (t.afquota.toNat - t.aflive.toNat)

def execAfsymq (g : Guard) (d : Reg) (sel : PoolSel) (s : State) :=
  runEff (affForm g .none [] [] [d] [] none none) (fun e s => e.wr d (fun _ => poolVal e.t sel) s) s

end Sys2Proof.Machine
end

