-- ==== Sys2Proof/Machine/Access.lean ====
section
/-! DEFINITION. Local memory as a group and an engine see it: lane addresses and their checks (R207, R216), the
bounce pool (R219, R220), access counters (R321), write queues (R227, R229), watchpoints (R355), and engine reads and
writes of a team's allocations. -/

namespace Sys2Proof.Machine

open Sys2Proof

/-! ## The bounce pool (R219) -/

/-- The 128-byte line of an address. -/
def lineOf (va : Nat) : Nat := va / 128

def Cluster.hasLine (k : Cluster) (p line : Nat) : Bool := k.bounce.any (fun b => b.part == p && b.line == line)

/-- The lines that bytes of a partition would need and do not find in the pool. -/
def Cluster.newLines (k : Cluster) (p : Nat) (lines : List Nat) : List Nat :=
  (lines.filter (fun l => !k.hasLine p l)).eraseDups

/-- Whether the pool has room for new lines. -/
def Cluster.roomFor (k : Cluster) (p : Nat) (lines : List Nat) : Bool :=
  decide (k.bounce.length + (k.newLines p lines).length ≤ Config.bounceLines)

/-- Reserving a line. -/
def Cluster.reserveLine (k : Cluster) (p line : Nat) : Cluster :=
  if k.hasLine p line then k else { k with bounce := k.bounce ++ [{ part := p, line := line, bytes := [] }] }

/-- A byte entering the pool; a later byte replaces an earlier one. -/
def Cluster.bouncePut (k : Cluster) (p va : Nat) (b : Byte) : Cluster :=
  let k := k.reserveLine p (lineOf va)
  { k with bounce := k.bounce.map (fun x =>
      if x.part == p && x.line == lineOf va then { x with bytes := Store.write x.bytes va (1#1 ++ b) } else x) }

/-- Bytes entering a cluster's pool. -/
def State.bounce (s : State) (cl p va : Nat) (bs : List Byte) : State :=
  s.modCluster cl (fun k => (List.range bs.length).foldl (fun k i => k.bouncePut p (va + i) (bs.getD i 0)) k)

/-! ## Access counters (R321) -/

/-- An access of a granule counts; at 16 it enters the notification queue. A granule already queued, or a full
queue, leaves the counter at 16 (log 21). -/
def Cluster.count (k : Cluster) (c granule : Nat) : Cluster :=
  let old := ((k.counters.find? (fun c => c.granule == granule)).map (fun c => c.count)).getD 0
  let rest := k.counters.filter (fun c => c.granule != granule)
  let put := fun (n : Nat) (k : Cluster) =>
    { k with counters := ({ granule := granule, count := n } :: rest).take Config.counterCap }
  if old + 1 < 16 then put (old + 1) k
  else if k.notify.any (fun x => x.1 == granule) then put 16 k
  else if k.notify.length < Config.notifyCap then put 0 { k with notify := k.notify ++ [(granule, c)] }
  else put 16 { k with notifyOvf := true }

/-- The 64 KiB granule of an address. -/
def granuleOf (va : Nat) : Nat := va / 0x10000 * 0x10000

def State.countAccess (s : State) (c va : Nat) : State := s.modCluster (c / 8) (fun k => k.count c (granuleOf va))

/-! ## Atomic operations (R210, R229) -/

/-- The new value of an atomic on values below `2 ^ bits`. -/
def atomVal (bits : Nat) (op : AtomOp) (old data cmp : Nat) : Nat :=
  match op with
  | .add => (old + data) % 2 ^ bits
  | .min => min old data
  | .max => max old data
  | .and => old &&& data
  | .or => old ||| data
  | .xor => old ^^^ data
  | .exch => data
  | .cas => if old = cmp then data else old

/-- The width of an atomic's word. -/
def atomBits (w64 : Bool) : Nat := if w64 then 64 else 32

/-- An atomic on a byte memory: the memory and the old value. -/
def Memory.atomic (m : Memory) (a : Nat) (op : AtomOp) (w64 : Bool) (data cmp : Dword) : Memory × Nat :=
  let n := atomBits w64 / 8
  let old := Memory.nat m a n
  let cut := fun (x : Dword) => x.toNat % 2 ^ (8 * n)
  (Memory.store m a (leBytes n (atomVal (8 * n) op old (cut data) (cut cmp))), old)

/-- The words of an `n`-word value, low word first. -/
def wordsOf (n v : Nat) : List Word := (List.range n).map (fun j => BitVec.ofNat 32 (v / 2 ^ (32 * j)))

/-! ## Write queues (R227) -/

/-- Applying an entry to the vault. An atomic's old value joins its result in flight, which is ready once none of
its entries is left. -/
def State.applyEntry (s : State) (c slot : Nat) (q : QEntry) : State :=
  match q.kind with
  | .store bs => s.modCore c (fun k => { k with vault := Memory.store k.vault q.off bs })
  | .atomic op w64 data cmp fl lane reg =>
    let r := Memory.atomic (s.core c).vault q.off op w64 data cmp
    let ws := wordsOf (if w64 then 2 else 1) r.2
    let more := ((s.group c slot).map (fun g => g.wq.any (fun x => x.id != q.id && (match x.kind with
      | .atomic _ _ _ _ f _ _ => f == fl
      | .store _ => false)))).getD false
    (s.modCore c (fun k => { k with vault := r.1 })).fillFlight c slot fl (fun f =>
      { f with vdata := f.vdata ++ (List.range ws.length).map (fun j => (reg + j, lane, ws.getD j 0)), ready := !more })

/-- The vault offsets that an entry writes. -/
def QEntry.offsets (q : QEntry) : List Nat :=
  (List.range (match q.kind with
    | .store bs => bs.length
    | .atomic _ w64 _ _ _ _ _ => atomBits w64 / 8)).map (fun i => q.off + i)

/-- An entry leaves the queues once it has been applied: the group sees it over the older entries that remain (R329). -/
def Group.dequeue (g : Group) (q : QEntry) : Group :=
  { g with wq := (g.wq.filter (fun x => x.id != q.id)).map (fun x =>
      if x.id < q.id then { x with passed := x.passed ++ q.offsets } else x) }

/-- Draining the entries that satisfy `p`, oldest first. -/
def State.drainQueue (s : State) (c slot : Nat) (p : QEntry → Bool) : State :=
  match s.group c slot with
  | none => s
  | some g =>
    (g.wq.filter p).foldl (fun s q => (s.applyEntry c slot q).modGroup c slot (fun g => g.dequeue q)) s

/-- Adding an entry of the word `word`. -/
def State.enqueue (s : State) (c slot word col off : Nat) (kind : QKind) : State :=
  { (s.modGroup c slot (fun g =>
      { g with wq := g.wq ++ [{ id := s.nextId, word := word, col := col, off := off, kind := kind, passed := [] }] }))
    with nextId := s.nextId + 1 }

/-- Whether a queued store may become visible apart from the rest of its word (R329): the older entries of its colour are of its
own word and write other bytes (R218, R227). -/
def Group.drainable (g : Group) (q : QEntry) : Bool :=
  (match q.kind with
    | .store _ => true
    | .atomic _ _ _ _ _ _ _ => false) &&
  g.wq.all (fun x => decide (q.id ≤ x.id) || x.col != q.col || (x.word == q.word && !x.offsets.any q.offsets.contains))

/-- One word of a queued store becomes visible (R329): the `n`th entry of a group, where it may. -/
def State.drainPiece (s : State) (c slot n : Nat) : State :=
  match s.group c slot with
  | none => s
  | some g =>
    match g.wq[n]? with
    | some q => if g.drainable q then s.drainQueue c slot (fun x => x.id == q.id) else s
    | none => s

/-- A byte of the vault as a group sees it: its newest queued store over the vault, but for one that a younger store of the
group, already visible, has passed there (R227, R329). A queued atomic is not seen until it is applied, which R227 leaves open
(log 12). -/
def Group.seen (g : Group) (vault : Memory) (off : Nat) : Byte :=
  g.wq.foldl (fun b q =>
    match q.kind with
    | .store bs =>
      if q.off ≤ off && decide (off < q.off + bs.length) && !q.passed.contains off then bs.getD (off - q.off) 0 else b
    | .atomic _ _ _ _ _ _ _ => b) (Store.read vault off)

/-! ## Lane addresses (R207) -/

/-- A checked lane address: a core scratchpad offset, or a partition-virtual address. -/
inductive Place where
  | sp (off : Nat)
  | vt (va : Nat)
deriving DecidableEq, Repr

/-- The base of a memory word: its register and whether the form is wide. -/
structure MBase where
  reg : Reg
  wide : Bool
  disp : BitVec 16
  space : Space

/-- The address as computed, before its checks. -/
def Env.rawAddr (e : Env) (b : MBase) (lane : Nat) : Nat :=
  if b.wide then ((e.rd64 b.reg lane).toNat % 2 ^ 48 + (b.disp.signExtend 48).toNat) % 2 ^ 48
  else (e.rd b.reg lane + b.disp.signExtend 32).toNat

/-- The range and form checks. -/
def Env.place (e : Env) (b : MBase) (lane : Nat) : Except Cause Place :=
  let hi := e.rd (regPlus b.reg 1) lane
  let sp := fun (o : Nat) => if o < e.t.scratch then .ok (.sp (e.t.spb + o)) else .error Causes.scratchRange
  if b.wide then
    match b.space with
    | .vt => if hi.toNat < 0x10000 then .ok (.vt (e.rawAddr b lane)) else .error Causes.addressForm
    | .sp => if hi = 0 then sp ((e.rd b.reg lane + b.disp.signExtend 32).toNat) else .error Causes.addressForm
  else
    match b.space with
    | .sp => sp (e.rawAddr b lane)
    | .vt =>
      if e.rawAddr b lane < e.t.vault then .ok (.vt (aperture e.core e.g.team + e.rawAddr b lane))
      else .error Causes.vaultRange

/-- What a lane reaches: a scratchpad offset, or an address with its leaf, and whether its translation was held. -/
inductive Reach where
  | sp (off : Nat)
  | vt (va : Nat) (leaf : Leaf) (held : Bool)
deriving DecidableEq, Repr

/-- The first of a list of lanes for which `f` gives a trap. -/
def firstTrap (lanes : List Nat) (f : Nat → Option Trap) : Option Trap := lanes.findSome? f

/-- Steps 1 and 2 of R216. -/
def Env.rangeTrap (e : Env) (b : MBase) (size : Nat) (lanes : List Nat) : Option Trap :=
  match firstTrap lanes (fun l =>
    if e.rawAddr b l % size = 0 then none else some { cause := Causes.misalignedAccess, info := 0, lane := l }) with
  | some t => some t
  | none => firstTrap lanes (fun l =>
      match e.place b l with
      | .ok _ => none
      | .error c => some { cause := c, info := 0, lane := l })

/-- The partition of a group's grid. -/
def Env.part (e : Env) : Nat := e.gr.part

/-- The last-page key of a lane. -/
def Env.key (e : Env) (lane : Nat) : Nat := e.slot * 32 + lane

/-- Looking up the addresses of lanes in turn; `none` for a lane whose place fails or whose page is invalid. -/
def Env.reach (e : Env) (b : MBase) (lanes : List Nat) (s : State) : State × List (Nat × Option Reach) :=
  lanes.foldl (fun (a : State × List (Nat × Option Reach)) l =>
    match e.place b l with
    | .error _ => (a.1, a.2 ++ [(l, none)])
    | .ok (.sp o) => (a.1, a.2 ++ [(l, some (.sp o))])
    | .ok (.vt va) =>
      let r := a.1.pick e.core e.part (e.key l) va
      (r.1, a.2 ++ [(l, r.2.1.map (fun x => .vt va x r.2.2))])) (s, [])

/-- A trap that names an address. -/
def addrTrap (c : Cause) (va lane : Nat) : Trap :=
  { cause := c, info := BitVec.ofNat 64 (va / 0x10000), lane := lane }

/-- The address that a lane's place names. -/
def Env.va (e : Env) (b : MBase) (lane : Nat) : Nat :=
  match e.place b lane with
  | .ok (.vt va) => va
  | _ => 0

/-- Steps 3 and 4 of R216 on looked-up lanes. -/
def Env.pageTrap (e : Env) (b : MBase) (isStore : Bool) (r : List (Nat × Option Reach)) : Option Trap :=
  match r.findSome? (fun x => if x.2.isNone then some (addrTrap Causes.translationFault (e.va b x.1) x.1) else none) with
  | some t => some t
  | none => r.findSome? (fun x =>
      match x.2 with
      | some (.vt va l _) =>
        if isStore && l.resident e.core && !Pte.w l.pte then some (addrTrap Causes.writeProtect va x.1) else none
      | _ => none)

/-- Bytes of a tile state block (R273). -/
abbrev tileBytes : Nat := 0x2800

/-- The blocks that open contexts are bound to, as core scratchpad offsets, those that queued commands open
included (R274). -/
def Core.openBlocks (k : Core) : List Nat :=
  k.ctxs.filterMap (fun o => o.map (fun t => t.block)) ++ k.cq.filterMap (fun c => match c.kind with
    | .begTile b _ => some b
    | .load _ b _ => some b
    | _ => none)

/-- Whether `n` bytes from a core scratchpad offset meet an open block (R274). -/
def Core.meetsTile (k : Core) (off n : Nat) : Bool :=
  k.openBlocks.any (fun b => decide (off < b + tileBytes) && decide (b < off + n))

/-- The tile-region check of a store or atomic (R274). -/
def Env.tileTrap (e : Env) (size : Nat) (r : List (Nat × Option Reach)) : Option Trap :=
  r.findSome? (fun x =>
    match x.2 with
    | some (.sp o) => if e.k.meetsTile o size then some { cause := Causes.tileRegion, info := 0, lane := x.1 } else none
    | _ => none)

/-- The checks of R216, and of R274 for a store, over the real lanes: a trap, or what each lane reaches. -/
def Env.checked (e : Env) (b : MBase) (size : Nat) (isStore : Bool) (s : State) :
    State × Except Trap (List (Nat × Reach)) :=
  match e.rangeTrap b size e.realLanes with
  | some t => (s, .error t)
  | none =>
    let r := e.reach b e.realLanes s
    match e.pageTrap b isStore r.2 with
    | some t => (r.1, .error t)
    | none =>
      match if isStore then e.tileTrap size r.2 else none with
      | some t => (r.1, .error t)
      | none => (r.1, .ok (r.2.filterMap (fun x => x.2.map (fun y => (x.1, y)))))

/-- A lane that misses: a valid page that is not resident for the core (R209). -/
def Reach.misses (c : Nat) : Reach → Bool
  | .sp _ => false
  | .vt _ l _ => !l.resident c

/-- The bytes that a resident or scratchpad lane reads. -/
def Env.bytes (e : Env) (s : State) (r : Reach) (n : Nat) : List Byte :=
  let k := s.core e.core
  match r with
  | .sp o => Memory.bytes k.sp o n
  | .vt va l _ => (List.range n).map (fun i => e.g.seen k.vault (l.offset va + i))

/-- The effect of lanes' accesses on leaves and translations. -/
def Env.touch (e : Env) (isStore : Bool) (r : List (Nat × Reach)) (s : State) : State :=
  r.foldl (fun s x =>
    match x.2 with
    | .sp _ => s
    | .vt va l held => s.accessed e.core e.part e.slot x.1 va l held isStore) s

/-! ## Watchpoints and the freeze (R355, R356) -/

/-- Whether a watchpoint matches an access of `n` bytes. A `.sp` address is a core scratchpad offset (log 22). -/
def Core.watches (k : Core) (i : Nat) (isStore sp : Bool) (addr n : Nat) : Bool :=
  let f := (k.wpctl.extractLsb' (8 * i) 8)
  let len := 2 ^ (f.extractLsb' 0 4).toNat
  let base := (k.wpa.getD i 0).toNat / len * len
  f.getLsbD 7 && f.getLsbD (if isStore then 6 else 5) && f.getLsbD 4 == sp &&
    decide (addr < base + len) && decide (base < addr + n)

/-- The lowest watchpoint that the lanes of a word hit. -/
def Core.watchHit (k : Core) (isStore : Bool) (n : Nat) (r : List Reach) : Option Nat :=
  (List.range 4).find? (fun i => r.any (fun x =>
    match x with
    | .sp o => k.watches i isStore true o n
    | .vt va _ _ => k.watches i isStore false va n))

/-- Changing each core of a cluster. -/
def State.eachCore (s : State) (cl : Nat) (f : Core → Core) : State :=
  (List.range 8).foldl (fun s i => s.modCore (8 * cl + i) f) s

/-- Freezing a cluster: its groups may go on issuing for 16 clocks (R356). A cluster that is frozen stays as it is. -/
def State.freeze (s : State) (cl : Nat) : State :=
  if (s.cluster cl).frozen then s
  else (s.modCluster cl (fun k => { k with frozen := true, skidUntil := s.clock + 16 })).eachCore cl (fun k =>
    { k with groups := k.groups.map (fun o => o.map (fun g => { g with gskHit := false, gskWp := 0, gskSkid := 0 })) })

/-- Thawing a cluster: issue resumes everywhere in it, and no step is left pending (R356). -/
def State.thaw (s : State) (cl : Nat) : State :=
  (s.modCluster cl (fun k => { k with frozen := false, skidUntil := 0 })).eachCore cl (fun k => { k with step := false })

/-- Freezing by a word of a group (R339 `GSKID`). -/
def Env.freezeBy (e : Env) (wp : Nat) (s : State) : State :=
  e.modG (fun g => { g with gskHit := true, gskWp := BitVec.ofNat 2 wp }) (s.freeze (e.core / 8))

/-- A word's accesses meet the watchpoints after it has acted (R355). -/
def Env.watch (e : Env) (isStore : Bool) (n : Nat) (r : List (Nat × Reach)) (s : State) : State :=
  match e.k.watchHit isStore n (r.map (fun x => x.2)) with
  | none => s
  | some i =>
    if e.k.wpact then s.dueTrap e.core e.slot Causes.watchpoint (BitVec.ofNat 64 i)
    else e.freezeBy i s

/-! ## Scopes (R327) -/

/-- A `.sys` scope in a partition limited to tenant scope is demoted: the trap when enabled, else DEM is set. -/
def Env.demote (e : Env) (sys : Bool) : Except Trap (State → State) :=
  if sys && e.pt.tenantScope then
    if e.g.scopeEn then .error (trapOf Causes.scopeDemotion)
    else .ok (e.modG (fun g => { g with scopeDem := true }))
  else .ok (fun s => s)

/-! ## Engine accesses to a team's allocations (R220, R232, R233) -/

/-- The trap of a space's range check. -/
def rangeCause (spc : Space) : Cause := if spc = .sp then Causes.scratchRange else Causes.vaultRange

/-- The size of a team's allocation. -/
def Team.size (t : Team) (spc : Space) : Nat := if spc = .sp then t.scratch else t.vault

/-- A word of a team's allocation as memory now holds it; none on a page that is not resident. -/
def State.readWord (s : State) (c j : Nat) (spc : Space) (off : Nat) : State × Option Word :=
  match spc with
  | .sp => (s, some (Memory.word (s.core c).sp (((s.team c j).getD Team.zero).spb + off)))
  | .vt =>
    let va := aperture c j + off
    let x := s.translate c (s.partOf c) va false
    (x.1, x.2.bind (fun l => if l.resident c then some (Memory.word (s.core c).vault (l.offset va)) else none))

/-- A word that an engine has read ahead for the command at its head. -/
def Core.readAhead (k : Core) (eng : Engine) (spc : Space) (off : Nat) : Option Word :=
  (k.early.find? (fun w => w.engine == eng && w.spc == spc && w.off == off)).map (fun w => w.word)

/-- Reads of an engine's command, word by word, each as it was read ahead or as memory now holds it (R256, R332): the bytes
before the first word on a page that is not resident. -/
def State.engineRead (s : State) (eng : Engine) (c j : Nat) (spc : Space) (off : Nat) : Nat → State × List Byte
  | 0 => (s, [])
  | n + 1 =>
    let x := match (s.core c).readAhead eng spc off with
      | some w => (s, some w)
      | none => s.readWord c j spc off
    match x.2 with
    | some w =>
      let r := x.1.engineRead eng c j spc (off + 4) n
      (r.1, leBytes 4 w.toNat ++ r.2)
    | none => (x.1, [])

/-- What an engine has read ahead or begun for its head command is done with. -/
def Core.endHead (k : Core) (eng : Engine) : Core :=
  { k with early := k.early.filter (fun w => w.engine != eng), begun := k.begun.filter (fun b => b.engine != eng) }

/-- The head command of an engine, if it has been begun. -/
def Core.begunBy (k : Core) (eng : Engine) : Option Begun := k.begun.find? (fun b => b.engine == eng)

/-- One engine write of a few bytes on one page: to the vault, or, where the command may, to the bounce pool; false where the
pool is full or the page is invalid. -/
def State.engineWriteAt (s : State) (c p va : Nat) (bs : List Byte) (pool : Bool) : State × Bool :=
  let x := s.translate c p va true
  match x.2 with
  | none => (x.1, false)
  | some l =>
    if l.resident c then (x.1.modCore c (fun k => { k with vault := Memory.store k.vault (l.offset va) bs }), true)
    else if pool && (x.1.cluster (c / 8)).roomFor p [lineOf va] then (x.1.bounce (c / 8) p va bs, true)
    else (x.1, false)

/-- Engine writes of words to a team's allocation, stopping at the first that fails (R220), and whether all were made. A tile's
words never enter the bounce pool: a page that is not resident ends its command (R295). -/
def State.engineWrite (s : State) (c j : Nat) (spc : Space) (off : Nat) (bs : List Byte) (pool : Bool := true) : State × Bool :=
  match spc with
  | .sp =>
    let t := (s.team c j).getD Team.zero
    (s.modCore c (fun k => k.modSp (fun m => Memory.store m (t.spb + off) bs)), true)
  | .vt =>
    (List.range ((bs.length + 3) / 4)).foldl (fun (a : State × Bool) i =>
      if a.2 then
        a.1.engineWriteAt c (a.1.partOf c) (aperture c j + off + 4 * i) ((bs.drop (4 * i)).take 4) pool
      else a) (s, true)

/-- A trap becomes due for the group that issued a command, if it is still resident. -/
def State.dueOwner (s : State) (c slot uid : Nat) (cause : Cause) (info : BitVec 64) : State :=
  s.modOwner c slot uid (fun g => g.makeDue { cause := cause, info := info, lane := 0 })

/-- Whether a scope is the system's and belongs to a release, and so is demoted where only tenant scope is allowed. -/
def sysRelease (scope : Scope) (rel : Bool) : Bool := scope == .sys && rel

/-- The write queues that an acquire waits for are drained (R232): the entries of the issuing group older than the
command. -/
def State.acquire (s : State) (c slot : Nat) (acq : Bool) (id : Nat) : State :=
  if acq then s.drainQueue c slot (fun q => decide (q.id < id)) else s

end Sys2Proof.Machine
end

