-- ==== Sys2Proof/Machine/KFormat.lean ====
section
/-! DEFINITION. The K family (R159, R160), C3 indices (R161), format slots (R162, R163), and `kpack`, `kunpk` and
`rqz` (R175-R178). -/

namespace Sys2Proof.Machine

open Sys2Proof

/-! ## Format slots -/

/-- A slot with KIND empty. -/
def FmtSlot.empty : FmtSlot := { kind := 0, bsc := 0, d := 0, ro := 0, off := 0 }

/-- A grid's format slot (R163). -/
def Grid.slot (gr : Grid) (n : Nat) : FmtSlot := gr.lrec.slots.getD n FmtSlot.empty

def FmtSlot.isK (f : FmtSlot) : Bool := f.kind == 0x08 || f.kind == 0x09 || f.kind == 0x0A
def FmtSlot.isIeee (f : FmtSlot) : Bool := f.kind == 0x01 || f.kind == 0x02 || f.kind == 0x03
def FmtSlot.isInt (f : FmtSlot) : Bool := f.kind == 0x10 || f.kind == 0x11 || f.kind == 0x12
def FmtSlot.isC3 (f : FmtSlot) : Bool := f.kind == 0x0C
/-- An IEEE slot's format. -/
def FmtSlot.fmt (f : FmtSlot) : Fmt := if f.kind == 0x01 then fp32 else if f.kind == 0x02 then bf16 else fp16

/-- The two traps of a named slot (R163). -/
def slotCheck (gr : Grid) (n : Nat) (ok : FmtSlot → Bool) : Except Trap FmtSlot :=
  let f := gr.slot n
  if f.kind == 0 then .error { cause := Causes.emptySlot, info := BitVec.ofNat 64 n, lane := 0 }
  else if ok f then .ok f
  else .error { cause := Causes.slotKind, info := BitVec.ofNat 64 n, lane := 0 }

/-! ## K blocks -/

/-- The element width of a K kind (R160). -/
def kWidth (kind : BitVec 8) : Nat := if kind = 0x08 then 8 else if kind = 0x09 then 6 else 4
/-- Block bytes. -/
def kBytes (w : Nat) : Nat := 4 * w + 4

/-- The code of an element: SEL, S and M (R159). -/
def kElem (w : Nat) (bs : List Byte) (j : Nat) : Nat := leNat (bs.take (4 * w)) / 2 ^ (w * j) % 2 ^ w
/-- E_lo and E_hi of a block. -/
def kExps (w : Nat) (bs : List Byte) : Nat × Nat := ((bs.getD (4 * w) 0).toNat, (bs.getD (4 * w + 1) 0).toNat)

/-- The exponent that an element's SEL chooses. -/
def kExpOf (w : Nat) (ex : Nat × Nat) (el : Nat) : Nat := if el / 2 ^ (w - 1) = 1 then ex.2 else ex.1

/-- An element's value as an FP32 pattern (R159). -/
def kValue (w : Nat) (ex : Nat × Nat) (el : Nat) : Word :=
  let e := kExpOf w ex el
  let neg := decide (el / 2 ^ (w - 2) % 2 = 1)
  let m := el % 2 ^ (w - 2)
  if e = 255 then 0x7FC00000
  else if e = 0 || m = 0 then (if neg then 0x80000000 else 0)
  else BitVec.ofNat 32 (fp32.roundNz FpMode.plain neg ((Q.ofInt m).scale ((e : Int) - 127 - (w - 3 : Nat)))).1

/-- The 32 values of a block as FP32 patterns. -/
def kDecode (w : Nat) (bs : List Byte) : List Word :=
  let ex := kExps w bs
  (List.range 32).map (fun j => kValue w ex (kElem w bs j))

/-- The magnitude of a finite FP32 pattern. -/
def magOf (x : Word) : Q := ((fin32 x).getD Q.zero).abs

/-- One element encoded under `(elo, ehi)` (R176), with its flags. -/
def kEncodeElem (w elo ehi : Nat) (x : Word) : Nat × Flags :=
  let mx := 2 ^ (w - 2) - 1
  let s := if x.getLsbD 31 then 2 ^ (w - 2) else 0
  let at' := fun (e : Nat) => rneInt ((magOf x).scale ((w - 3 : Nat) + 127 - (e : Int)))
  let exact := fun (el : Nat) => (fin32 (kValue w (elo, ehi) el)).any (fun v => v.eq ((fin32 x).getD Q.zero))
  let nx := fun (el : Nat) => (if exact el then (0 : Flags) else flagNX)
  if 1 ≤ elo && decide (at' elo ≤ mx) then
    let el := s + at' elo
    (el, nx el)
  else
    let q := at' ehi
    let el := 2 ^ (w - 1) + s + min q mx
    (el, nx el ||| (if mx < q then flagSAT else 0))

/-- The bytes of a block from its element codes and exponents (R160). -/
def kPackBytes (w elo ehi : Nat) (els : List Nat) : List Byte :=
  let n := (List.range 32).foldl (fun n j => n + els.getD j 0 * 2 ^ (w * j)) 0
  leBytes (4 * w) n ++ [BitVec.ofNat 8 elo, BitVec.ofNat 8 ehi, 0, 0]

/-- E_hi from the values (R176). -/
def kHi (vals : List Word) : Nat :=
  let big := vals.foldl (fun m x => if m.lt (magOf x) then magOf x else m) Q.zero
  if big.isZero then 0 else (max 1 (big.log2 + 127)).toNat

/-- Encoding 32 FP32 values into a block, with E_hi chosen by R176 or given by R178. -/
def kEncode (w d : Nat) (given : Option Nat) (vals : List Word) : List Byte × Flags :=
  if vals.any (fun x => (fin32 x).isNone) then
    (kPackBytes w 255 255 (List.replicate 32 (2 ^ (w - 1))), flagIV)
  else
    let ehi := given.getD (kHi vals)
    let elo := if ehi ≤ d then 0 else ehi - d
    let r := vals.map (kEncodeElem w elo ehi)
    (kPackBytes w elo ehi (r.map (fun x => x.1)), r.foldl (fun f x => f ||| x.2) 0)

/-! ## C3 (R161) -/

/-- Index `j` of a C3 block. -/
def c3Index (bs : List Byte) (j : Nat) : Nat := leNat bs / 2 ^ (3 * j) % 8
/-- The entries of a table. -/
def c3Table (bs : List Byte) : List Half16 := (List.range 8).map (fun k => BitVec.ofNat 16 (leNat ((bs.drop (2 * k)).take 2)))

/-! ## The instructions -/

/-- A K word: every lane supplies A, and every lane that has not exited receives D (R175), so their `v[ik]` registers are all
read and written (R64, R83, R84). A lane whose guard failed and whose
`v[ik]` number, which no check bounds there, lies outside the allocation receives nothing (log 53). -/
def runK (g : Guard) (h : Hold) (d a : Reg) (b : Option Reg) (n : Nat)
    (res : Env → FmtSlot → Except Trap (List Word × Flags)) (s : State) : Host.Outcome State Fault Refusal :=
  runGroup { fpForm g h d (some a) b none with
    pre := fun _ => none
    also := fun e => e.indexed a (List.range 32)
    alsoD := fun e => e.indexed d (LaneMask.toList e.g.live) } (fun e s => do
    let f ← slotCheck e.gr n FmtSlot.isK
    let r ← res e f
    .ok (e.fpEnd r.2 (flagIV ||| flagSAT) (fun s =>
      s.writeV e.core e.slot (((LaneMask.toList e.g.live).map (fun l => (e.vnum d l, l, r.1.getD l 0))).filter
        (fun x => decide (x.1 < e.g.nregs)))) s)) s

/-- The words of a block, one a lane, zero past the end. -/
def kWords (bs : List Byte) : List Word :=
  (List.range 32).map (fun l => BitVec.ofNat 32 (leNat ((bs.drop (4 * l)).take 4)))

/-- The block bytes that A holds across the lanes. -/
def Env.kBlock (e : Env) (w : Nat) (a : Reg) : List Byte :=
  (List.range (w + 1)).flatMap (fun l => leBytes 4 (e.rd a l).toNat)

/-- `kpack` (R176). -/
def execKpack (g : Guard) (h : Hold) (d a : Reg) (slot : Fin 8) (s : State) :=
  runK g h d a none slot.val (fun e f =>
    let r := kEncode (kWidth f.kind) f.d.toNat none
      ((List.range 32).map (fun l => if e.g.live.getLsbD l then e.rd a l else 0))
    .ok (kWords r.1, r.2)) s

/-- `kunpk` (R177). -/
def execKunpk (g : Guard) (h : Hold) (d a : Reg) (slot : Fin 8) (s : State) :=
  runK g h d a none slot.val (fun e f =>
    let w := kWidth f.kind
    let bs := e.kBlock w a
    let bad := (List.range 32).any (fun j => kExpOf w (kExps w bs) (kElem w bs j) == 255)
    .ok (kDecode w bs, if bad then flagIV else 0)) s

/-- `rqz` (R178). -/
def execRqz (g : Guard) (h : Hold) (d a b : Reg) (slot : Fin 8) (s : State) :=
  runK g h d a (some b) slot.val (fun e f =>
    let w := kWidth f.kind
    let bs := e.kBlock w a
    let t := (e.sc b).toNat % 256
    if t = 255 then .error (trapOf Causes.formatOperand)
    else
      let vals := if (kExps w bs).1 = 255 || (kExps w bs).2 = 255 then List.replicate 32 0x7FC00000 else kDecode w bs
      let r := kEncode w f.d.toNat (if t = 0 then none else some t) vals
      .ok (kWords r.1, r.2)) s

end Sys2Proof.Machine
end

