-- ==== Sys2Proof/Machine/Launch.lean ====
section
/-! DEFINITION. SHA-256, the reproducibility signature (R156), the object header (R52) and tail-drop table (R54),
and the launch record with its checks (R95, R96, R343). -/

namespace Sys2Proof.Machine

open Sys2Proof

/-! ## SHA-256 (FIPS 180-4) -/

def shaK : List Word :=
  [0x428a2f98#32, 0x71374491#32, 0xb5c0fbcf#32, 0xe9b5dba5#32, 0x3956c25b#32, 0x59f111f1#32, 0x923f82a4#32, 0xab1c5ed5#32,
   0xd807aa98#32, 0x12835b01#32, 0x243185be#32, 0x550c7dc3#32, 0x72be5d74#32, 0x80deb1fe#32, 0x9bdc06a7#32, 0xc19bf174#32] ++
  [0xe49b69c1#32, 0xefbe4786#32, 0x0fc19dc6#32, 0x240ca1cc#32, 0x2de92c6f#32, 0x4a7484aa#32, 0x5cb0a9dc#32, 0x76f988da#32,
   0x983e5152#32, 0xa831c66d#32, 0xb00327c8#32, 0xbf597fc7#32, 0xc6e00bf3#32, 0xd5a79147#32, 0x06ca6351#32, 0x14292967#32] ++
  [0x27b70a85#32, 0x2e1b2138#32, 0x4d2c6dfc#32, 0x53380d13#32, 0x650a7354#32, 0x766a0abb#32, 0x81c2c92e#32, 0x92722c85#32,
   0xa2bfe8a1#32, 0xa81a664b#32, 0xc24b8b70#32, 0xc76c51a3#32, 0xd192e819#32, 0xd6990624#32, 0xf40e3585#32, 0x106aa070#32] ++
  [0x19a4c116#32, 0x1e376c08#32, 0x2748774c#32, 0x34b0bcb5#32, 0x391c0cb3#32, 0x4ed8aa4a#32, 0x5b9cca4f#32, 0x682e6ff3#32,
   0x748f82ee#32, 0x78a5636f#32, 0x84c87814#32, 0x8cc70208#32, 0x90befffa#32, 0xa4506ceb#32, 0xbef9a3f7#32, 0xc67178f2#32]

/-- The initial hash value. -/
def shaInit : List Word :=
  [0x6a09e667#32, 0xbb67ae85#32, 0x3c6ef372#32, 0xa54ff53a#32, 0x510e527f#32, 0x9b05688c#32, 0x1f83d9ab#32, 0x5be0cd19#32]

/-- A big-endian word. -/
def beWord (bs : List Byte) : Word := BitVec.ofNat 32 (leNat (bs.take 4).reverse)

/-- The message schedule of a block, newest word first. -/
def shaSchedule (blk : List Byte) : List Word :=
  (List.range 48).foldl (fun (w : List Word) _ =>
    let a := w.getD 1 0
    let b := w.getD 14 0
    let s1 := a.rotateRight 17 ^^^ a.rotateRight 19 ^^^ (a >>> 10)
    let s0 := b.rotateRight 7 ^^^ b.rotateRight 18 ^^^ (b >>> 3)
    (w.getD 15 0 + s0 + w.getD 6 0 + s1) :: w)
    ((List.range 16).map (fun i => beWord (blk.drop (4 * i)))).reverse

/-- One round on the working variables `a` to `h`. -/
def shaRound (v : List Word) (k w : Word) : List Word :=
  match v with
  | [a, b, c, d, e, f, g, h] =>
    let t1 := h + (e.rotateRight 6 ^^^ e.rotateRight 11 ^^^ e.rotateRight 25) + ((e &&& f) ^^^ (~~~e &&& g)) + k + w
    let t2 := (a.rotateRight 2 ^^^ a.rotateRight 13 ^^^ a.rotateRight 22) + ((a &&& b) ^^^ (a &&& c) ^^^ (b &&& c))
    [t1 + t2, a, b, c, d + t1, e, f, g]
  | _ => v

/-- The compression of a 64-byte block. -/
def shaBlock (h : List Word) (blk : List Byte) : List Word :=
  let w := (shaSchedule blk).reverse
  let v := (shaK.zip w).foldl (fun v x => shaRound v x.1 x.2) h
  (h.zip v).map (fun x => x.1 + x.2)

/-- The padded message. -/
def shaPad (m : List Byte) : List Byte :=
  m ++ [0x80] ++ List.replicate ((119 - m.length % 64) % 64) 0 ++ (leBytes 8 (8 * m.length)).reverse

/-- The digest, byte 0 first. -/
def sha256 (m : List Byte) : List Byte :=
  let p := shaPad m
  let h := (List.range (p.length / 64)).foldl (fun h i => shaBlock h ((p.drop (64 * i)).take 64)) shaInit
  h.flatMap (fun w => (leBytes 4 w.toNat).reverse)

/-- Digest bytes 0 to 7 as a signature (R156). -/
def sigOf (m : List Byte) : Dword := BitVec.ofNat 64 (leNat ((sha256 m).take 8))

/-- The signature after a write that changes `FPCTL` (R156). -/
def nextSig (old : Dword) (fpctl : Word) : Dword := sigOf (leBytes 8 old.toNat ++ leBytes 4 fpctl.toNat)

/-! ## The launch record (R95) -/

/-- A field of `n` bytes at an offset. -/
def recNat (bs : List Byte) (off n : Nat) : Nat := leNat ((bs.drop off).take n)

/-- A slot of the record (R162). -/
def parseSlot (bs : List Byte) (i : Nat) : FmtSlot where
  kind := bs.getD (0x40 + 8 * i) 0
  bsc := bs.getD (0x41 + 8 * i) 0
  d := bs.getD (0x42 + 8 * i) 0
  ro := bs.getD (0x43 + 8 * i) 0
  off := BitVec.ofNat 32 (recNat bs (0x44 + 8 * i) 4)

/-- The fields of a record. -/
def parseRecord (bs : List Byte) : LaunchRec where
  tag := BitVec.ofNat 16 (recNat bs 0 2)
  fmt := bs.getD 2 0
  ver := bs.getD 3 0
  flags := BitVec.ofNat 32 (recNat bs 4 4)
  code := BitVec.ofNat 64 (recNat bs 8 8)
  entry := BitVec.ofNat 32 (recNat bs 0x10 4)
  xentry := BitVec.ofNat 32 (recNat bs 0x14 4)
  teams := recNat bs 0x18 2
  gpt := recNat bs 0x1A 1
  dlim := recNat bs 0x1B 1
  blk := recNat bs 0x1C 1
  aff := recNat bs 0x1D 1
  idx := recNat bs 0x1E 1
  scratch := recNat bs 0x20 4
  vault := recNat bs 0x24 4
  symq := BitVec.ofNat 16 (recNat bs 0x28 2)
  fpctl := BitVec.ofNat 32 (recNat bs 0x2C 4)
  tvt := BitVec.ofNat 64 (recNat bs 0x30 8)
  tdt := BitVec.ofNat 64 (recNat bs 0x38 8)
  slots := (List.range 8).map (parseSlot bs)
  args := BitVec.ofNat 64 (recNat bs 0x80 8)
  resaddr := BitVec.ofNat 64 (recNat bs 0x88 8)
  phtmov := BitVec.ofNat 32 (recNat bs 0x90 4)
  dclass := bs.getD 0x94 0

/-- A reserved bit of a record is set (R95). The reserved bits of `FPCTL` are not among them (log 20). -/
def reservedSet (bs : List Byte) : Bool :=
  recNat bs 4 4 / 16 != 0 || recNat bs 0x1F 1 != 0 || recNat bs 0x2A 2 != 0 || recNat bs 0x95 3 != 0 ||
    (bs.drop 0x98).any (fun b => b != 0)

/-- A format slot follows R162. -/
def FmtSlot.ok (f : FmtSlot) : Bool :=
  let k := f.kind.toNat
  if k = 0 then f.bsc == 0 && f.d == 0 && f.ro == 0 && f.off == 0
  else if f.isIeee then f.bsc == 0 && f.d == 0 && decide (f.ro.toNat ≤ 4) && f.off == 0
  else if f.isK then f.bsc == 5 && decide (f.d.toNat ≤ 31) && decide (f.ro.toNat ≤ 1) && f.off == 0
  else if f.isC3 then f.bsc == 7 && f.d == 0 && f.ro == 0 && f.off.toNat % 16 == 0
  else if f.isInt then
    decide (f.bsc.toNat ≤ 12) && f.d == 0 && decide (f.ro.toNat ≤ 4) &&
      (if f.bsc = 0 then f.off == 0 else f.off.toNat % 4 == 0)
  else false

/-- A team fits an empty core (R86). -/
def LaunchRec.fits (r : LaunchRec) : Bool :=
  decide ((r.gpt + 3) / 4 * r.blk ≤ 32) && decide (r.scratch ≤ Config.scratchBytes) && decide (r.vault ≤ Config.spillBase)

/-- Regions are sorted, do not overlap and end above where they begin (R54, R343). -/
def regionsOk (t : List (Word × Word)) : Bool :=
  t.all (fun x => decide (x.1.toNat < x.2.toNat)) && (t.zip (t.drop 1)).all (fun x => decide (x.1.2.toNat ≤ x.2.1.toNat))

/-- The tail-drop table is well formed as far as it could be read (R54, R343): its count, and its regions. -/
def tailsOk (count : Nat) (t : Option (List (Word × Word))) : Bool :=
  decide (1 ≤ count) && decide (count ≤ 64) && t.all regionsOk

/-- What the command processor reads through a record: the object header's CODESZ, XSZ, TRAPSZ, TAILSZ and DATASZ,
the code and exchange program, and the tail-drop table. -/
structure ObjectRead where
  codesz : Nat
  xsz : Nat
  trapsz : Nat
  tailsz : Nat
  datasz : Nat
  code : List Byte
  xcode : List Byte

/-- Reading the object of a record through the page table; none if any of it cannot be read. -/
def readObject (s : State) (p : Nat) (r : LaunchRec) : Option ObjectRead := do
  let base := r.code.toNat
  let h ← s.bytesAt p (base + 2 ^ 48 - 0x200) 32
  let sz := fun i => leNat ((h.drop (4 * i)).take 4)
  let code ← s.bytesAt p base (sz 2)
  let xcode ← s.bytesAt p (base + r.xentry.toNat) (sz 3)
  pure { codesz := sz 2, xsz := sz 3, trapsz := sz 4, tailsz := sz 5, datasz := sz 6, code := code, xcode := xcode }

/-- Reading the tail-drop table: the count, with up to 64 regions where they too can be read. The whole opening dword is taken as the
count, its bits [63:32] too, for which R54 names no fault: the model's choice (log 69). -/
def readTails (s : State) (p : Nat) (r : LaunchRec) : Option (Nat × Option (List (Word × Word))) := do
  let h ← s.bytesAt p r.tdt.toNat 8
  let n := leNat h
  pure (n, (s.bytesAt p (r.tdt.toNat + 8) (8 * min n 64)).map (fun b => (List.range (min n 64)).map (fun i =>
    (BitVec.ofNat 32 (recNat b (8 * i) 4), BitVec.ofNat 32 (recNat b (8 * i + 4) 4)))))

/-- The start of the section after an end (R51): its first multiple of 0x100 at or after it. -/
def align100 (n : Nat) : Nat := (n + 255) / 256 * 256

/-- Where the data image lies, from CODE (R51). -/
def ObjectRead.dataOff (o : ObjectRead) : Nat :=
  let next := fun (e sz : Nat) => if sz = 0 then e else align100 e + sz
  align100 (next (next (next o.codesz o.xsz) o.trapsz) o.tailsz)

/-- The bytes that `REPSIG` starts from (R156). The initial FPCTL is the field of the record as it stands, its reserved bits
included (log 59). -/
def repsigInput (rec : List Byte) (r : LaunchRec) (o : ObjectRead) : List Byte :=
  let zero := fun (l : List Byte) off => l.take off ++ List.replicate 8 0 ++ l.drop (off + 8)
  [0x08, 0x30, 0x38, 0x80, 0x88].foldl zero rec ++ leBytes 4 r.fpctl.toNat ++ [r.ver] ++ o.code ++ o.xcode

/-- The first failure of R343 in its order, for a record that was read. `dep` is the DEPCNT failure of a ring
node (R94). -/
def launchFault (bs : List Byte) (r : LaunchRec) (dep : Bool) (tails : Option (Nat × Option (List (Word × Word))))
    (obj : Option ObjectRead) : Option Cause :=
  let checks : List (Bool × Cause) :=
    [(r.tag != 0x4B59 || r.fmt != 1 || r.ver == 0 || decide (3 < r.ver.toNat), Causes.launchTag),
     (reservedSet bs, Causes.launchReserved),
     (r.code.toNat % 256 != 0 || r.entry.toNat % 8 != 0 || r.xentry.toNat % 8 != 0, Causes.launchAlign),
     (r.xgrp != (r.xentry != 0) || r.tail != (r.tdt != 0), Causes.launchFlags),
     (r.teams == 0 || r.gpt == 0 || decide (16 < r.gpt) || r.blk == 0 || decide (12 < r.blk) || decide (8 < r.aff) ||
       decide (8 < r.idx) || decide (10 < r.dlim) || decide (r.blk < r.aff + 1), Causes.launchRange),
     (!r.fits, Causes.launchFit),
     (r.scratch % 16 != 0 || r.vault % 65536 != 0, Causes.launchSize),
     (r.slots.any (fun f => !f.ok), Causes.launchSlot),
     (decide (7 < r.dclass.toNat), Causes.launchDclass),
     (r.tail && tails.any (fun t => !tailsOk t.1 t.2), Causes.launchTail),
     (dep, Causes.launchDepcnt),
     ((r.tail && (tails.bind (fun t => t.2)).isNone) || obj.isNone, Causes.launchRead)]
  (checks.find? (fun x => x.1)).map (fun x => x.2)

/-- Submitting a record to the command processor of partition `p`: a launch fault, or the new grid, whose hash
begins (R94, R96, R156). -/
def State.submit (s : State) (p : Nat) (rec : Option (List Byte)) (at' : Dword) (dep : Bool) (node : Dword) (queue : Nat)
    (parent : Option (Nat × Nat × Nat)) (depth limit : Nat) : Except Cause State :=
  match rec with
  | none => .error Causes.launchRead
  | some bs =>
    let r := parseRecord bs
    let tails := if r.tail then readTails s p r else none
    let obj := readObject s p r
    match launchFault bs r dep tails obj, obj with
    | some c, _ => .error c
    | none, none => .error Causes.launchRead
    | none, some o =>
      let own := if r.dlim = 0 then 10 else r.dlim
      .ok { s with
        nextId := s.nextId + 1
        grids := s.grids ++ [{ Grid.zero with
          id := s.nextId
          part := p
          lrec := r
          lrecAt := at'
          node := node
          queue := queue
          parent := parent
          depth := depth
          limit := min limit own
          order := s.nextId
          codesz := o.codesz
          xsz := o.xsz
          dataOff := o.dataOff
          datasz := o.datasz
          repsig := sigOf (repsigInput bs r o)
          tails := (tails.bind (fun t => t.2)).getD []
          teamsLeft := r.teams
          phase := .hashing }] }

end Sys2Proof.Machine
end

