-- ==== Sys2Proof/Machine/Teams.lean ====
section
/-! DEFINITION. Placing teams, starting groups and ending teams (R86-R88, R97, R110, R187, R206, R241, R272, R312,
R361). -/

namespace Sys2Proof.Machine

open Sys2Proof

/-! ## Register blocks of a scheduler (R90) -/

/-- The physical blocks of a scheduler that no resident group holds. A spilled group holds none. -/
def Core.freeBlocks (k : Core) (sched : Nat) : List Nat :=
  let used := k.groupList.flatMap (fun x => if x.1 / 4 = sched && x.2.spill.isNone then x.2.blocks else [])
  (List.range Config.blocksPerSched).filter (fun b => !used.contains b)

/-- The lowest free slot of a scheduler. -/
def Core.freeSlot (k : Core) (sched : Nat) : Option Nat :=
  ((List.range 4).map (fun i => 4 * sched + i)).find? (fun i => (k.group i).isNone)

/-- The scheduler with the most free blocks among those with a free slot, the lowest of equals (R86). -/
def Core.pickSched (k : Core) : Option Nat :=
  (List.range 4).foldl (fun best i =>
    if (k.freeSlot i).isNone then best
    else match best with
      | none => some i
      | some b => if (k.freeBlocks b).length < (k.freeBlocks i).length then some i else best) none

/-- Zeroing physical blocks of a scheduler. -/
def Core.zeroBlocks (k : Core) (sched : Nat) (bs : List Nat) : Core :=
  { k with regs := Store.clear k.regs (fun a => a / 16384 == sched && bs.contains (a % 16384 / 512)) }

/-! ## Groups (R88) -/

/-- A group in its starting state (R88, R339), before its place and its payload. -/
def Group.start (gr : Grid) (uid team index : Nat) (xgrp : Bool) (age : Nat) (blocks : List Nat) (pc : Word) : Group where
  uid := uid
  grid := gr.id
  team := team
  index := index
  xgrp := xgrp
  age := age
  skip := 0
  blocks := blocks
  spill := none
  live := allLanes
  splits := [some { pc := pc, mask := allLanes, stack := [], latch := [], since := 0 }, none, none, none]
  atH := false
  frame := { splits := [none, none, none, none], trapping := 0, helper := 0 }
  helper := 0
  s := [gr.lrec.args.setWidth 32, gr.lrec.args.extractLsb' 32 32] ++ List.replicate 22 0
  p := List.replicate 8 0
  i := []
  winLo := 0
  winHi := BitVec.ofNat 32 (16 * blocks.length)
  fpctl := gr.lrec.fpctl &&& 0x3F1F
  fpflg := 0
  repsig := gr.repsig
  tcause := 0
  tepc := 0
  tinfo := 0
  tlane := 0
  tvec := gr.lrec.tvt &&& ~~~7
  tsave := 0
  resmiss := 0
  cpyerr := 0
  xdln := false
  scopeEn := false
  scopeDem := false
  gskHit := false
  gskWp := 0
  gskSkid := 0
  arrived := false
  strag := false
  inflight := []
  logs := [none, none]
  gatherDue := false
  gatherLog := 0
  due := []
  raised := none
  wait := .ready
  wq := []
  copySeq := 0
  copyTags := []
  xferSeq := 0
  tg := List.replicate 8 { fault := false, miss := false, refused := false, late := false, count := 0 }
  atombSeq := 0
  xatomSeq := 0
  xdrainSeq := 0
  xcallSeq := 0
  barFlag := false
  barGen := 0
  barAt := none
  retPred := []

/-- Placing one group on a core: its scheduler by R86, its registers zero. Of that scheduler it takes the lowest free group slot and the
lowest free blocks, in ascending order: R86 leaves both open, and this is the model's choice (log 54). -/
def Core.placeGroup (k : Core) (n : Nat) (mk : List Nat → Group) : Option (Core × Nat) := do
  let sched ← k.pickSched
  let slot ← k.freeSlot sched
  let free := k.freeBlocks sched
  if free.length < n then none
  else
    let bs := free.take n
    some ((k.zeroBlocks sched bs).setGroup slot (some (mk bs)), slot)

/-- Placing groups in order; none unless all fit. -/
def Core.placeGroups (k : Core) (n : Nat) (mks : List (List Nat → Group)) : Option Core :=
  mks.foldl (fun (a : Option Core) mk => a.bind (fun k => (k.placeGroup n mk).map (fun x => x.1))) (some k)

/-! ## Allocations (R206, R361) -/

/-- The lowest multiple of 256 at which `n` free scratchpad bytes lie (R206). -/
def Core.findScratch (k : Core) (n : Nat) : Option Nat :=
  if n = 0 then some 0
  else
    let used := (k.teamList.map (fun x => (x.2.spb, x.2.scratch))).filter (fun x => x.2 != 0)
    ((List.range (Config.scratchBytes / 256)).map (fun i => 256 * i)).find? (fun b =>
      decide (b + n ≤ Config.scratchBytes) &&
        used.all (fun x => decide (b + n ≤ x.1) || decide (x.1 + x.2 ≤ b)))

/-- The valid entries of a table of `n` entries, with their indices. -/
def tableEntries (host : Memory) (base n : Nat) : List Dword :=
  ((List.range n).map (fun i => Memory.dword host (base + 8 * i))).filter (fun e => Pte.valid e && Pte.clean e)

/-- Every valid leaf of a partition's page table, with whether it maps 2 MiB (R208). -/
def leaves (host : Memory) (p : Partition) : List (Bool × Dword) :=
  let tables := fun (l : List Dword) => l.filter (fun e => !Pte.leaf e)
  let l1 := tables (tableEntries host ((p.ptroot.extractLsb' 12 40).toNat * 4096) 512)
  let l2 := tables (l1.flatMap (fun e => tableEntries host (Pte.addr e) 512))
  let l3 := l2.flatMap (fun e => tableEntries host (Pte.addr e) 512)
  let l4 := (tables l3).flatMap (fun e => tableEntries host (Pte.addr e) 32)
  (l3.filter Pte.leaf).map (fun e => (true, e)) ++ (l4.filter Pte.leaf).map (fun e => (false, e)) ++
    (p.apLeaves.filter (fun e => Pte.valid e.2 && Pte.clean e.2)).map (fun e => (false, e.2))

/-- The 64 KiB frames of a core's vault in use (R361). -/
def usedFrames (host : Memory) (p : Partition) (c : Nat) : List Nat :=
  (leaves host p).flatMap (fun x =>
    if Pte.res x.2 && Pte.core x.2 == c then
      (List.range (if x.1 then 32 else 1)).map (fun i => Pte.frame x.1 x.2 / 0x10000 + i)
    else [])

/-- The lowest free frames of a core's vault below the spill area. -/
def freeFrames (host : Memory) (p : Partition) (c n : Nat) : Option (List Nat) :=
  if n = 0 then some []
  else
    let used := usedFrames host p c
    let l := ((List.range (Config.spillBase / 0x10000)).filter (fun f => !used.contains f)).take n
    if l.length < n then none else some l

/-- Zeroing bytes of a vault. -/
def Core.zeroVault (k : Core) (a n : Nat) : Core :=
  { k with vault := Store.clear k.vault (fun x => decide (a ≤ x) && decide (x < a + n)) }
/-- Zeroing bytes of a scratchpad. -/
def Core.zeroScratch (k : Core) (a n : Nat) : Core :=
  k.modSp (fun m => Store.clear m (fun x => decide (a ≤ x) && decide (x < a + n)))

/-- A resident, writable 64 KiB leaf with no backing. -/
def residentLeaf (c frame : Nat) : Dword :=
  BitVec.ofNat 64 (0xF + frame * 0x10000 + c * 2 ^ 56)

/-! ## Apertures (R206, R361) -/

/-- The 64 KiB granules of a team's aperture. -/
def apertureGranules (c j vault : Nat) : List Nat :=
  (List.range (vault / 0x10000)).map (fun i => aperture c j / 0x10000 + i)

/-- Writing a leaf of an aperture: in the partition's page table where its path reaches level 4; else in a table of the
command processor's own (log 16). -/
def State.writeLeaf (s : State) (p granule : Nat) (e : Dword) : State :=
  match level4 s.host (s.part p) (granule * 0x10000) with
  | some a => { s with host := Memory.store s.host a (leBytes 8 e.toNat) }
  | none => s.modPart p (fun q => { q with apLeaves := q.apLeaves ++ [(granule, e)] })

/-- Words that an engine has written and that are not visible yet never reach storage that has been zeroed since (R206). -/
def State.dropLate (s : State) (f : WordPlace → Bool) : State := { s with late := s.late.filter (fun w => !f w.place) }

/-- A word that lies in `n` bytes of a scratchpad, or of a vault. -/
def WordPlace.inScratch (c a n : Nat) : WordPlace → Bool
  | .scratch d i => d == c && decide (a ≤ 4 * i) && decide (4 * i < a + n)
  | _ => false
def WordPlace.inVault (c a n : Nat) : WordPlace → Bool
  | .vault d i => d == c && decide (a ≤ 4 * i) && decide (4 * i < a + n)
  | _ => false

/-- A frame of a core is freed and zeroed. -/
def State.zeroFrame (s : State) (c a n : Nat) : State :=
  (s.modCore c (fun k => k.zeroVault a n)).dropLate (WordPlace.inVault c a n)

/-- Removing a leaf of an aperture: the frame that it then names is freed and zeroed, on whichever core (R361). -/
def State.removeLeaf (s : State) (p granule : Nat) : State :=
  match walk s.host (s.part p) (granule * 0x10000) with
  | none => s.modPart p (fun q => { q with apLeaves := q.apLeaves.filter (fun e => e.1 != granule) })
  | some l =>
    let s1 := if Pte.res l.pte then s.zeroFrame (Pte.core l.pte) (Pte.frame l.big l.pte) (pageSize l.big) else s
    match l.ref with
    | .host _ => s1.putLeaf p l.ref 0
    | _ => s1.modPart p (fun q => { q with apLeaves := q.apLeaves.filter (fun e => e.1 != granule) })

/-- Removing a team's aperture, with every translation of it that a core of the partition holds, and the lines that its bounce
pools hold for it (log 24). -/
def State.removeAperture (s : State) (p c j vault : Nat) : State :=
  let first := aperture c j / 0x10000
  let n := vault / 0x10000
  let s1 := (apertureGranules c j vault).foldl (fun s g => s.removeLeaf p g) s
  let s2 := (s.part p).coreList.foldl (fun s d => s.modCore d (fun k => k.dropPages first n)) s1
  (s.part p).clusterList.foldl (fun s i => s.modCluster i (fun k => { k with bounce := k.bounce.filter (fun b =>
    !(b.part == p && decide (first ≤ b.line / 512) && decide (b.line / 512 < first + n))) })) s2

/-! ## The end of a team (R110, R206, R272, R312) -/

/-- Clearing the matrix unit and the cruiser (R241). -/
def Core.clearUnit (k : Core) : Core :=
  { k with planes := [], acc := [], mclosed := 0, mdone := 0, act := false, tables := [], cruiser := none, run := none,
           mowner := none, lsRan := false, times := { k.times with passed := false, classes := UnitTimes.zero.classes } }

/-- The call packets queued for a team are discarded (R312). -/
def State.dropCalls (s : State) (c : Nat) (t : Team) : State :=
  s.modCluster (c / 8) (fun k =>
    { k with calls := k.calls.set (c % 8) ((k.calls.getD (c % 8) []).filter (fun x => !(x.grid == t.grid && x.team == t.num))) })

/-- Whether an atomic acts on `n` bytes of a core's scratchpad, or of partition-virtual addresses. -/
def AtomPlace.inScratch (c a n : Nat) : AtomPlace → Bool
  | .scratch d off => d == c && decide (a ≤ off) && decide (off < a + n)
  | _ => false
def AtomPlace.inPages (a n : Nat) : AtomPlace → Bool
  | .vault _ va => decide (a ≤ va) && decide (va < a + n)
  | _ => false

/-- Atomics buffered in a partition for storage that has gone are dropped. -/
def State.dropAtoms (s : State) (p : Partition) (f : AtomPlace → Bool) : State :=
  let drop := fun (l : List AtomEntry) => l.filter (fun a => !f a.place)
  p.clusterList.foldl (fun s i => s.modCluster i (fun k => { k with ratoms := drop k.ratoms, held := drop k.held }))
    (p.coreList.foldl (fun s c => s.modCore c (fun k => { k with atoms := drop k.atoms })) s)

/-- A team ends (R110, R206, R241, R272, R361): the contexts it holds open close, its aperture is removed and its frames are freed and
zeroed, its scratchpad bytes are zeroed, what is still buffered or on its way for that storage is dropped, the matrix unit is cleared
where the team owns it, its slot is free, and its grid has one team fewer. -/
def State.endTeam (s : State) (c j : Nat) : State :=
  match s.team c j with
  | none => s
  | some t =>
    let p := s.partOf c
    let s1 := s.dropAtoms (s.part p) (fun a => a.inScratch c t.spb t.scratch || a.inPages (aperture c j) t.vault)
    let s2 := if t.vault = 0 then s1 else s1.removeAperture p c j t.vault
    let s3 := s2.modCore c (fun k =>
      let k1 := if k.mowner = some j then k.clearUnit else k
      { (k1.zeroScratch t.spb t.scratch).setTeam j none with ctxs := k1.ctxs.map (fun x => x.filter (fun y => y.team != j)) })
    (s3.dropLate (WordPlace.inScratch c t.spb t.scratch)).modGrid t.grid (fun g => { g with teamsLeft := g.teamsLeft - 1 })

/-! ## When a grid has finished (R89, R94, R331) -/

/-- The resident groups of a partition, with their cores and slots. -/
def State.partGroups (s : State) (p : Partition) : List (Nat × Nat × Group) :=
  p.coreList.flatMap (fun c => (s.core c).groupList.map (fun x => (c, x.1, x.2)))

/-- No group is resident in a partition. -/
def State.noGroups (s : State) (p : Partition) : Bool := (s.partGroups p).isEmpty

/-- What a grid has buffered or staged for a landing. -/
def State.staging (s : State) (g : Grid) : Bool :=
  let p := s.part g.part
  p.coreList.any (fun c => (s.core c).atoms.any (fun a => a.grid == g.id) || (s.core c).moves.any (fun m => m.grid == g.id)) ||
    p.clusterList.any (fun i => (s.cluster i).ratoms.any (fun a => a.grid == g.id) || (s.cluster i).staged.any (fun r => r.grid == g.id))

/-- Work of a team's that is still queued or running on its core's engines. -/
def Core.teamBusy (k : Core) (j : Nat) : Bool :=
  k.copies.any (fun x => x.team == j) || k.decq.any (fun x => x.team == j) || k.mq.any (fun x => x.team == j) ||
    k.cq.any (fun x => x.team == j) || k.xfers.any (fun x => x.team == j) || k.run.any (fun r => r.team == j)

/-- A team's groups have all ended and its engine work is done, so that it may end (R110, R241, R365). -/
def Core.teamOver (k : Core) (j : Nat) : Bool :=
  (k.team j).any (fun t => t.ending) && (k.teamSlots j).isEmpty && !k.teamBusy j

/-- All of a grid's teams but `n` have ended, none of them waits for a place, and every child that it launched has retired (R89). -/
def State.teamsLeft (s : State) (g : Grid) (n : Nat) : Bool :=
  g.phase == .resident && decide (g.lrec.teams ≤ g.nextTeam) && g.teamsLeft == n &&
    !s.grids.any (fun x => x.parent.any (fun p => p.1 == g.id))

/-- The end of a grid's last team is the grid's retirement: nothing that it has buffered or staged waits for a landing (log 24). -/
def State.endsGrid (s : State) (g : Grid) : Bool := s.teamsLeft g 1 && !s.staging g

/-- The teams of a grid that are over, with their cores and slots. -/
def State.overTeams (s : State) (g : Grid) : List (Nat × Nat) :=
  (s.part g.part).coreList.flatMap (fun c =>
    (((s.core c).teamList.filter (fun x => x.2.grid == g.id && (s.core c).teamOver x.1)).map (fun x => (c, x.1))))

/-- A grid has nothing left but, at most, a last team that is over, and every effect of it is visible but for late words (R331). What
it has buffered waits for a landing; where no group is resident, and so no landing comes (R98), its retirement applies it (log 24). -/
def State.finished (s : State) (g : Grid) : Bool :=
  (s.teamsLeft g 0 && (!s.staging g || s.noGroups (s.part g.part))) || (s.endsGrid g && !(s.overTeams g).isEmpty)

/-- Some team of a partition is over and has not ended, which neither a landing nor a placement passes by (log 24). -/
def State.overLeft (s : State) (p : Partition) : Bool :=
  p.coreList.any (fun c => (s.core c).teamList.any (fun x => (s.core c).teamOver x.1))

/-! ## Placing a team (R86, R97) -/

/-- DET keeps other grids' teams off a core (R97). -/
def State.coreOpen (s : State) (c : Nat) (gr : Grid) : Bool :=
  (s.core c).teamList.all (fun x => x.2.grid == gr.id || (!gr.lrec.det && !(s.grid x.2.grid).lrec.det))

/-- The bytes of a grid's data image, a byte that cannot be read being zero (R43, log 23). Of an image longer than VAULT, which
no assembler makes and for which R43 names no behaviour, the first VAULT bytes are taken (log 23). -/
def State.dataImage (s : State) (gr : Grid) : List Byte :=
  (List.range (min gr.datasz gr.lrec.vault)).map (fun i =>
    (s.byteAt gr.part ((gr.lrec.code.toNat + gr.dataOff + i) % 2 ^ 48)).getD 0)

/-- The groups of a team, in index order, as functions of their blocks (R87, R88). -/
def teamGroups (gr : Grid) (slot age : Nat) : List (List Nat → Group) :=
  (List.range gr.lrec.gpt).map (fun i =>
    let x := gr.lrec.xgrp && i + 1 == gr.lrec.gpt
    fun bs => Group.start gr (age + i) slot i x age bs (if x then gr.lrec.xentry else gr.lrec.entry))

/-- A resident slot of a core that a saved team keeps (R348). -/
def Partition.slotKept (p : Partition) (c j : Nat) : Bool :=
  p.hasImage && p.image.any (fun i => i.cores.any (fun x => x.1 == c && (x.2.team j).isSome))

/-- The command processor reads the format slots of a grid's record when it becomes resident (R163): at a host address for a
node's record, through the page table for a child's. Slots that cannot be read stay as they were at the launch, and one that has
become malformed is taken as it is (log 56). -/
def State.readSlots (s : State) (gr : Grid) : List FmtSlot :=
  let bytes := match gr.parent with
    | none => some (Memory.bytes s.host gr.lrecAt.toNat 256)
    | some _ => s.bytesAt gr.part (gr.lrecAt.toNat % 2 ^ 48) 256
  match if gr.phase == .waiting then bytes else none with
  | some bs => (List.range 8).map (parseSlot bs)
  | none => gr.lrec.slots

/-- The next team of a grid on a core, if it has room (R86); the grid is then resident. The team takes the lowest free resident slot of
the core, which R15, R86 and R206 leave open (log 54). -/
def State.placeOn (s : State) (gr : Grid) (c : Nat) : Option State := do
  let k := s.core c
  let p := s.part gr.part
  if !s.coreOpen c gr then none
  else
    let j ← (List.range 16).find? (fun j => (k.team j).isNone && !p.slotKept c j)
    let spb ← k.findScratch gr.lrec.scratch
    let frames ← freeFrames s.host p c (gr.lrec.vault / 0x10000)
    let k1 ← k.placeGroups gr.lrec.blk (teamGroups gr j s.nextId)
    let t : Team := { Team.zero with
      grid := gr.id
      num := gr.nextTeam
      spb := spb
      scratch := gr.lrec.scratch
      vault := gr.lrec.vault
      age := s.nextId
      afquota := gr.lrec.symq
      children := List.replicate 8 none }
    let k2 := frames.foldl (fun k f => k.zeroVault (f * 0x10000) 0x10000) ((k1.zeroScratch spb gr.lrec.scratch).setTeam j (some t))
    let image := s.dataImage gr
    let k3 := { k2 with vault := Store.writeAll k2.vault ((List.range image.length).map (fun i =>
      (frames.getD (i / 0x10000) 0 * 0x10000 + i % 0x10000, image.getD i 0))) }
    let s1 := ((apertureGranules c j gr.lrec.vault).zip frames).foldl (fun s x => s.writeLeaf gr.part x.1 (residentLeaf c x.2))
      (s.setCore c k3)
    let slots := s.readSlots gr
    some { s1.modGrid gr.id (fun g =>
      { g with nextTeam := g.nextTeam + 1, phase := .resident, lrec := { g.lrec with slots := slots } }) with
      nextId := s.nextId + gr.lrec.gpt }

/-- The next team of a grid on the lowest core with room (R86). -/
def State.placeTeam (s : State) (gr : Grid) : Option State := (s.part gr.part).coreList.findSome? (s.placeOn gr)

/-- Placing a grid's waiting teams, in order, until one finds no room: at most one for each resident team slot. -/
def State.placeGrid (s : State) (id : Nat) : Nat → State × Bool
  | 0 => (s, false)
  | n + 1 =>
    let gr := s.grid id
    if gr.nextTeam < gr.lrec.teams then
      match s.placeTeam gr with
      | some s' => s'.placeGrid id n
      | none => (s, false)
    else (s, true)

/-- The grids of a partition in launch order. -/
def State.partGrids (s : State) (p : Nat) : List Grid :=
  sortBy (fun x y => decide (x.order ≤ y.order)) (s.grids.filter (fun g => g.part == p))

/-- The teams that wait are placed, strictly in launch order (R86, R98): a grid that is not placed whole, or whose hash
is not complete, holds back every later one. -/
def State.placeAll (s : State) (p : Nat) : State :=
  ((s.partGrids p).foldl (fun (a : State × Bool) (g : Grid) =>
    if !a.2 then a
    else match g.phase with
      | .hashing => (a.1, false)
      | .waiting | .resident => a.1.placeGrid g.id 4097
      | .saved | .removing => a) (s, true)).1

/-! ## Ending a team (R110, R241, R361) -/

/-- A team whose last group has ended ends once its engine work is done (R110, R241, R365). Of these, the owner of the matrix unit ends
with the clearing of the unit, and the team whose end is its grid's retirement with that (log 24). -/
def State.tryEndTeam (s : State) (c j : Nat) : State :=
  let k := s.core c
  match k.team j with
  | none => s
  | some t => if k.teamOver j && k.mowner != some j && !s.endsGrid (s.grid t.grid) then s.endTeam c j else s

/-- A team's last group has ended: no packet spawns a handler of it any more (R312). -/
def State.lastGroup (s : State) (c j : Nat) : State :=
  match s.team c j with
  | none => s
  | some t => ((s.dropCalls c t).modTeam c j (fun t => { t with ending := true })).tryEndTeam c j

/-- A group has ended: its slot and blocks are free, and its team ends with its last group (R78, R110). -/
def State.freeGroup (s : State) (c slot : Nat) : State :=
  match s.group c slot with
  | none => s
  | some g =>
    let s1 := (s.drainQueue c slot (fun _ => true)).modCore c (fun k =>
      { k.setGroup slot none with
        lastPage := k.lastPage.filter (fun e => e.key / 32 != slot)
        walks := k.walks.map (fun w => if w.slot = slot then { w with lanes := 0 } else w) })
    if ((s1.core c).teamSlots g.team).isEmpty then s1.lastGroup c g.team else s1

end Sys2Proof.Machine
end

