-- ==== Sys2Proof/Machine/Control.lean ====
section
/-! DEFINITION. Row 0x0 and `brk`: branches, barriers, exits, children, phases and block growth (R104-R118, R347),
with the events that end or resume what they start. -/

namespace Sys2Proof.Machine

open Sys2Proof

/-! ## Copy tags (R234) and waits (R80) -/

/-- The copies of a group that are outstanding. -/
def Core.copiesOf (k : Core) (uid : Nat) : List CopyCmd := k.copies.filter (fun x => x.uid == uid)

/-- Whether the copy a tag names has completed; none if the tag is not the group's (R234). `copyTags` lists the
group's tags, newest first. -/
def Core.tagDone (k : Core) (slot : Nat) (g : Group) (tag : Word) : Option Bool :=
  let seq := tag.extractLsb' 16 16
  let cs := tag.extractLsb' 0 3
  let own := (tag.extractLsb' 8 8).toNat == slot && tag.extractLsb' 3 5 == 0 && g.copyTags.contains (seq, cs)
  if own then
    some (!(g.copyTags.take 8).contains (seq, cs) || !(k.copiesOf g.uid).any (fun x => x.seq == seq && x.cslot == cs))
  else none

/-- Whether a tag operand names copies that have all completed: `none` names every copy of the group. -/
def Core.tagWait (k : Core) (slot : Nat) (g : Group) (tag : Option Word) : Option Bool :=
  match tag with
  | none => some (k.copiesOf g.uid).isEmpty
  | some t => k.tagDone slot g t

/-- A tag operand: a scalar, or every copy for `c0`. -/
def Env.tagOf (e : Env) (r : Reg) : Option Word :=
  match r with
  | .c _ => none
  | r => some (e.sc r)

/-- Batch `b` has completed when it is not ahead of the last one completed (R257). -/
def batchDone (done b : Word) : Bool := decide (0 ≤ (done - b).toInt)

/-- Whether what a group waits for is over. A word that stalls is tried again. -/
def Core.waitOver (k : Core) (slot : Nat) (g : Group) : Bool :=
  match g.wait with
  | .ready | .results | .stalled => true
  | .settle => !g.anyPending
  | .barw => (k.team g.team).any (fun t => decide (g.barGen < t.gen))
  | .chwait _ _ _ | .regrow _ => false
  | .fence skip => !g.wq.any (fun q => !skip.getLsbD q.col)
  | .cpyw tag | .yield tag => (k.tagWait slot g tag).getD true
  | .mwait b => batchDone k.mdone b
  | .lswait _ => k.run.isNone
  | .xwait tg _ => !k.xfers.any (fun x => x.uid == g.uid && (match tg with
      | none => true
      | some n => x.tg == n))

/-! ## Branches (R59, R106, R107) -/

/-- The byte displacement of a branch field. -/
def dispBytes (d : BitVec n) : Word := BitVec.ofInt 32 (8 * d.toInt)

/-- The reconvergence address of a branch; none when its displacement is 0 (R59). -/
def recAddr (pc : Word) (rdisp : BitVec 15) : Option Word := if rdisp = 0 then none else some (pc + dispBytes rdisp)

/-- Taking a branch (R76) after the word's latch record is made; `eff` is the word's other effect, made only when
the branch does not trap. -/
def Env.take (e : Env) (f : Form) (target next : Word) (rpc : Option Word) (t : LaneMask) (eff : State → State) (s : State) :
    Except Trap Eff :=
  match e.g.branch e.split target next rpc t with
  | .error c =>
    .error { cause := c, info := if c = Causes.divergentUniform then t.setWidth 64 else 0, lane := 0 }
  | .ok _ =>
    .ok (.jump ((eff (e.latch f s)).modGroup e.core e.slot (fun g =>
      match g.branch e.split target next rpc t with
      | .ok g' => { g' with wait := .ready }
      | .error _ => g)))

/-- `bra` (R106). -/
def execBra (g : Guard) (disp : BitVec 24) (rdisp : BitVec 15) (s : State) :=
  let f := Form.plain g
  runWord f (fun e s =>
    e.take f (e.sp.pc + dispBytes disp) (nextPc e.sp.pc) (recAddr e.sp.pc rdisp) e.act (fun s => s) s) s

/-- `call` (R106): the link is written in the taking lanes, and joins the return predictor. -/
def execCall (g : Guard) (d : Reg) (disp : BitVec 24) (rdisp : BitVec 15) (s : State) :=
  let f := { Form.plain g with dsts := [(d, 1)] }
  runWord f (fun e s =>
    let next := nextPc e.sp.pc
    e.take f (e.sp.pc + dispBytes disp) next (recAddr e.sp.pc rdisp) e.act (fun s =>
      let s1 := e.wr d (fun _ => next) s
      if e.act = 0 then s1 else e.modG (fun g => { g with retPred := (next :: g.retPred).take 4 }) s1) s) s

/-- `brx` and `ret` (R107). -/
def runIndirect (g : Guard) (h : Hold) (a : Reg) (rdisp : BitVec 15) (ret : Bool) (s : State) :
    Host.Outcome State Fault Refusal :=
  let f := { Form.plain g with held := heldReg h (some a) none none, srcs := [(a, 1)] }
  runWord f (fun e s =>
    match e.lanes.find? (fun l => (e.rd a l).toNat % 8 != 0) with
    | some l => .error { cause := Causes.misalignedTarget, info := e.gr.lrec.code + (e.rd a l).setWidth 64, lane := l }
    | none =>
      let target := e.rd a (LaneMask.lowest e.act)
      let t := LaneMask.ofFn (fun l => e.act.getLsbD l && e.rd a l == target)
      let next := if e.act &&& ~~~t = 0 then nextPc e.sp.pc else e.sp.pc
      e.take f target next (recAddr e.sp.pc rdisp) t (fun s =>
        if ret && e.act != 0 then e.modG (fun g => { g with retPred := g.retPred.drop 1 }) s else s) s) s

def execBrx (g : Guard) (h : Hold) (a : Reg) (rdisp : BitVec 15) (s : State) := runIndirect g h a rdisp false s
def execRet (g : Guard) (h : Hold) (a : Reg) (rdisp : BitVec 15) (s : State) := runIndirect g h a rdisp true s

/-- `nop` (R111). -/
def execNop (g : Guard) (s : State) := runEff (Form.plain g) (fun _ s => s) s

/-- `splitq` (R118), in helper lanes too: the model's reading (log 51). -/
def execSplitq (g : Guard) (d : Reg) (sel : SplitSel) (s : State) :=
  runEff { Form.plain g with dsts := [(d, 1)] } (fun e s =>
    let v : Word := match sel with
      | .mask => e.sp.mask
      | .count => BitVec.ofNat 32 e.g.splitList.length
      | .depth => BitVec.ofNat 32 e.sp.stack.length
      | .join => match e.sp.stack with
        | r :: _ => r.j
        | [] => 0xFFFFFFFF
    e.wr d (fun _ => v) s) s

/-! ## Barriers (R108) -/

/-- Setting the group's flag. -/
def Env.arriveBar (e : Env) (s : State) : State := e.modG (fun g => { g with barFlag := true, barGen := e.t.gen }) s
/-- Clearing it once the generation has advanced. -/
def Env.leaveBar (e : Env) (s : State) : State := e.modG (fun g => { g with barFlag := false, barAt := none }) s
/-- The generation in which the group's flag was set has ended. -/
def Env.barOver (e : Env) : Bool := decide (e.g.barGen < e.t.gen)
/-- Waiting for the other flags. -/
def Env.waitBar (e : Env) (s : State) : Except Trap Eff :=
  if e.barOver then .ok (.done (e.leaveBar s)) else .ok (.hold (e.waitFor .barw s))

def execBarr (g : Guard) (s : State) :=
  runGroup (Form.plain g) (fun e s =>
    if e.g.barFlag then .error (trapOf Causes.barrierSequence) else .ok (.done (e.arriveBar s))) s

def execBarw (g : Guard) (s : State) :=
  runGroup (Form.plain g) (fun e s => if e.g.barFlag then e.waitBar s else .error (trapOf Causes.barrierSequence)) s

/-- `bar`: `barr`, then `barw`. The group keeps the word in whose waiting half it stands, so that a `bar` that issues again after
a straggler trap took the group out of it does not set the flag again (R102, log 36). -/
def execBar (g : Guard) (s : State) :=
  runGroup (Form.plain g) (fun e s =>
    if e.g.barFlag && e.g.barAt == some e.sp.pc then e.waitBar s
    else if e.g.barFlag then .error (trapOf Causes.barrierSequence)
    else .ok (.hold (e.waitFor .barw (e.modG (fun g => { g with barAt := some e.sp.pc }) (e.arriveBar s))))) s

/-- Every group of a team that has not exited has set its flag in the present generation (R108). Handler groups take
no part (R312). -/
def Core.barrierFull (k : Core) (j : Nat) : Bool :=
  match k.team j with
  | none => false
  | some t =>
    let gs := (k.groupList.map (fun x => x.2)).filter (fun g => g.team == j && decide (g.index < 16) && g.live != 0)
    !gs.isEmpty && gs.all (fun g => g.barFlag && g.barGen == t.gen)

/-- The last flag is set: the generation advances (R108). -/
def execBarrierRelease (core : Fin 256) (team : Fin 16) (s : State) : Host.Outcome State Fault Refusal :=
  .next (if (s.core core.val).barrierFull team.val then
    s.modTeam core.val team.val (fun t => { t with gen := t.gen + 1 }) else s)

/-! ## Copies, phases, results -/

/-- `yield` (R109): at the target once the named copies are complete, its latch records cleared. -/
def execYield (g : Guard) (d : Reg) (disp : BitVec 24) (s : State) :=
  runGroup { Form.plain g with srcs := [(d, 1)] } (fun e s =>
    let tag := e.tagOf d
    match e.k.tagWait e.slot e.g tag with
    | none => .error { cause := Causes.invalidCopyTag, info := (e.sc d).setWidth 64, lane := 0 }
    | some false => .ok (.hold (e.waitFor (.yield tag) s))
    | some true => .ok (.jump (e.modG (fun g =>
        { (g.setPc e.split (e.sp.pc + dispBytes disp)).clearLatch with wait := .ready }) s))) s

/-- A group arrives or exits: its partition counts towards the straggler time-out (R102). -/
def State.startCount (s : State) (c : Nat) : State := s.modPart (s.partOf c) (fun p => { p with stragOn := true })

/-- `phase` (R114): it waits for pending results, then arrives. -/
def execPhase (g : Guard) (s : State) :=
  runGroup (Form.plain g) (fun e s =>
    if e.g.anyPending then .ok (.hold (e.waitFor .settle s))
    else .ok (.jump ((e.modG (fun g => { g.clearLatch with arrived := true }) (e.advance s)).startCount e.core))) s

/-- `post` (R115). -/
def execPost (g : Guard) (a : Reg) (s : State) :=
  runGroup { Form.plain g with srcs := [(a, 1)] } (fun e s =>
    .ok (.done (s.modGrid e.g.grid (fun gr => { gr with result := gr.result ||| e.sc a, posted := true })))) s

/-! ## Exits (R78, R110) -/

/-- `exit`: the passing lanes leave; a group's last live lanes first wait for its pending results (R85). -/
def execExit (g : Guard) (s : State) :=
  let f := { Form.plain g with log := true }
  runWord f (fun e s =>
    if e.act = 0 then .ok (.done s)
    else if e.g.live &&& ~~~e.act = 0 && e.g.anyPending then .ok (.hold (e.waitFor .settle s))
    else .ok (.jump ((e.latch f s).modGroup e.core e.slot (fun g =>
      let g1 := match g.split e.split with
        | some sp => g.setSplit e.split { sp with pc := nextPc e.sp.pc }
        | none => g
      { g1.exitLanes e.act with wait := .ready })))) s

/-- A group whose lanes have all exited ends once nothing of it is pending (R78, R110). -/
def execGroupEnd (core : Fin 256) (slot : Fin 16) (s : State) : Host.Outcome State Fault Refusal :=
  match s.group core.val slot.val with
  | some g => .next (if g.live = 0 && !g.anyPending then (s.freeGroup core.val slot.val).startCount core.val else s)
  | none => .next s

/-- The owner of a core's matrix unit ends once the unit's queue is empty and its `xdrain` words have read their rows, and its unit is
cleared (R241, R365); one whose end is its grid's retirement ends with that (log 24). -/
def execMatrixUnitClear (core : Fin 256) (s : State) : Host.Outcome State Fault Refusal :=
  let c := core.val
  let k := s.core c
  .next (match k.mowner with
    | some j => if k.teamOver j && !(k.team j).any (fun t => s.endsGrid (s.grid t.grid)) then s.endTeam c j else s
    | none => s)

/-! ## Children (R112, R113) -/

/-- `launch` (R112). The record is read at the low 48 bits of its address, aligned or not, for which no rule names a fault: the model's
choice (log 63). -/
def execLaunch (g : Guard) (d a : Reg) (s : State) :=
  runGroup { Form.plain g with dsts := [(d, 1)], srcs := [(a, 2)] } (fun e s =>
    if e.g.index != 0 then .error (trapOf Causes.launchNotLeader)
    else if !e.gr.lrec.child then .error (trapOf Causes.childDenied)
    else if e.gr.limit ≤ e.gr.depth then .error (trapOf Causes.nestingDepth)
    else match lowestFree e.t.children with
      | none => .error (trapOf Causes.childLimit)
      | some h =>
        let bytes := s.bytesAt e.gr.part ((e.rd64 a 0).toNat % 2 ^ 48) 256
        let set := fun (c : Child) (s : State) => e.modT (fun t => { t with children := t.children.set h (some c) }) s
        let out := match s.submit e.gr.part bytes (e.rd64 a 0) false 0 e.gr.queue (some (e.gr.id, e.t.num, h)) (e.gr.depth + 1) e.gr.limit with
          | .ok s' => set { grid := s.nextId, done := false, result := 0, ok := true } s'
          | .error _ => { (set { grid := s.nextId, done := true, result := Config.freeResult s.free, ok := false } s) with
              nextId := s.nextId + 1, free := s.free + 1 }
        .ok (.done (e.wrS d (BitVec.ofNat 32 h) out))) s

/-- The children that `chwait` awaits, with their handles; none for an invalid handle (R113). -/
def Env.awaited (e : Env) (a : Reg) : Option (List (Nat × Child)) :=
  let used := (List.range 8).filterMap (fun h => (e.t.children.getD h none).map (fun c => (h, c)))
  match a with
  | .c _ => some used
  | r =>
    let l := used.filter (fun x => x.1 == (e.sc r).toNat)
    if l.isEmpty then none else some l

/-- What `chwait` delivers: the OR of the children's result words, and its status. -/
def childResult (l : List (Nat × Child)) : Word × LaneMask :=
  (l.foldl (fun w x => w ||| x.2.result) 0, if l.all (fun x => x.2.ok) then allLanes else 0)

/-- The handles of children leave a team's table; a handle that names another child by now stays. -/
def Team.freeChildren (t : Team) (l : List (Nat × Child)) : Team :=
  { t with children := l.foldl (fun cs x =>
      if (cs.getD x.1 none).any (fun c => c.grid == x.2.grid) then cs.set x.1 none else cs) t.children }

/-- `chwait` (R113): it completes at once, or the group counts as arrived and a landing completes the word. -/
def execChwait (g : Guard) (d a : Reg) (st : Fin 8) (s : State) :=
  let f := { Form.plain g with dsts := [(d, 1)], srcs := [(a, 1)] }
  runGroup f (fun e s =>
    match e.awaited a with
    | none => .error { cause := Causes.invalidChild, info := (e.sc a).setWidth 64, lane := 0 }
    | some l =>
      if l.all (fun x => x.2.done) then
        .ok (.done (e.modG (fun g => (g.putS d (childResult l).1).setPred st.val allLanes (childResult l).2)
          (e.modT (fun t => t.freeChildren l) s)))
      else .ok (.hold ((e.waitFor (.chwait l d st.val) (e.latch f s)).startCount e.core))) s

/-! ## Block growth (R90, R116, R117) -/

/-- Blocks `new` inserted below a group's affine storage; the window covers the new allocation (R90, R120). Registers that change
their numbers stay in the latch with the values recorded, since R64 names no event here that would end the service: the model's
choice (log 64). -/
def Group.grow (g : Group) (aff : Nat) (new : List Nat) : Group :=
  let at' := g.blocks.length - aff
  let bs := g.blocks.take at' ++ new ++ g.blocks.drop at'
  { g with blocks := bs, winLo := 0, winHi := BitVec.ofNat 32 (16 * bs.length) }

/-- Granting `n` free blocks to a group: the registers they add read as zero (R90). The lowest-numbered free blocks are taken
and enter the map in ascending order, which R90 and R116 leave open (log 54). -/
def State.grantBlocks (s : State) (c slot n : Nat) : State :=
  let k := s.core c
  let new := (k.freeBlocks (slot / 4)).take n
  (s.modCore c (fun k => k.zeroBlocks (slot / 4) new)).modGroup c slot (fun g => g.grow (s.grid g.grid).lrec.aff new)

/-- Older by R80: an earlier team, or a lower index of one team. -/
def Group.older (a b : Group) : Bool := decide (a.age < b.age) || (a.age == b.age && decide (a.index < b.index))

/-- The groups of a scheduler, oldest first. -/
def Core.schedGroups (k : Core) (sched : Nat) : List (Nat × Group) :=
  sortBy (fun x y => !y.2.older x.2) (k.groupList.filter (fun x => x.1 / 4 == sched))

/-- Whether a group is blocked in `regrow`, with how many blocks it asks. -/
def Group.asks (g : Group) : Option Nat :=
  match g.wait with
  | .regrow n => some n
  | _ => none

/-- A group that awaits a landing: it has arrived, or is not eligible in the phase (R99). -/
def Group.parked (g : Group) (isX : Bool) : Bool := g.arrived || (isX && !g.xgrp)

/-- A party waiting for blocks: a group blocked in `regrow`, or a spilled group ready to resume (R90), as one is that is to take
the straggler trap (R102). -/
def Core.party (k : Core) (isX : Bool) (slot : Nat) (g : Group) : Bool :=
  (g.asks.isSome && (g.spill.isSome || !g.stragglerDue)) ||
    (g.spill.isSome && !g.parked isX && (k.waitOver slot g || g.stragglerDue))

/-- The oldest party waiting for blocks (R90). -/
def Core.waitingParty (k : Core) (isX : Bool) (sched : Nat) : Option (Nat × Group) :=
  (k.schedGroups sched).find? (fun x => k.party isX x.1 x.2)

/-- The blocks that a group waits for: those it asks, unless the straggler trap takes it out of its `regrow` (R102), and its own
where it is spilled (R90). -/
def Group.needs (g : Group) : Nat :=
  (if g.stragglerDue then 0 else g.asks.getD 0) + (if g.spill.isSome then g.blocks.length else 0)

/-- The free blocks of a scheduler are those that its oldest waiting party waits for: freed blocks go to waiting parties before any
group that asks for more (R90). -/
def Core.owedBlocks (k : Core) (isX : Bool) (sched : Nat) : Bool :=
  (k.waitingParty isX sched).any (fun x => decide (x.2.needs ≤ (k.freeBlocks sched).length))

/-- `regrow` (R116): it takes the blocks at once where they are free and not owed to a party that has waited for them (R90). -/
def execRegrow (g : Guard) (n : BitVec 4) (s : State) :=
  runGroup (Form.plain g) (fun e s =>
    if e.g.anyPending then .ok (.hold (e.waitFor .settle s))
    else if 12 < e.g.blocks.length + n.toNat then
      .error { cause := Causes.allocationLimit, info := BitVec.ofNat 64 n.toNat, lane := 0 }
    else if n.toNat ≤ (e.k.freeBlocks (e.slot / 4)).length ∧ !e.k.owedBlocks e.pt.isX (e.slot / 4) then
      .ok (.done (s.grantBlocks e.core e.slot n.toNat))
    else .ok (.hold (e.waitFor (.regrow n.toNat) (e.latch (Form.plain g) s)))) s

/-- The blocks that `regshrink` frees leave the group's map (R117); the latch records of the registers that change their numbers stay
as they are, the model's choice (log 64). -/
def Group.shrink (g : Group) (aff n : Nat) : Group :=
  let at' := g.blocks.length - aff
  let bs := g.blocks.take (at' - n) ++ g.blocks.drop at'
  { g with blocks := bs, winLo := 0, winHi := BitVec.ofNat 32 (16 * bs.length) }

/-- `regshrink` (R117). -/
def execRegshrink (g : Guard) (n : BitVec 4) (s : State) :=
  runGroup (Form.plain g) (fun e s =>
    let aff := e.gr.lrec.aff
    if e.g.anyPending then .ok (.hold (e.waitFor .settle s))
    else if e.g.blocks.length < aff + 1 + n.toNat then
      .error { cause := Causes.allocationLimit, info := BitVec.ofNat 64 n.toNat, lane := 0 }
    else .ok (.done (e.modG (fun g => g.shrink aff n.toNat) s))) s

/-- The blocked group goes on past its `regrow` with its blocks. -/
def State.finishRegrow (s : State) (c slot n : Nat) : State := (s.grantBlocks c slot n).modGroup c slot Group.endWait

/-- Freed blocks go to the oldest waiting party, when that is a group blocked in `regrow` and they are enough (R90). -/
def execRegrowGrant (core : Fin 256) (sched : Fin 4) (s : State) : Host.Outcome State Fault Refusal :=
  let k := s.core core.val
  match k.waitingParty (s.part (s.partOf core.val)).isX sched.val with
  | some (slot, g) =>
    match g.asks with
    | some n => .next (
      if g.spill.isNone && !g.stragglerDue && decide (n ≤ (k.freeBlocks sched.val).length) then s.finishRegrow core.val slot n else s)
    | none => .next s
  | none => .next s

/-- Blocked in one of the ways that a deadlock counts (R90). A spilled party that has no room for its blocks, or that waits behind
an older one, counts as blocked too (log 55). -/
def Core.deadlocked (k : Core) (isX : Bool) (slot : Nat) (g : Group) : Bool :=
  g.parked isX ||
    if g.spill.isSome && k.party isX slot g then
      !((k.waitingParty isX (slot / 4)).any (fun x => x.1 == slot) && decide (g.needs ≤ (k.freeBlocks (slot / 4)).length))
    else match g.wait with
      | .regrow _ => !g.stragglerDue
      | .chwait _ _ _ => true
      | .barw | .yield _ => !k.waitOver slot g && !g.stragglerDue
      | _ => false

/-- Spilling a group: its registers leave the file and its last-page registers are cleared (R90, R213). -/
def Core.spill (k : Core) (slot : Nat) : Core :=
  match k.group slot with
  | none => k
  | some g =>
    let m : Store 32 := Store.writeAll [] ((List.range g.nregs).flatMap (fun r =>
      (List.range 32).map (fun l => (r * 32 + l, Store.read k.regs (g.cell slot r l)))))
    { (k.zeroBlocks (slot / 4) g.blocks).setGroup slot (some { g with spill := some m }) with
      lastPage := k.lastPage.filter (fun e => e.key / 32 != slot) }

/-- Spilling groups of a list in turn until `n` blocks are free. -/
def Core.spillUntil (k : Core) (sched n : Nat) : List Nat → Core
  | [] => k
  | i :: t => if n ≤ (k.freeBlocks sched).length then k else (k.spill i).spillUntil sched n t

/-- Restoring a spilled group into free blocks. -/
def Core.unspill (k : Core) (slot : Nat) : Core :=
  match k.group slot with
  | none => k
  | some g =>
    match g.spill with
    | none => k
    | some m =>
      let bs := (k.freeBlocks (slot / 4)).take g.blocks.length
      let g' := { g with spill := none, blocks := bs }
      let k' := (k.zeroBlocks (slot / 4) bs).setGroup slot (some g')
      { k' with regs := Store.writeAll k'.regs (m.map (fun e => (g'.cell slot (e.1 / 32) (e.1 % 32), e.2))) }

/-- A party has the blocks it needs: a spilled one is restored, and one blocked in `regrow` goes on, or takes the straggler trap at
that word (R102). -/
def State.resumeParty (s : State) (c slot : Nat) (g : Group) : State :=
  let s1 := s.modCore c (fun k => k.unspill slot)
  match g.asks with
  | some n => if g.stragglerDue then s1 else s1.finishRegrow c slot n
  | none => s1

/-- On a deadlock, groups other than the oldest one blocked in `regrow` are spilled, youngest first, until its
request fits, and it is granted (R90). -/
def execGroupSpill (core : Fin 256) (sched : Fin 4) (s : State) : Host.Outcome State Fault Refusal :=
  let k := s.core core.val
  let gs := k.schedGroups sched.val
  match gs.find? (fun x => x.2.asks.isSome) with
  | none => .next s
  | some (slot, g) =>
    if gs.all (fun x => k.deadlocked (s.part (s.partOf core.val)).isX x.1 x.2) then
      let others := (gs.filter (fun x => x.1 != slot && x.2.spill.isNone)).reverse.map (fun x => x.1)
      .next ((s.setCore core.val (k.spillUntil sched.val g.needs others)).resumeParty core.val slot g)
    else .next s

/-- A spilled group whose wait is over is restored when it is the oldest waiting party and its blocks are free
(R90). A spilled group that was blocked in `regrow` waits for the blocks it holds and those it asks, or, to take the straggler
trap, for those it holds (R102). -/
def execGroupSpillRestore (core : Fin 256) (sched : Fin 4) (s : State) : Host.Outcome State Fault Refusal :=
  let k := s.core core.val
  match k.waitingParty (s.part (s.partOf core.val)).isX sched.val with
  | some (slot, g) =>
    if g.spill.isSome && decide (g.needs ≤ (k.freeBlocks sched.val).length) then
      .next (s.resumeParty core.val slot g)
    else .next s
  | none => .next s

/-! ## `brk` (R347) -/

/-- `brk`: with BRKF it freezes the cluster and goes on; otherwise it takes the breakpoint trap. -/
def execBrk (hi : BitVec 2) (lo : BitVec 53) (s : State) : Host.Outcome State Fault Refusal :=
  match s.env 0 false with
  | none => .fault .noIssuingGroup
  | some e =>
    if e.k.brkf then .next (e.advance (e.latch (Form.plain { settle := false, pg := 0, pn := false }) (e.freezeBy 0 s)))
    else .next (e.trapAt s s
      { cause := Causes.breakpoint, info := ((hi ++ 0x1FF#9 ++ lo).extractLsb' 0 32).setWidth 64, lane := 0 } e.sp.pc)

end Sys2Proof.Machine
end

