-- ==== Sys2Proof/Machine/Memory.lean ====
section
/-! DEFINITION. Row 0x6: loads, stores, atomics, fences, residency and firm gathers (R206-R231, R238), with the
returns, drains and walks they leave behind. -/

namespace Sys2Proof.Machine

open Sys2Proof

/-! ## Forms -/

/-- The form of a memory word: `d` is a destination (`dst`) or data register of `n` registers. -/
def memForm (g : Guard) (h : Hold) (d : Option (Reg × Nat)) (dst : Bool) (b : MBase) (inX : Bool) : Form :=
  let hold := match h with
    | .a => heldReg .a (some b.reg) none none
    | .b => heldReg .a (d.map (fun x => x.1)) none none
    | _ => []
  { Form.plain g with
    held := hold
    dsts := if dst then d.toList else []
    srcs := (if dst then [] else d.toList) ++ [(b.reg, if b.wide then 2 else 1)]
    inX := inX && b.space == .sp }

/-- A result in flight that sets the pending bits of a destination (R81). -/
def Env.flightOf (e : Env) (id : Nat) (kind : PendKind) (x : Reg × Nat) (vdata : List (Nat × Nat × Word)) (ready : Bool) :
    Inflight :=
  { id := id, kind := kind, vregs := e.vregs x, sregs := [], vdata := vdata, sdata := [], flags := 0, ready := ready }

/-- The words that a loaded value writes, extended by its size (R217). -/
def loadWords (size : MSize) (bs : List Byte) : List Word :=
  match size with
  | .n32 | .n8 | .n16 => [BitVec.ofNat 32 (leNat bs)]
  | .s8 => [(BitVec.ofNat 8 (leNat bs)).signExtend 32]
  | .s16 => [(BitVec.ofNat 16 (leNat bs)).signExtend 32]
  | .n64 => wordsOf 2 (leNat bs)
  | .n128 => wordsOf 4 (leNat bs)

/-- The register writes of a lane's words. -/
def Env.laneWrites (e : Env) (d : Reg) (lane : Nat) (ws : List Word) : List (Nat × Nat × Word) :=
  (List.range ws.length).map (fun j => (e.vnum d lane + j, lane, ws.getD j 0))

/-! ## Loads (R217, R238) -/

/-- What a lane of a load reads: zero on a miss. -/
def Env.loaded (e : Env) (size : MSize) (s : State) (r : Reach) : List Word :=
  if r.misses e.core then List.replicate size.regs 0 else loadWords size (e.bytes s r size.bytes)

/-- The lanes that a lookup reached. -/
def reached (r : List (Nat × Option Reach)) : List (Nat × Reach) := r.filterMap (fun x => x.2.map (fun y => (x.1, y)))

/-- The lookups of a load's helper lanes whose addresses are aligned and in range: they translate as the others do (R213). -/
def Env.helperReach (e : Env) (b : MBase) (size : Nat) (s : State) : State × List (Nat × Reach) :=
  let r := e.reach b ((LaneMask.toList (e.act &&& e.g.helper)).filter (fun l => decide (e.rawAddr b l % size = 0))) s
  (r.1, reached r.2)

/-- Helper lanes of a load: the data where the address is in range, aligned, valid and resident, and 0 elsewhere (R238). -/
def Env.helperLoads (e : Env) (size : MSize) (r : List (Nat × Reach)) (s : State) : List (Nat × List Word) :=
  (LaneMask.toList (e.act &&& e.g.helper)).map (fun l => (l,
    match r.find? (fun x => x.1 == l) with
    | some x => e.loaded size s x.2
    | none => List.replicate size.regs 0))

/-- The misses of a word count in `RESMISS` and in the access counters. -/
def Env.countMisses (e : Env) (r : List (Nat × Reach)) (s : State) : State :=
  r.foldl (fun s x =>
    match x.2 with
    | .vt va l _ =>
      if l.resident e.core then s
      else (e.modG (fun g => { g with resmiss := if g.resmiss = 0xFFFFFFFF then g.resmiss else g.resmiss + 1 }) s).countAccess
        e.core va
    | .sp _ => s) s

/-- The lanes of a list that miss. -/
def missLanes (c : Nat) (r : List (Nat × Reach)) : LaneMask :=
  LaneMask.ofFn (fun l => r.any (fun x => x.1 == l && x.2.misses c))

/-- `ld` and `ldg` (R217). -/
def runLoad (g : Guard) (h : Hold) (d : Reg) (b : MBase) (size : MSize) (rp : Fin 8) (s : State) :
    Host.Outcome State Fault Refusal :=
  runWord (memForm g h (some (d, size.regs)) true b true) (fun e s =>
    match e.checked b size.bytes false s with
    | (s1, .error t) => .ok (.trap s1 t)
    | (s1, .ok r) =>
      if e.act = 0 then .ok (.done s1)
      else
        let h := e.helperReach b size.bytes s1
        let data := (r.map (fun x => (x.1, e.loaded size s1 x.2))) ++ e.helperLoads size h.2 s1
        let w := data.flatMap (fun x => e.laneWrites d x.1 x.2)
        let s2 := e.countMisses r (e.touch false (r ++ h.2) h.1)
        let s3 := s2.addInflight e.core e.slot (fun id => e.flightOf id .load (d, size.regs) w true)
        let s4 := if rp.val = 0 then s3 else e.modG (fun g => g.setPred rp.val e.act (missLanes e.core r)) s3
        .ok (.done (e.watch false size.bytes r s4))) s

def execLd (g : Guard) (h : Hold) (d base : Reg) (disp : BitVec 16) (space : Space) (size : MSize) (rp : Fin 8) (s : State) :=
  runLoad g h d { reg := base, wide := false, disp := disp, space := space } size rp s
def execLdg (g : Guard) (h : Hold) (d base : Reg) (disp : BitVec 16) (space : Space) (size : MSize) (rp : Fin 8) (s : State) :=
  runLoad g h d { reg := base, wide := true, disp := disp, space := space } size rp s

/-- Data of a load, gather or atomic returns (R81); the entry of a firm gather that completed is freed (R223). -/
def execLoadDataReturn (core : Fin 256) (slot : Fin 16) (idx : Nat) (s : State) : Host.Outcome State Fault Refusal :=
  match (s.group core.val slot.val).bind (fun g => g.inflight[idx]?) with
  | some f =>
    if f.ready && (f.kind == .load || f.kind == .atomic || f.kind == .gather) then
      .next ((s.deliver core.val slot.val f.id).modGroup core.val slot.val (fun g =>
        { g with logs := g.logs.map (fun o => o.bind (fun x => if x.flight = f.id && !x.unfinished then none else some x)) }))
    else .next s
  | none => .next s

/-! ## Stores (R218, R219) -/

/-- The bytes that a lane stores: D's low bytes. -/
def Env.storeBytes (e : Env) (d : Reg) (size : MSize) (lane : Nat) : List Byte :=
  leBytes size.bytes ((List.range size.regs).foldr (fun j n => (e.rd (regPlus d j) lane).toNat + 2 ^ 32 * n) 0)

/-- The bounce lines that a word's missing lanes touch. -/
def missLines (c : Nat) (r : List (Nat × Reach)) : List Nat :=
  r.filterMap (fun x =>
    match x.2 with
    | .vt va l _ => if l.resident c then none else some (lineOf va)
    | .sp _ => none)

/-- The trap of a word whose missing lanes need more bounce lines than are free: the lowest such lane (log 18). -/
def Env.bounceTrap (e : Env) (r : List (Nat × Reach)) (s : State) : Option Trap :=
  let k := s.cluster (e.core / 8)
  if k.roomFor e.part (missLines e.core r) then none
  else
    let lane := (r.find? (fun x => match x.2 with
      | .vt va l _ => !l.resident e.core && !k.hasLine e.part (lineOf va)
      | .sp _ => false)).map (fun x => x.1)
    some { cause := Causes.bounceFull, info := 0, lane := lane.getD 0 }

/-- One lane's store goes to the scratchpad, word by word to the group's write queue, or to the bounce pool. -/
def Env.storeLane (e : Env) (word col : Nat) (bs : List Byte) (r : Reach) (s : State) : State :=
  match r with
  | .sp o => e.modK (fun k => { k with sp := Memory.store k.sp o bs }) s
  | .vt va l _ =>
    if l.resident e.core then
      (List.range ((bs.length + 3) / 4)).foldl (fun s i =>
        s.enqueue e.core e.slot word col (l.offset va + 4 * i) (.store ((bs.drop (4 * i)).take 4))) s
    else s.bounce (e.core / 8) e.part va bs

/-- `st` and `stg` (R218). -/
def runStore (g : Guard) (h : Hold) (d : Reg) (b : MBase) (size : MSize) (col : Fin 8) (s : State) :
    Host.Outcome State Fault Refusal :=
  runWord (memForm g h (some (d, size.regs)) false b true) (fun e s =>
    match e.checked b size.bytes true s with
    | (s1, .error t) => .ok (.trap s1 t)
    | (s1, .ok r) =>
      match e.bounceTrap r s1 with
      | some t => .ok (.trap s1 t)
      | none =>
        let s2 := r.foldl (fun s x => e.storeLane s1.nextId col.val (e.storeBytes d size x.1) x.2 s) (e.touch true r s1)
        .ok (.done (e.watch true size.bytes r s2))) s

def execSt (g : Guard) (h : Hold) (d base : Reg) (disp : BitVec 16) (space : Space) (size : MSize) (col : Fin 8) (s : State) :=
  runStore g h d { reg := base, wide := false, disp := disp, space := space } size col s
def execStg (g : Guard) (h : Hold) (d base : Reg) (disp : BitVec 16) (space : Space) (size : MSize) (col : Fin 8) (s : State) :=
  runStore g h d { reg := base, wide := true, disp := disp, space := space } size col s

/-- The oldest word of a colour becomes visible (R227), an atomic's indivisibly and in lane order (R229). -/
def execWriteQueueDrain (core : Fin 256) (slot : Fin 16) (col : Fin 8) (s : State) : Host.Outcome State Fault Refusal :=
  match (s.group core.val slot.val).bind (fun g => g.wq.find? (fun q => q.col == col.val)) with
  | some q => .next (s.drainQueue core.val slot.val (fun x => x.word == q.word))
  | none => .next s

/-! ## Atomics (R229-R231) -/

/-- A lane's data and comparand: D and the registers that follow (R210). -/
def Env.atomData (e : Env) (d : Reg) (w64 : Bool) (op : AtomOp) (lane : Nat) : Dword × Dword :=
  let val := fun j => if w64 then e.rd64 (regPlus d j) lane else (e.rd (regPlus d j) lane).setWidth 64
  (val 0, if op = .cas then val (if w64 then 2 else 1) else 0)

/-- The lowest lane that misses, with its address. -/
def firstMiss (c : Nat) (r : List (Nat × Reach)) : Option (Nat × Nat) :=
  r.findSome? (fun x =>
    match x.2 with
    | .vt va l _ => if l.resident c then none else some (x.1, va)
    | .sp _ => none)

/-- One lane of a fast atomic: at once in the scratchpad, with its old value, or into the colour's queue. -/
def Env.atomLane (e : Env) (d : Reg) (w64 : Bool) (op : AtomOp) (col flight : Nat) (s : State) (x : Nat × Reach) : State :=
  let v := e.atomData d w64 op x.1
  match x.2 with
  | .sp o =>
    let r := Memory.atomic (s.core e.core).sp o op w64 v.1 v.2
    (e.modK (fun k => { k with sp := r.1 }) s).fillFlight e.core e.slot flight (fun f =>
      { f with vdata := f.vdata ++ e.laneWrites d x.1 (wordsOf (if w64 then 2 else 1) r.2) })
  | .vt va l _ => s.enqueue e.core e.slot flight col (l.offset va) (.atomic op w64 v.1 v.2 flight x.1 (e.vnum d x.1))

/-- The form of an atomic: its data registers are read, and its old value is written to the first of them, which stay unchanged
where it passes in helper lanes alone (R238). -/
def atomForm (g : Guard) (h : Hold) (d : Reg) (b : MBase) (w64 : Bool) (op : AtomOp) (dst : Bool) : Form :=
  let f := memForm g h (some (d, atomRegs w64 op)) false b false
  let old := (d, if w64 then 2 else 1)
  { f with dsts := if dst then [old] else [], unwritten := fun e => if e.realLanes.isEmpty then e.vregs old else [] }

/-- `atom` (R229). -/
def execAtom (g : Guard) (h : Hold) (d base : Reg) (disp : BitVec 16) (space : Space) (w64 : Bool) (col : Fin 8) (op : AtomOp)
    (s : State) : Host.Outcome State Fault Refusal :=
  let b : MBase := { reg := base, wide := false, disp := disp, space := space }
  runWord (atomForm g h d b w64 op true) (fun e s =>
    match e.checked b (atomBits w64 / 8) true s with
    | (s1, .error t) => .ok (.trap s1 t)
    | (s1, .ok r) =>
      match firstMiss e.core r with
      | some m => .ok (.trap s1 (addrTrap Causes.residency m.2 m.1))
      | none =>
        if r.isEmpty then .ok (.done s1)
        else
          let id := s1.nextId
          let s2 := (e.touch true r s1).addInflight e.core e.slot (fun id =>
            e.flightOf id .atomic (d, if w64 then 2 else 1) [] (space == .sp))
          .ok (.done (e.watch true (atomBits w64 / 8) r (r.foldl (e.atomLane d w64 op col.val id) s2)))) s

/-- The key of a group's buffered atomic (R230). -/
def Env.atomKey (e : Env) (seq lane : Nat) : AtomKey :=
  { order := e.gr.order, team := e.t.num, group := e.g.index, lane := lane, seq := seq }

/-- The entry of one lane of `atomb`. -/
def Env.atombEntry (e : Env) (d : Reg) (w64 : Bool) (op : AtomOp) (x : Nat × Reach) : AtomEntry :=
  let v := e.atomData d w64 op x.1
  { key := e.atomKey e.g.atombSeq x.1, grid := e.g.grid,
    place := match x.2 with
      | .sp o => .scratch e.core o
      | .vt va _ _ => .vault e.core va
    op := op, w64 := w64, data := v.1, cmp := v.2 }

/-- One lane of `atomb` enters its buffer (R231). -/
def Env.atombLane (e : Env) (d : Reg) (w64 : Bool) (op : AtomOp) (s : State) (x : Nat × Reach) : State :=
  let n := e.atombEntry d w64 op x
  match x.2 with
  | .sp _ => e.modK (fun k => { k with atoms := k.atoms ++ [n] }) s
  | .vt va l _ =>
    s.modCluster (e.core / 8) (fun k =>
      if l.resident e.core then { k with ratoms := k.ratoms ++ [n] }
      else
        let k := k.reserveLine e.part (lineOf va)
        { k with held := k.held ++ [n] })

/-- A word that needs more buffer entries than remain (R231). -/
def Env.atombFull (e : Env) (r : List (Nat × Reach)) (s : State) : Option Trap :=
  let need := (r.filter (fun x => !x.2.misses e.core)).length
  let isSp := r.any (fun x => match x.2 with
    | .sp _ => true
    | .vt _ _ _ => false)
  let free := if isSp then Config.atombCap - (s.core e.core).atoms.length
    else Config.ratomCap - (s.cluster (e.core / 8)).ratoms.length
  if free < need then some { cause := Causes.atomicFull, info := BitVec.ofNat 64 need, lane := 0 } else none

/-- `atomb` (R230, R231). A word that finds neither a free line of the pool nor the entries it needs takes the bounce-pool-full
trap: the rules give no order, and this one is the model's choice (log 65). -/
def execAtomb (g : Guard) (h : Hold) (d base : Reg) (disp : BitVec 16) (space : Space) (w64 : Bool) (op : AtomOp) (s : State) :
    Host.Outcome State Fault Refusal :=
  let b : MBase := { reg := base, wide := false, disp := disp, space := space }
  runWord (atomForm g h d b w64 op false) (fun e s =>
    match e.checked b (atomBits w64 / 8) true s with
    | (s1, .error t) => .ok (.trap s1 t)
    | (s1, .ok r) =>
      match e.bounceTrap r s1, e.atombFull r s1 with
      | some t, _ => .ok (.trap s1 t)
      | none, some t => .ok (.trap s1 t)
      | none, none =>
        let s2 := r.foldl (e.atombLane d w64 op) (e.touch true r s1)
        let s3 := if e.act = 0 then s2 else e.modG (fun g => { g with atombSeq := g.atombSeq + 1 }) s2
        .ok (.done (e.watch true (atomBits w64 / 8) r s3))) s

/-- The colours that a fence names (R211). -/
def fenceNames (skip : BitVec 8) (col : Nat) : Bool := !skip.getLsbD col

/-- `fence` (R228): it holds the group until no entry of a named colour is queued. -/
def execFence (g : Guard) (scope : Scope) (skip : BitVec 8) (s : State) :=
  runWord { Form.plain g with inX := false } (fun e s => do
    if e.act = 0 then pure (.done s)
    else
      let d ← e.demote (scope == .sys)
      if e.g.wq.any (fun q => fenceNames skip q.col) then pure (.hold (e.waitFor (.fence skip) (d s)))
      else pure (.done (d s))) s

/-! ## Residency (R221, R222) -/

/-- A lookup that reads nothing: a page found joins the lane's last-page register, at once where a translation of it was held and
after a walk where not (R213). -/
def Env.lookUp (e : Env) (s : State) (x : Nat × Reach) : State :=
  match x.2 with
  | .sp _ => s
  | .vt va l held =>
    if held then e.modK (fun k => k.holdPage (e.key x.1) va l) s else e.modK (fun k => k.addWalk e.part e.slot x.1 va l false) s

/-- `resq` (R222). -/
def execResq (g : Guard) (h : Hold) (p : Fin 8) (a : Reg) (wide : Bool) (s : State) :=
  let b : MBase := { reg := a, wide := wide, disp := 0, space := .vt }
  runWord { memForm g h none false b false with inX := false } (fun e s =>
    match e.rangeTrap b 1 e.realLanes with
    | some t => .error t
    | none =>
      let r := e.reach b e.lanes s
      let ok := LaneMask.ofFn (fun l => r.2.any (fun x => x.1 == l && x.2.any (fun y => !y.misses e.core)))
      .ok (.done (e.modG (fun g => g.setPred p.val e.act ok) ((reached r.2).foldl e.lookUp r.1)))) s

/-- A granule joins the core's page-request list; true when the list is full (R221). -/
def Cluster.request (k : Cluster) (pos granule : Nat) : Cluster × Bool :=
  let l := k.pageReq.getD pos []
  if l.contains granule then (k, false)
  else if l.length < Config.pageListCap then ({ k with pageReq := k.pageReq.set pos (l ++ [granule]) }, false)
  else (k, true)

/-- `pgreq` (R221). -/
def execPgreq (g : Guard) (h : Hold) (base : Reg) (disp : BitVec 16) (space : Space) (rp : Fin 8) (wide : Bool) (s : State) :=
  let b : MBase := { reg := base, wide := wide, disp := disp, space := space }
  runWord { memForm g h none false b false with inX := false } (fun e s =>
    match e.checked b 4 false s with
    | (s1, .error t) => .ok (.trap s1 t)
    | (s1, .ok r) =>
      let out := r.foldl (fun (a : State × LaneMask) x =>
        match x.2 with
        | .vt va l _ =>
          if l.resident e.core then a
          else
            let q := (a.1.cluster (e.core / 8)).request (e.core % 8) (granuleOf va)
            (a.1.modCluster (e.core / 8) (fun _ => q.1), if q.2 then a.2 ||| (1#32 <<< x.1) else a.2)
        | .sp _ => a) (r.foldl e.lookUp s1, 0#32)
      .ok (.done (if rp.val = 0 then out.1
        else e.modG (fun g => g.setPred rp.val (e.act &&& ~~~e.g.helper) out.2) out.1))) s

/-- `prf` (R222): the lookup of resident pages; nothing else changes. -/
def execPrf (g : Guard) (h : Hold) (base : Reg) (disp : BitVec 16) (space : Space) (wide : Bool) (s : State) :=
  let b : MBase := { reg := base, wide := wide, disp := disp, space := space }
  runWord { memForm g h none false b false with inX := false } (fun e s =>
    match e.rangeTrap b 4 e.realLanes with
    | some t => .error t
    | none =>
      let r := e.reach b e.realLanes s
      .ok (.done (((reached r.2).filter (fun x => !x.2.misses e.core)).foldl e.lookUp r.1))) s

/-- The leaf of a walk has been rewritten since the walker read it. The access it is made for has used the old one, so A is set in
the new value, whatever that is, where the present path has a place for it (R320, log 17). -/
def State.rewritten (s : State) (w : Walk) : State :=
  match if w.access then leafPlace s.host (s.part w.part) w.va w.big else none with
  | some r => s.touchLeaf w.part { pte := w.leaf, big := w.big, ref := r } false
  | none => s

/-- A walk returns (R213, R320): if the leaf is as it was read, the translation is held; if it was rewritten, the walk
restarts; an invalid path ends it. -/
def execPageWalkComplete (core : Fin 256) (idx : Nat) (s : State) : Host.Outcome State Fault Refusal :=
  let c := core.val
  match (s.core c).walks[idx]? with
  | none => .next s
  | some w =>
    let drop := fun (s : State) => s.modCore c (fun k => { k with walks := k.walks.eraseIdx idx })
    match walk s.host (s.part w.part) w.va with
    | none => .next (drop (s.rewritten w))
    | some l =>
      if l.pte = w.leaf then
        .next ((drop s).modCore c (fun k => k.fill ((LaneMask.toList w.lanes).map (fun x => w.slot * 32 + x)) w.va l))
      else
        let t := s.rewritten w
        .next (match walk t.host (t.part w.part) w.va with
          | some m => t.modCore c (fun k => { k with walks := k.walks.set idx { w with leaf := m.pte, big := m.big } })
          | none => drop t)

/-! ## Firm gathers (R223-R226) -/

/-- The cause field of a fault record (R224). -/
def faultCause (c : Nat) (l : Option Leaf) : Nat :=
  match l with
  | none => 2
  | some x => if Pte.res x.pte && Pte.core x.pte != c then 1 else 0

/-- The 16 bytes of a fault record (R224). GRP has four bits: a handler group's index, 16 or more, is stored modulo 16
(log 53). -/
def faultRecord (team group cause core : Nat) (lanes : LaneMask) (page : Nat) : List Byte :=
  leBytes 8 page ++ leBytes 8 (lanes.toNat + 2 ^ 32 * core + 2 ^ 40 * cause + 2 ^ 44 * (group % 16) + 2 ^ 48 * team)

/-- Writing one record to a team's ring; false when it is dropped (R224, R339). -/
def State.pushFault (s : State) (c j : Nat) (bs : List Byte) : State × Bool :=
  match s.team c j with
  | none => (s, false)
  | some t =>
    let n := 2 ^ t.frqSz.toNat
    if t.frqSz = 0 || (t.frqtl.toNat + 1) % n = t.frqhd.toNat % n then (s, false)
    else
      ((s.modCore c (fun k => { k with sp := Memory.store k.sp (t.spb + t.frqBase.toNat + 16 * (t.frqtl.toNat % n)) bs })).modTeam
        c j (fun t => { t with frqtl := BitVec.ofNat 12 ((t.frqtl.toNat + 1) % n) }), true)

/-- One record for each distinct granule among faulting lanes, by its lowest lane (R223): the state, and whether
any was dropped. -/
def State.faultRecords (s : State) (c j group : Nat) (f : List (Nat × Nat × Nat)) : State × Bool :=
  let grans := (f.map (fun x => granuleOf x.2.1)).eraseDups
  let num := ((s.team c j).map (fun t => t.num)).getD 0
  grans.foldl (fun (a : State × Bool) gr =>
    let ls := f.filter (fun x => granuleOf x.2.1 == gr)
    let cause := ((ls.head?).map (fun x => x.2.2)).getD 0
    let r := a.1.pushFault c j (faultRecord num group cause c (LaneMask.ofFn (fun l => ls.any (fun x => x.1 == l))) gr)
    (r.1, a.2 || !r.2)) (s, false)

/-- `ldgf` (R223): the data of the lanes that find their pages is in flight, whether or not others miss. -/
def execLdgf (g : Guard) (h : Hold) (d base : Reg) (disp : BitVec 16) (space : Space) (size : MSize) (s : State) :=
  let b : MBase := { reg := base, wide := true, disp := disp, space := space }
  runWord { memForm g h (some (d, size.regs)) true b false with log := true } (fun e s =>
    match e.checked b size.bytes false s with
    | (s1, .error t) => .ok (.trap s1 t)
    | (s1, .ok r) =>
      if e.act = 0 then .ok (.done s1)
      else
        match lowestFree e.g.logs with
        | none => .ok (.hold (e.waitFor .stalled s))
        | some n =>
          let miss := missLanes e.core r
          let h := e.helperReach b size.bytes s1
          let data := ((r.filter (fun x => !x.2.misses e.core)).map (fun x => (x.1, e.loaded size s1 x.2))) ++
            e.helperLoads size h.2 s1
          let w := data.flatMap (fun x => e.laneWrites d x.1 x.2)
          let log : OpLog := {
            flight := s1.nextId
            pc := e.sp.pc
            d := BitVec.ofNat 8 (Reg.code d).toNat
            dregs := (List.range 32).map (fun l => e.vnum d l)
            size := size
            space := space
            addrs := (List.range 32).map (fun l => BitVec.ofNat 48 (e.rawAddr b l))
            guard := e.act
            pcm := ~~~miss
            dropped := false }
          let s2 := (e.touch false (r ++ h.2) h.1).addInflight e.core e.slot (fun id => e.flightOf id .gather (d, size.regs) w true)
          if miss = 0 then
            .ok (.done (e.watch false size.bytes r (e.modG (fun g => { g with logs := g.logs.set n (some log) }) s2)))
          else
            let f := r.filterMap (fun x => match x.2 with
              | .vt va l _ => if l.resident e.core then none else some (x.1, va, faultCause e.core (some l))
              | .sp _ => none)
            let s3 := s2.faultRecords e.core e.g.team e.g.index f
            .ok (.done (e.watch false size.bytes r (e.modG (fun g =>
              { g with logs := g.logs.set n (some { log with dropped := s3.2 }), gatherDue := true }) s3.1)))) s

/-- The replay of a logged gather at `tret` (R226). -/
def State.replay (s : State) (c slot n : Nat) : State :=
  match s.group c slot with
  | none => s
  | some g =>
    match g.logs.getD n none with
    | none => s
    | some o =>
      let p := (s.grid g.grid).part
      let lanes := LaneMask.toList (o.guard &&& ~~~o.pcm)
      let looked := lanes.foldl (fun (a : State × List (Nat × Nat × Option Leaf)) l =>
        let va := (o.addrs.getD l 0).toNat
        let r := a.1.pick c p (slot * 32 + l) va
        let s1 := match r.2.1 with
          | some x => r.1.accessed c p slot l va x r.2.2 false
          | none => r.1
        (s1, a.2 ++ [(l, va, r.2.1)])) (s, [])
      let isHit := fun (x : Option Leaf) => x.any (fun l => l.resident c)
      let hits := looked.2.filter (fun x => isHit x.2.2)
      let misses := looked.2.filter (fun x => !isHit x.2.2)
      let s1 := looked.1
      let w := hits.flatMap (fun x =>
        let off := (x.2.2.map (fun l => l.offset x.2.1)).getD 0
        let ws := loadWords o.size ((List.range o.size.bytes).map (fun i => g.seen (s1.core c).vault (off + i)))
        (List.range ws.length).map (fun j => (o.dregs.getD x.1 0 + j, x.1, ws.getD j 0)))
      let id := s1.nextId
      let s2 := if hits.isEmpty then s1 else s1.addInflight c slot (fun id =>
        { id := id, kind := .gather, vregs := (w.map (fun x => x.1)).eraseDups, sregs := [], vdata := w, sdata := [],
          flags := 0, ready := true })
      let s3 := s2.faultRecords c g.team g.index (misses.map (fun x => (x.1, x.2.1, faultCause c x.2.2)))
      let done := LaneMask.ofFn (fun l => hits.any (fun x => x.1 == l))
      s3.1.modGroup c slot (fun g =>
        let o' := { o with pcm := o.pcm ||| done, dropped := s3.2, flight := if misses.isEmpty then id else o.flight }
        let logs := g.logs.set n (some o')
        { g with logs := logs, gatherDue := logs.any (fun x => x.any (fun y => y.unfinished)) })

end Sys2Proof.Machine
end

