-- ==== Sys2Proof/Machine/Engines.lean ====
section
/-! DEFINITION. Row 0x7 but for the cruiser: the copy engine (R233-R235) and the decode engine (R236, R237). The event that
completes a command does what is left of it; moves of the agenda may do part of it before (R329, log 12). -/

namespace Sys2Proof.Machine

open Sys2Proof

/-! ## Operand checks shared by engine words -/

/-- The form of an engine word: group-level, illegal in X-phases (R101, R211). -/
def engineForm (g : Guard) (dst : List (Reg × Nat)) (src : List Reg) : Form :=
  { Form.plain g with dsts := dst, srcs := src.map (fun r => (r, 1)), inX := false }

/-- A trap with neither `TINFO` nor lane, where a condition holds. -/
def trapIf (b : Bool) (c : Cause) : Except Trap Unit := if b then .error (trapOf c) else .ok ()

/-- Steps 1 and 2 of R216 for `n` bytes of a team's allocation from an offset. -/
def Env.spanCheck (e : Env) (spc : Space) (off n : Nat) : Except Trap Unit := do
  trapIf (off % 4 != 0) Causes.misalignedAccess
  trapIf (decide (Team.size e.t spc < off + n)) (rangeCause spc)

/-! ## Copies -/

/-- The copies of a group that hold a copy slot: those it issued itself (R263, R264). -/
def Core.slotCopies (k : Core) (uid : Nat) : List CopyCmd := (k.copiesOf uid).filter (fun x => x.cruiser.isNone)

/-- The lowest copy slot with no copy of the group outstanding (R234). -/
def Core.freeCopySlot (k : Core) (uid : Nat) : Option Nat :=
  (List.range 8).find? (fun n => (k.slotCopies uid).all (fun x => x.cslot.toNat != n))

/-- The count after a group's copy count: 0 is skipped (R234). -/
def nextSeq (n : BitVec 16) : BitVec 16 := if n = 0xFFFF then 1 else n + 1

/-- A copy tag (R234). -/
def copyTag (seq : BitVec 16) (slot : Nat) (cslot : BitVec 3) : Word := seq ++ BitVec.ofNat 8 slot ++ 0#5 ++ cslot

/-- A copy's operands (R233): destination and source space and offset, and the length. -/
structure CopyArgs where
  dsp : Space
  ssp : Space
  dst : Nat
  src : Nat
  len : Nat

/-- The checks of R233, and of R274 on the destination. -/
def Env.copyCheck (e : Env) (a : CopyArgs) : Except Trap Unit := do
  trapIf (a.dst % 4 != 0 || a.src % 4 != 0 || a.len % 4 != 0) Causes.misalignedAccess
  trapIf (decide (Config.maxLength < a.len)) (rangeCause a.dsp)
  trapIf (decide (Team.size e.t a.dsp < a.dst + a.len)) (rangeCause a.dsp)
  trapIf (decide (Team.size e.t a.ssp < a.src + a.len)) (rangeCause a.ssp)
  trapIf (a.dsp == .sp && a.len != 0 && e.k.meetsTile (e.t.spb + a.dst) a.len) Causes.tileRegion

/-! ## When nothing else uses a core (R266) -/

/-- No other group, engine or partition now uses the core's queues, vault port or scratchpad: no engine but the copy engine and
the matrix unit has work, and none of their work and no queued store is another group's. -/
def Core.aloneNow (k : Core) (uid : Nat) : Bool :=
  k.decq.isEmpty && k.cq.isEmpty && k.xfers.isEmpty && k.run.isNone && k.copies.all (fun x => x.uid == uid) &&
    k.mq.all (fun x => x.uid == uid) && k.groupList.all (fun x => x.2.uid == uid || x.2.wq.isEmpty)

/-- Nothing else has used the core since a clock. -/
def Core.aloneSince (k : Core) (uid since : Nat) : Bool :=
  k.aloneNow uid && k.uses.all (fun x => x.1 == uid || decide (x.2 < since)) && k.otherUse.all (fun t => decide (t < since))

/-- The clock in which a copy of a core that nothing else uses completes (R266). -/
def CopyCmd.ends (x : CopyCmd) : Nat := x.entry + 8 + (x.len + 127) / 128 + 3

/-- A copy that keeps the times of R266: nothing else has used the core since it entered. -/
def Core.timed (k : Core) (x : CopyCmd) : Bool := x.alone && k.aloneSince x.uid x.entry

/-- A copy may complete without an error, and its next piece be written: by R266 not before their clocks where nothing else uses the
core, and otherwise at any. -/
def Core.copyDue (k : Core) (x : CopyCmd) (now : Nat) : Bool := !k.timed x || decide (x.ends ≤ now)
def Core.pieceDue (k : Core) (x : CopyCmd) (now : Nat) : Bool := !k.timed x || decide (x.entry + 8 + x.moved ≤ now)

/-- The copy at place `idx` of a core's queue, if it is the one that acts: copies take effect in queue order (R332). -/
def Core.copyAt (k : Core) (idx : Nat) : Option CopyCmd := if idx = 0 then k.copies.head? else none

/-- A copy enters the engine: the group's count advances, and a length of zero is complete at once. -/
def State.startCopy (s : State) (c slot uid team : Nat) (seq : BitVec 16) (cslot : BitVec 3) (a : CopyArgs) (acq : Bool) (cruiser : Option Nat) :
    State :=
  let s1 := s.modOwner c slot uid (fun g => { g with copySeq := seq, copyTags := (seq, cslot) :: g.copyTags })
  if a.len = 0 then s1
  else { s1.modCore c (fun k => { k with copies := k.copies ++ [{
      slot := slot, uid := uid, team := team, seq := seq, cslot := cslot, dsp := a.dsp, ssp := a.ssp, dst := a.dst,
      src := a.src, len := a.len, acq := acq, acqId := s.nextId, cruiser := cruiser, moved := 0,
      entry := s.clock, alone := k.copies.isEmpty && k.aloneNow uid }] }) with
    nextId := s.nextId + 1 }

/-- `cpy` (R233, R234): a ninth outstanding copy stalls. -/
def execCpy (g : Guard) (d a b c : Reg) (scope : Scope) (rel acq : Bool) (dsp ssp : Space) (s : State) :=
  runGroup (engineForm g [(d, 1)] [a, b, c]) (fun e s => do
    let args : CopyArgs :=
      { dsp := dsp, ssp := ssp, dst := (e.sc a).toNat, src := (e.sc b).toNat, len := (e.sc c).toNat }
    e.copyCheck args
    match e.k.freeCopySlot e.g.uid with
    | none => .ok (.hold (e.waitFor .stalled s))
    | some n =>
      let dem ← e.demote (sysRelease scope rel)
      let seq := nextSeq e.g.copySeq
      let cs := BitVec.ofNat 3 n
      .ok (.done (e.wrS d (copyTag seq e.slot cs)
        ((dem s).startCopy e.core e.slot e.g.uid e.g.team seq cs args acq none)))) s

/-- `n` pieces of a copy from piece `i` on in ascending order, each read and then written; false when a read or a write
failed. -/
def State.copyPieces (s : State) (c j : Nat) (a : CopyArgs) : Nat → Nat → State × Bool
  | _, 0 => (s, true)
  | i, n + 1 =>
    let len := min 128 (a.len - 128 * i)
    let r := s.engineRead .copy c j a.ssp (a.src + 128 * i) (len / 4)
    let w := r.1.engineWrite c j a.dsp (a.dst + 128 * i) r.2
    if w.2 && r.2.length == len then w.1.copyPieces c j a (i + 1) n else (w.1, false)

/-- A command's operands. -/
def CopyCmd.args (x : CopyCmd) : CopyArgs := { dsp := x.dsp, ssp := x.ssp, dst := x.dst, src := x.src, len := x.len }
/-- The pieces of a command that have not moved yet. -/
def CopyCmd.left (x : CopyCmd) : Nat := (x.len + 127) / 128 - x.moved
/-- Those of them whose clocks have come. -/
def Core.piecesDue (k : Core) (x : CopyCmd) (now : Nat) : Nat :=
  if k.timed x then min x.left (now + 1 - (x.entry + 8 + x.moved)) else x.left

/-- What the late words of a command carry. -/
def lateTag (cmd grid uid : Nat) (after : List Nat) (ordered : Bool) : LateWord :=
  { cmd := cmd, grid := grid, uid := uid, after := after, ordered := ordered, place := .host 0, val := 0, mask := 0 }

/-- The grid of the team that issued a command. -/
def State.teamGrid (s : State) (c j : Nat) : Nat := ((s.team c j).map (fun t => t.grid)).getD 0

/-- The head command of an engine's queue begins: it has computed its writes, which make `t` of `s`, and they are on their way. -/
def State.beginHead (s t : State) (c : Nat) (tag : LateWord) (b : Begun) : State :=
  (s.hideWords t tag (s.changes t)).modCore c (fun k => { k with begun := k.begun ++ [b] })

/-- An engine reads a word for its head command ahead of its completion (R256, R332). -/
def State.readEarly (s : State) (c j : Nat) (eng : Engine) (spc : Space) (off : Nat) : State :=
  let r := s.readWord c j spc off
  match r.2 with
  | some w => r.1.modCore c (fun k => { k with early := { engine := eng, spc := spc, off := off, word := w } :: k.early })
  | none => s

/-- The next piece of a copy moves (R329): its words are on their way then, and those of the pieces before it that have not
arrived stay so, though it reads them as written. A piece that fails is left to the completion. -/
def State.copyPiece (s : State) (c idx : Nat) : State :=
  match (s.core c).copyAt idx with
  | none => s
  | some x =>
    if !(s.core c).pieceDue x s.clock then s
    else
    let s1 := s.acquire c x.slot x.acq x.acqId
    let r := (s1.landCmd x.acqId).copyPieces c x.team x.args x.moved (min 1 x.left)
    if r.2 then
      (s1.hideWords r.1 (lateTag x.acqId (s.teamGrid c x.team) x.uid [] false) (s1.changes r.1)).modCore c (fun k =>
        { k with copies := k.copies.set idx { x with moved := x.moved + min 1 x.left } })
    else s

/-- A `cbtab` waits for the copy that its tag names (R252). -/
def Core.waitsCopy (k : Core) (x : MCmd) : Bool :=
  match x.kind with
  | .cbtab _ _ (some t) _ => (k.copiesOf x.uid).any (fun y => y.seq == t.1 && y.cslot == t.2)
  | _ => false

/-- The tables whose copies have all completed become readable (R252, R266). -/
def Core.readable (k : Core) (now : Nat) : Core :=
  { k with tables := k.tables.map (fun t =>
      if t.since.isNone && k.mq.any (fun x => match x.kind with
        | .cbtab _ _ _ id => id == t.id && !k.waitsCopy x
        | _ => false) then { t with since := some now } else t) }

/-! ## The weight path's stall count (R252, R266) -/

/-- The stall clocks of a C3 load from clock `upTo` to clock `hi`, block by block, the first block's bytes arriving in clock
`first`: the clocks in which the bytes of a block have arrived and its table, available in the clock listed if that is known, has
not (R252). -/
def stallClocks : Nat → Nat → Nat → List (Option Nat) → Nat
  | _, _, _, [] => 0
  | first, upTo, hi, a :: t =>
    let lo := max first upTo
    let e := match a with
      | some x => min x hi
      | none => hi
    (e - lo) + stallClocks (first + 1) (max lo e) hi t

/-- The clock in which the bytes of a C3 load's first block arrive: 12 clocks after it reached the weight path from the vault, 6 from
the scratchpad (R266). -/
def firstBytes (entry : Nat) (spc : Space) : Nat := entry + if spc == .vt then 12 else 6

/-- The clock in which a table is available, 4 after it becomes readable: where its copy has not completed, the clock that R266 gives
for a copy of a core that nothing else uses, and otherwise not known yet. -/
def Core.tableFrom (k : Core) (id : Nat) : Option Nat :=
  match (k.tables.find? (fun t => t.id == id)).bind (fun t => t.since) with
  | some t => some (t + 4)
  | none => k.mq.findSome? (fun x => match x.kind with
      | .cbtab _ _ (some tag) i =>
        if i = id then ((k.copiesOf x.uid).find? (fun y => y.seq == tag.1 && y.cslot == tag.2)).bind (fun y =>
          if k.timed y then some (y.ends + 4) else none)
        else none
      | _ => none)

/-- The stall clocks of a C3 load that reached the weight path in clock `entry`, by the times of R266, from clock `lo` to `hi`. -/
def Core.stalls (k : Core) (entry lo hi : Nat) (spc : Space) (ids : List Nat) : Nat :=
  stallClocks (firstBytes entry spc) lo hi (ids.map k.tableFrom)

/-- The count saturates (R252). -/
def Core.addStalls (k : Core) (n : Nat) : Core := { k with stall := BitVec.ofNat 32 (min 0xFFFFFFFF (k.stall.toNat + n)) }

/-- The clock in which the weight path writes the last plane row of a C3 load: each block's two rows follow its bytes, its table and
the rows before (R266). -/
def Core.loadEnd (k : Core) (entry : Nat) (spc : Space) (ids : List Nat) : Nat :=
  ((ids.map k.tableFrom).foldl (fun (x : Nat × Nat) t =>
    (x.1 + 1, max (max x.1 (t.getD 0)) (x.2 + 1) + 1)) (firstBytes entry spc, k.times.pathEnd)).2

/-- A command that keeps the times of R266: nothing else has used the core since it entered. -/
def Core.unitTimed (k : Core) (x : MCmd) : Bool := x.alone && k.aloneSince x.uid x.entry
/-- A load that does so and reached the weight path as it entered the queue. -/
def Core.pathTimed (k : Core) (x : MCmd) : Bool := x.direct && k.unitTimed x

/-- The C3 load that the weight path works on: the first, where only tables stand before it. -/
def Core.pathLoad (k : Core) : Option (MCmd × Space × List Nat) :=
  match k.mq.find? (fun x => match x.kind with
    | .cbtab _ _ _ _ => false
    | _ => true) with
  | some x =>
    match x.kind with
    | .ldstw f spc _ _ _ ids => if f.isC3 && k.pathTimed x then some (x, spc, ids) else none
    | _ => none
  | none => none

/-- `n` clocks pass: the weight path counts those in which it stalls (R252). -/
def Core.tickPath (k : Core) (now n : Nat) : Core :=
  match k.pathLoad with
  | some x => k.addStalls (k.stalls x.1.entry now (now + n) x.2.1 x.2.2)
  | none => k

/-- The copy at the head of a core's queue finishes, or ends early, at a piece that fails, with the copy-fault trap due (R220, R233). A
table that waits for it becomes readable in the clock that R266 gives for a copy without error, where nothing else uses the core, and
otherwise in the present one (R252). -/
def execCopyComplete (core : Fin 256) (idx : Nat) (s : State) : Host.Outcome State Fault Refusal :=
  let c := core.val
  match (s.core c).copyAt idx with
  | none => .next s
  | some x =>
    let n := (s.core c).piecesDue x s.clock
    let due := (s.core c).copyDue x s.clock
    let r := ((s.acquire c x.slot x.acq x.acqId).landCmd x.acqId).copyPieces c x.team x.args x.moved n
    if !due && r.2 then .next s
    else
    let at' := if r.2 && (s.core c).timed x then x.ends else s.clock
    let s1 := (r.1.modCore c (fun k => Core.readable { k with copies := k.copies.eraseIdx idx } at')).tryEndTeam c x.team
    if r.2 then .next s1
    else .next ((s1.modOwner c x.slot x.uid (fun g => { g with cpyerr := g.cpyerr ||| (1#8 <<< x.cslot.toNat) })).dueOwner
      c x.slot x.uid Causes.copyFault ((copyTag x.seq x.slot x.cslot).setWidth 64))

/-- `cpyw` (R235). -/
def execCpyw (g : Guard) (a : Reg) (s : State) :=
  runGroup (engineForm g [] [a]) (fun e s =>
    let tag := e.tagOf a
    match e.k.tagWait e.slot e.g tag with
    | none => .error { cause := Causes.invalidCopyTag, info := (e.sc a).setWidth 64, lane := 0 }
    | some false => .ok (.hold (e.waitFor (.cpyw tag) s))
    | some true => .ok (.done s)) s

/-! ## The decode engine -/

/-- A decode command enters its queue. -/
def State.startDecode (s : State) (c slot uid team : Nat) (pc : Word) (kind : DecKind) (acq : Bool) (cruiser : Option Nat) : State :=
  { s.modCore c (fun k => { k with decq := k.decq ++ [{
      slot := slot, uid := uid, team := team, pc := pc, kind := kind, acq := acq, acqId := s.nextId, cruiser := cruiser }] }) with
    nextId := s.nextId + 1 }

/-- The checks of `dectab` (R236). -/
def Env.dectabCheck (e : Env) (slot count : Nat) : Except Trap FmtSlot := do
  let f ← slotCheck e.gr slot FmtSlot.isC3
  trapIf (decide (16 < count)) Causes.formatOperand
  .ok f

/-- `dectab` (R236). -/
def execDectab (g : Guard) (a b : Reg) (_scope : Scope) (acq : Bool) (slot : Fin 8) (s : State) :=
  runGroup (engineForm g [] [a, b]) (fun e s => do
    let f ← e.dectabCheck slot.val (e.sc b).toNat
    if e.sc b = 0 then .ok (.done s)
    else .ok (.done (s.startDecode e.core e.slot e.g.uid e.g.team e.sp.pc
      (.table f (e.sc a).toNat (e.sc b).toNat) acq none))) s

/-- The kinds that `decv` accepts (R237). -/
def FmtSlot.decodable (f : FmtSlot) : Bool := f.isC3 || f.isK || f.isInt || f.kind == 0x02 || f.kind == 0x03

/-- The bytes of a block that `decv` decodes. -/
def FmtSlot.blockBytes (f : FmtSlot) : Nat :=
  if f.isC3 then 48 else if f.isK then kBytes (kWidth f.kind)
  else if f.kind == 0x10 then 32 else if f.kind == 0x12 then 128 else 64

/-- The registers that `decv` writes under a grid's slot. -/
def decvRegs (g : Guard) (slot : Fin 8) (s : State) : Nat :=
  match s.env g.pg.val g.pn with
  | some e => if (e.gr.slot slot.val).isC3 then 4 else 1
  | none => 1

/-- D is a multiple of 4 for C3 (R211). -/
def decvAlign (d : Reg) (n : Nat) : Option Trap :=
  match d with
  | .v r => if n = 4 && r.val % 4 != 0 then some (trapOf Causes.reservedRegister) else none
  | _ => none

/-- `decv` (R237): every lane that has not exited receives its values. -/
def execDecv (g : Guard) (d a b : Reg) (_scope : Scope) (acq : Bool) (space : Space) (slot : Fin 8) (s : State) :=
  let n := decvRegs g slot s
  runGroup { engineForm g [(d, n)] [a, b] with pre := fun _ => decvAlign d n } (fun e s => do
    let f ← slotCheck e.gr slot.val FmtSlot.decodable
    trapIf (f.isC3 && (e.sc b).toNat % 128 != 0) Causes.formatOperand
    e.spanCheck space (e.sc a).toNat f.blockBytes
    let id := s.nextId
    let s1 := s.addInflight e.core e.slot (fun id => e.flightOf id .decode (d, n) [] false)
    .ok (.done (s1.startDecode e.core e.slot e.g.uid e.g.team e.sp.pc
      (.block f space (e.sc a).toNat (e.sc b).toNat (e.vnum d 0) id) acq none))) s

/-- A table enters the cache of 16, replacing the oldest-loaded; entries stand oldest first. -/
def Core.cacheTable (k : Core) (n : Nat) (t : List Half16) : Core :=
  let l := k.dcache.filter (fun e => e.1 != n) ++ [(n, t)]
  { k with dcache := l.drop (l.length - 16) }

/-- Reading bytes of a team's vault allocation; none where it ends, or on a page that is not resident. -/
def State.vaultRead (s : State) (c j off words : Nat) : State × Option (List Byte) :=
  if ((s.team c j).getD Team.zero).vault < off + 4 * words then (s, none)
  else
    let r := s.engineRead .decode c j .vt off words
    (r.1, if r.2.length = 4 * words then some r.2 else none)

/-- Loading tables in turn until one cannot be read; true when all were. -/
def State.loadTables (s : State) (c j : Nat) (f : FmtSlot) : Nat → Nat → State × Bool
  | _, 0 => (s, true)
  | n, k + 1 =>
    match s.vaultRead c j (f.off.toNat + 16 * n) 4 with
    | (s1, none) => (s1, false)
    | (s1, some bs) => (s1.modCore c (fun x => x.cacheTable n (c3Table bs))).loadTables c j f (n + 1) k

/-- The decode-fault trap (R236). -/
def State.decodeFault (s : State) (c : Nat) (x : DecCmd) : State :=
  s.dueOwner c x.slot x.uid Causes.decodeFault (x.pc.setWidth 64)

/-- The engine finishes loading the tables of the `dectab` at its head (R236). -/
def execDecodeTableLoadComplete (core : Fin 256) (s : State) : Host.Outcome State Fault Refusal :=
  let c := core.val
  match (s.core c).decq with
  | [] => .next s
  | x :: t =>
    match x.kind with
    | .block .. => .next s
    | .table f first count =>
      let r := (s.acquire c x.slot x.acq x.acqId).loadTables c x.team f first count
      let s1 := (r.1.modCore c (fun k => { k.endHead .decode with decq := t })).tryEndTeam c x.team
      .next (if r.2 then s1 else s1.decodeFault c x)

/-- A signed integer of an INT block. -/
def intElem (kind : BitVec 8) (bs : List Byte) (l : Nat) : Int :=
  if kind = 0x10 then (bs.getD l 0).toInt
  else if kind = 0x11 then (BitVec.ofNat 16 (leNat ((bs.drop (2 * l)).take 2))).toInt
  else (BitVec.ofNat 32 (leNat ((bs.drop (4 * l)).take 4))).toInt

/-- An integer times its scale in FP32; an integer 0 times a finite scale is +0 (R237, log 28). -/
def scaled (n : Int) (scale : Word) : Word :=
  match fp32.value false scale.toNat with
  | .num neg m => if n = 0 then 0 else
      BitVec.ofNat 32 (fp32.mulV FpMode.plain (.num (decide (n < 0)) (Q.ofInt n.natAbs)) (.num neg m)).1
  | v => BitVec.ofNat 32 (fp32.mulV FpMode.plain (.num (decide (n < 0)) (Q.ofInt n.natAbs)) v).1

/-- The scales of the 32 elements from `e0` of an INT block; none where one cannot be read. -/
def State.scales (s : State) (c j : Nat) (f : FmtSlot) (e0 : Nat) : State × Option (List Word) :=
  (List.range 32).foldl (fun (a : State × Option (List Word)) l =>
    match a.2 with
    | none => a
    | some ws =>
      match a.1.vaultRead c j (f.off.toNat + 4 * ((e0 + l) / 2 ^ f.bsc.toNat)) 1 with
      | (s1, none) => (s1, none)
      | (s1, some bs) => (s1, some (ws ++ [BitVec.ofNat 32 (leNat bs)]))) (s, some [])

/-- The table of a C3 block, from the cache or fetched into it. -/
def State.cachedTable (s : State) (c j : Nat) (f : FmtSlot) (n : Nat) : State × Option (List Half16) :=
  match (s.core c).dcache.find? (fun e => e.1 == n) with
  | some e => (s, some e.2)
  | none =>
    match s.vaultRead c j (f.off.toNat + 16 * n) 4 with
    | (s1, none) => (s1, none)
    | (s1, some bs) => (s1.modCore c (fun x => x.cacheTable n (c3Table bs)), some (c3Table bs))

/-- The format of a C3 entry is BF16 (R161). -/
def c3Word (t : List Half16) (i : Nat) : Word := widen bf16 (t.getD i 0).toNat

/-- The values of a block, one list a register, each over the lanes; none where a page is not resident. -/
def State.decodeBlock (s : State) (c j : Nat) (f : FmtSlot) (spc : Space) (off e0 : Nat) : State × Option (List (List Word)) :=
  let r := s.engineRead .decode c j spc off (f.blockBytes / 4)
  let s1 := r.1
  let bs := r.2
  let lane := fun (v : Nat → Word) => [(List.range 32).map v]
  if bs.length != f.blockBytes then (s1, none)
  else if f.isC3 then
    match s1.cachedTable c j f (e0 / 128) with
    | (s2, none) => (s2, none)
    | (s2, some t) =>
      (s2, some ((List.range 4).map (fun r => (List.range 32).map (fun l => c3Word t (c3Index bs (32 * r + l))))))
  else if f.isK then (s1, some [kDecode (kWidth f.kind) bs])
  else if f.isInt then
    if f.bsc = 0 then (s1, some (lane (fun l => rne32 (Q.ofInt (intElem f.kind bs l)))))
    else match s1.scales c j f e0 with
      | (s2, none) => (s2, none)
      | (s2, some sc) => (s2, some (lane (fun l => scaled (intElem f.kind bs l) (sc.getD l 0))))
  else (s1, some (lane (fun l => widen f.fmt (leNat ((bs.drop (2 * l)).take 2)))))

/-- The results of the `decv` at the engine's head return (R237). -/
def execDecodeResultReturn (core : Fin 256) (s : State) : Host.Outcome State Fault Refusal :=
  let c := core.val
  match (s.core c).decq with
  | [] => .next s
  | x :: t =>
    match x.kind with
    | .table .. => .next s
    | .block f spc off e0 d id =>
      let r := (s.acquire c x.slot x.acq x.acqId).decodeBlock c x.team f spc off e0
      let s1 := r.1.modCore c (fun k => { k.endHead .decode with decq := t })
      let n := if f.isC3 then 4 else 1
      let vals := r.2.getD (List.replicate n (List.replicate 32 0))
      let lanes := ((s1.group c x.slot).map (fun g => LaneMask.toList g.live)).getD []
      let w := (List.range n).flatMap (fun i => lanes.map (fun l => (d + i, l, (vals.getD i []).getD l 0)))
      let s2 := ((s1.fillFlight c x.slot id (fun f => { f with vdata := w, ready := true })).deliver c x.slot id).tryEndTeam c x.team
      .next (if r.2.isSome then s2 else s2.decodeFault c x)

end Sys2Proof.Machine
end

