-- ==== Sys2Proof/Machine/Fabric.lean ====
section
/-! DEFINITION. The window map (R20-R23), and Pyrfort links: flits, their CRC and compression, retry, incoming puts, training
and pairings (R322-R326, R374). -/

namespace Sys2Proof.Machine

open Sys2Proof

/-! ## The window map (R20-R23, R304) -/

/-- The core and the offset in its window. -/
def winCore (a : Nat) : Nat := (a - Config.coreWindow) / 2 ^ 24
/-- The slice of an address. -/
def winSlice (a : Nat) : Nat := (a - Config.sliceWindow) / 2 ^ 24

/-- `n` bytes lie in one mapped region of a core's window: 256 windows from the base of the map (R20). -/
def coreMapped (a n : Nat) : Bool :=
  let o := (a - Config.coreWindow) % 2 ^ 24
  let inside := fun (lo hi : Nat) => decide (lo ≤ o) && decide (o + max n 1 ≤ hi)
  decide (Config.coreWindow ≤ a) && decide (winCore a < Config.nCores) &&
    (inside 0 0x80000 || inside 0x800000 0x840000 || inside 0xC00000 0xC40000)

/-- `n` bytes lie in the program area of a slice. -/
def sliceMapped (a n : Nat) : Bool :=
  decide (Config.sliceWindow ≤ a) && decide (winSlice a < Config.nClusters) &&
    decide ((a - Config.sliceWindow) % 2 ^ 24 + max n 1 ≤ 0x400000)

/-- The parts of `n` bytes on each 64 KiB page they touch, for `n` at most 64 KiB. -/
def pageParts (va n : Nat) : List (Nat × Nat) :=
  let f := min n (0x10000 - va % 0x10000)
  if f < n then [(va % 2 ^ 48, f), ((va + f) % 2 ^ 48, n - f)] else [(va % 2 ^ 48, n)]

/-! ## Pairings and routes (R326, R374) -/

/-- Whether the pairing of partition `q` with package `pkg` is in force: both ends name each other with PEN set. -/
def State.paired (s : State) (q : Nat) (pkg : Nat) : Bool :=
  let own := Store.read s.pair (q * 256 + pkg)
  let peer := Store.read s.peerPair (pkg * 16 + own.toNat % 16)
  own.getLsbD 7 && peer.getLsbD 7 && peer.toNat % 16 == q

/-- The link that carries traffic to a package: the first trained one that its route entry names. -/
def State.linkTo (s : State) (pkg : Nat) : Option Nat :=
  (List.range 12).find? (fun l => (Store.read s.route pkg).getLsbD l && (s.link l).up)

/-- The stream that traffic to a package takes when it starts: the link and the number of its training. -/
def State.streamTo (s : State) (pkg : Nat) : Option (Nat × Nat) := (s.linkTo pkg).map (fun l => (l, (s.link l).stream))

/-- Whether a link still carries the stream that started on it: it is up and has not been trained again. -/
def State.streamUp (s : State) (x : Nat × Nat) : Bool := (s.link x.1).up && (s.link x.1).stream == x.2

/-- Whether `xlink` traffic of a partition to a package may pass on its stream. -/
def State.linked (s : State) (p pkg : Nat) (stream : Option (Nat × Nat)) : Bool := s.paired p pkg && stream.any s.streamUp

/-! ## CRC-64 (R324) -/

/-- One byte, most significant bit first. -/
def crcByte (c : BitVec 64) (b : Byte) : BitVec 64 :=
  (List.range 8).foldl (fun c _ => if c.msb then (c <<< 1) ^^^ 0x42F0E1EBA9EA3693 else c <<< 1) (c ^^^ (b.setWidth 64 <<< 56))

/-- The CRC of bytes in ascending order. -/
def crc64 (bs : List Byte) : BitVec 64 := ~~~bs.foldl crcByte 0xFFFFFFFFFFFFFFFF

/-! ## Flits (R322) -/

/-- A flit's fields. -/
structure Flit where
  kind : Nat
  seq : BitVec 12
  ack : BitVec 12
  dseq : BitVec 12
  raw : Bool
  len : Nat
  payload : List Byte
  good : Bool

/-- The 256 bytes of a flit. -/
def flitBytes (f : BitVec 2048) : List Byte := (List.range 256).map (fun i => f.extractLsb' (8 * i) 8)

/-- Taking a flit apart. -/
def parseFlit (f : BitVec 2048) : Flit where
  kind := (f.extractLsb' 56 8).toNat
  seq := f.extractLsb' 44 12
  ack := f.extractLsb' 32 12
  dseq := f.extractLsb' 20 12
  raw := f.getLsbD 19
  len := (f.extractLsb' 0 8).toNat
  payload := ((flitBytes f).drop 8).take 240
  good := crc64 ((flitBytes f).take 248) == f.extractLsb' 1984 64

/-- The bytes of a raw data flit. -/
def rawFlit (seq ack : BitVec 12) (data : List Byte) : List Byte :=
  let body := leBytes 8 (data.length + 2 ^ 19 + ack.toNat * 2 ^ 32 + seq.toNat * 2 ^ 44 + 2 ^ 56) ++ data ++
    List.replicate (240 - data.length) 0
  body ++ leBytes 8 (crc64 body).toNat

/-! ## Compression (R323, R324) -/

/-- Copying `n` bytes from `d` back, one at a time; `out` is newest first, and `hist` is the history, newest first. -/
def copyBack (hist : List Byte) (d : Nat) : Nat → List Byte → Option (List Byte)
  | 0, out => some out
  | n + 1, out =>
    match (out ++ hist.take 4096)[d - 1]? with
    | some b => copyBack hist d n (b :: out)
    | none => none

/-- Decoding tokens until `len` bytes are out: none for a malformed payload. The flag says whether a match was met; the
fuel is the number of tokens that 240 bytes can hold. -/
def tokens (hist : List Byte) (len : Nat) : Nat → List Byte → List Byte → Bool → Option (List Byte × Bool)
  | 0, _, _, _ => none
  | n + 1, bs, out, m =>
    if out.length = len then some (out.reverse, m)
    else match bs with
      | [] => none
      | b :: t =>
        if b.toNat < 0x80 then
          let k := b.toNat + 1
          if t.length < k || len < out.length + k then none
          else tokens hist len n (t.drop k) ((t.take k).reverse ++ out) m
        else match t with
          | lo :: hi :: r =>
            let w := leNat [lo, hi]
            let k := b.toNat - 0x80 + 3
            if 4096 ≤ w || len < out.length + k then none
            else match copyBack hist (w + 1) k out with
              | some o => tokens hist len n r o true
              | none => none
          | _ => none

/-- The history at a flit, newest byte first, if the flit has been received in order. -/
def Link.historyAt (l : Link) (seq : BitVec 12) : Option (List Byte) :=
  (l.rxMarks.find? (fun x => x.1 == seq)).map (fun x => (l.rxHist.take (l.rxHist.length - (l.rxTotal - x.2))).reverse)

/-- The uncompressed payload of a data flit; none if it is malformed. -/
def Link.payload (l : Link) (f : Flit) : Option (List Byte) :=
  if f.len = 0 || 240 < f.len then none
  else if f.raw then some (f.payload.take f.len)
  else
    let known := l.historyAt f.dseq
    match tokens (known.getD []) f.len 241 f.payload [] false with
    | some (bs, m) => if (m || f.dseq != 0) && known.isNone then none else some bs
    | none => none

/-! ## Sending -/

/-- Flits leave while fewer than 48 are unacknowledged. Every payload is sent raw (log 32). -/
def Link.pump (l : Link) : Nat → Link
  | 0 => l
  | n + 1 =>
    match l.txq with
    | [] => l
    | d :: t =>
      if 48 ≤ l.unacked.length then l
      else Link.pump { l with
        txq := t, txSeq := l.txSeq + 1, unacked := l.unacked ++ [(l.txSeq, d, rawFlit l.txSeq (l.rxNext - 1) d)] } n

/-- Data is sent over a link in payloads of at most 240 bytes. -/
def Link.send (l : Link) (bs : List Byte) : Link :=
  let parts := (List.range ((bs.length + 239) / 240)).map (fun i => (bs.drop (240 * i)).take 240)
  Link.pump { l with txq := l.txq ++ parts, queued := l.queued + parts.length } 48

/-- The payloads that the far end has acknowledged, among all that a link was given. -/
def Link.ackedCount (l : Link) : Nat := l.queued - l.txq.length - l.unacked.length

/-- Data is sent on a stream. -/
def State.sendOn (s : State) (stream : Option (Nat × Nat)) (bs : List Byte) : State :=
  match stream with
  | some x => s.modLink x.1 (fun k => k.send bs)
  | none => s

/-- An acknowledgement: flits up to it leave, and the history advances (R323). An ACK that names no unacknowledged flit
changes nothing. -/
def Link.acked (l : Link) (ack : BitVec 12) : Link :=
  match l.unacked.findIdx? (fun x => x.1 == ack) with
  | none => l
  | some i =>
    let h := l.txHist ++ (l.unacked.take (i + 1)).flatMap (fun x => x.2.1)
    Link.pump { l with unacked := l.unacked.drop (i + 1), txHist := h.drop (h.length - 4096) } 48

/-! ## Receiving (R325) -/

/-- A retry is asked for, from the first flit the receiver lacks. -/
def Link.askRetry (l : Link) : Link := { l with retryAsked := some l.rxNext }

/-- A data flit in order is delivered. -/
def Link.accept (l : Link) (bs : List Byte) : Link :=
  let h := l.rxHist ++ bs
  { l with
    rxHist := h.drop (h.length - 16384)
    rxTotal := l.rxTotal + bs.length
    rxMarks := ((l.rxNext, l.rxTotal + bs.length) :: l.rxMarks).take 4096
    rxNext := l.rxNext + 1
    delivered := l.delivered ++ [bs]
    retryAsked := none }

/-- A flit arrives. -/
def Link.receive (l : Link) (f : Flit) : Link :=
  if !f.good then l.askRetry
  else if 3 < f.kind then l
  else
    let l := l.acked f.ack
    if f.kind != 1 then l
    else if f.seq != l.rxNext then (if l.retryAsked.isSome then l else l.askRetry)
    else match l.payload f with
      | some bs => l.accept bs
      | none => l.askRetry

/-! ## Incoming puts (R325) -/

/-- The space of an address in a put's request. -/
def putSpace (n : BitVec 2) : RSpace := if n = 0 then .win else if n = 1 then .cl else .vt

/-- The put that a delivered payload carries. In what form requests travel is not the manual's to say (log 32). -/
def linkPutOf (bs : List Byte) : Option LinkPut :=
  (Config.linkPut bs).map (fun x => { arrival := 0, part := x.1.toNat, rsp := putSpace x.2.1, addr := x.2.2.1.toNat, bytes := x.2.2.2 })

/-- The cluster in whose slice a put is staged: that of its core, its slice, or the core whose vault holds its page, and the
partition's first for another page. -/
def State.putCluster (s : State) (x : LinkPut) : Nat :=
  match x.rsp with
  | .win => winCore x.addr / 8
  | .cl => winSlice x.addr
  | _ =>
    match walk s.host (s.part x.part) (x.addr % 2 ^ 48) with
    | some l => if Pte.res l.pte then Pte.core l.pte / 8 else (s.part x.part).first
    | none => (s.part x.part).first

/-- The lines that a put needs in the pool of its cluster: those of its bytes on pages that no vault holds (R220). -/
def State.putLines (s : State) (x : LinkPut) : List Nat :=
  match x.rsp with
  | .vt => (pageParts x.addr x.bytes.length).flatMap (fun y =>
      match walk s.host (s.part x.part) y.1 with
      | some l => if Pte.res l.pte then [] else ((List.range y.2).map (fun i => lineOf (y.1 + i))).eraseDups
      | none => [])
  | _ => []

/-- Whether a put's bytes are mapped in its partition. -/
def State.putMapped (s : State) (x : LinkPut) : Bool :=
  let p := s.part x.part
  p.opened && match x.rsp with
  | .win => coreMapped x.addr x.bytes.length && p.hasCore (winCore x.addr)
  | .cl => sliceMapped x.addr x.bytes.length && p.hasCluster (winSlice x.addr)
  | .vt => (pageParts x.addr x.bytes.length).all (fun y => (walk s.host p y.1).isSome)
  | .reg => false

/-- A put is staged until its partition's next landing, its lines in the pool being reserved; one that is not mapped or finds no
line is refused (R220, R325). -/
def State.stagePut (s : State) (x : LinkPut) : State :=
  let cl := s.putCluster x
  let lines := s.putLines x
  if s.putMapped x && (s.cluster cl).roomFor x.part lines then
    { s.modCluster cl (fun k =>
        { lines.foldl (fun k l => k.reserveLine x.part l) k with linkPuts := k.linkPuts ++ [{ x with arrival := s.nextId }] }) with
      nextId := s.nextId + 1 }
  else s

/-- A flit is received on a trained link; a payload that is delivered may carry a put. -/
def execFlitReceive (link : Fin 12) (flit : BitVec 2048) (s : State) : Host.Outcome State Fault Refusal :=
  let old := (s.link link.val).delivered.length
  if (s.link link.val).up then
    let s1 := s.modLink link.val (fun l => l.receive (parseFlit flit))
    .next ((((s1.link link.val).delivered.drop old).filterMap linkPutOf).foldl State.stagePut s1)
  else .next s

/-- A saturating counter. -/
def satAdd (w : Word) (n : Nat) : Word := BitVec.ofNat 32 (min 0xFFFFFFFF (w.toNat + n))

/-- A retry request: the flits from the named one on are resent, bit for bit; each resend counts in RETRY (R377). -/
def execRetryRequest (link : Fin 12) (seq : BitVec 12) (s : State) : Host.Outcome State Fault Refusal :=
  let l := s.link link.val
  match if l.up then l.unacked.findIdx? (fun x => x.1 == seq) else none with
  | some i =>
    let fs := (l.unacked.drop i).map (fun x => x.2.2)
    .next { s.modLink link.val (fun l => { l with resent := fs }) with retry := satAdd s.retry fs.length }
  | none => .next s

/-! ## Training and pairing -/

/-- Step 7 of bring-up: the virtual functions exist once every link has trained or been marked down and the command-processor
image has passed its check (R375). -/
def State.enableVfs (s : State) : State := { s with vfs := s.vfs || (s.power && !s.recov && s.cpGood && s.tried == 0xFFF) }

/-- A link trains, with empty histories and package numbers exchanged, or is marked down (R324, R374). -/
def execLinkTraining (link : Fin 12) (trained : Bool) (peer : BitVec 8) (s : State) : Host.Outcome State Fault Refusal :=
  .next (if s.power && !s.recov then
    ({ s.modLink link.val (fun _ =>
        if trained then { Link.reset with up := true, peer := peer, stream := s.nextId } else Link.reset) with
      tried := s.tried ||| (1#12 <<< link.val), nextId := s.nextId + 1 }).enableVfs else s)

/-- The controller of package `pkg` sends the entry of its partition `p` for this package: it names partition `q`, with
PEN (R326). -/
def execPairingExchange (pkg : BitVec 8) (q p : Fin 16) (pen : Bool) (s : State) : Host.Outcome State Fault Refusal :=
  .next (if s.links.any (fun l => l.up && l.peer == pkg) then
    { s with peerPair := Store.write s.peerPair (pkg.toNat * 16 + p.val) (BitVec.ofNat 8 (q.val + if pen then 128 else 0)) }
  else s)

end Sys2Proof.Machine
end

