-- ==== Sys2Proof/Machine/Exchange.lean ====
section
/-! DEFINITION. Row 0xA: the exchange engine's transfers (R301-R315, R318, R325-R328). The event that completes a transfer
moves the 128-byte pieces that are left; moves of the agenda may move some before (R315, log 12). -/

namespace Sys2Proof.Machine

open Sys2Proof

/-! ## Bytes of a core's window (R20-R22) -/

/-- A byte of a word. -/
def byteOf (w : Word) (i : Nat) : Byte := w.extractLsb' (8 * i) 8
/-- A word with one byte replaced. -/
def setByte (w : Word) (i : Nat) (b : Byte) : Word := (w &&& ~~~(0xFF#32 <<< (8 * i))) ||| (b.setWidth 32 <<< (8 * i))

/-- A byte of a core's window: scratchpad, register file or accumulators. -/
def Core.winRead (k : Core) (o : Nat) : Byte :=
  if o < 0x800000 then Store.read k.sp o
  else if o < 0xC00000 then byteOf (Store.read k.regs ((o - 0x800000) / 4)) (o % 4)
  else byteOf (Store.read k.acc ((o - 0xC00000) / 4)) (o % 4)

/-- A byte of a core's window as another core reads it (R329): of the scratchpad, what it shows there; of a word of the register file
that the core's groups have changed in this phase, the old or the new one, as `new` says. -/
def Core.winSeen (k : Core) (new : Bool) (o : Nat) : Byte :=
  { k with
    sp := k.shownSp.getD k.sp
    regs := if new then k.regs else k.shownRegs.getD k.regs }.winRead o

/-- The first `n` bytes of a core's window from `a`, as core `c` reads them: its own as they stand. Another core's register words
that have changed are each read old or new, by a free bit of its own (R329). -/
def State.winBytes (s : State) (c a n : Nat) : State × List Byte :=
  let k := s.core (winCore a)
  if winCore a = c ∨ (k.shownSp.isNone && k.shownRegs.isNone) then (s, (List.range n).map (fun j => k.winRead ((a + j) % 2 ^ 24)))
  else
    ({ s with free := s.free + (n / 4 + 1) },
      (List.range n).map (fun j => k.winSeen (Config.freeBit (s.free + (a % 4 + j) / 4)) ((a + j) % 2 ^ 24)))

/-- The 128 bytes of a register of the group in slot `i` of core `d`, as core `c` reads them (R303): a word of another core's that has
changed in this phase is read old or new, by a free bit of its own (R329). -/
def State.regBytes (s : State) (c d i : Nat) (g : Group) (r : Nat) : State × List Byte :=
  let k := s.core d
  let bytes := fun (word : Nat → Word) => (List.range 32).flatMap (fun l => leBytes 4 (word l).toNat)
  match if d = c then none else k.shownRegs with
  | none => (s, bytes (k.readV i g r))
  | some old =>
    ({ s with free := s.free + 32 },
      bytes (fun l => (if Config.freeBit (s.free + l) then k else { k with regs := old }).readV i g r l))

/-- Writing a byte of a core's window. -/
def Core.winWrite (k : Core) (o : Nat) (b : Byte) : Core :=
  if o < 0x800000 then k.modSp (fun m => Store.write m o b)
  else if o < 0xC00000 then
    let i := (o - 0x800000) / 4
    k.modRegs (fun m => Store.write m i (setByte (Store.read m i) (o % 4) b))
  else
    let i := (o - 0xC00000) / 4
    { k with acc := Store.write k.acc i (setByte (Store.read k.acc i) (o % 4) b) }

/-! ## One piece at either side (R307) -/

/-- A side of a transfer: the team's allocation, or the remote side. -/
inductive Side where
  | near (spc : Space) (off : Nat)
  | far (r : Remote)

/-- Reading `.vt` bytes: none on an invalid page; a page that is not resident yields zeros and the MISS flag. The
local side reaches only the core's own vault. -/
def State.vtRead (s : State) (c va n : Nat) (near : Bool) : State × Option (List Byte) × Bool :=
  (pageParts va n).foldl (fun (a : State × Option (List Byte) × Bool) x =>
    let r := a.1.translate c (a.1.partOf c) x.1 false
    match r.2 with
    | none => (r.1, none, a.2.2)
    | some l =>
      if Pte.res l.pte && (!near || l.resident c) then
        (r.1, a.2.1.map (fun b => b ++ Memory.bytes (r.1.core (Pte.core l.pte)).vault (l.offset x.1) x.2), a.2.2)
      else (r.1, a.2.1.map (fun b => b ++ List.replicate x.2 0), true)) (s, some [], false)

/-- Bytes entering the pool of a cluster, in turn, until one finds no line (R220). -/
def State.bounceSome (s : State) (cl p va : Nat) (bs : List Byte) : State × Bool :=
  (List.range bs.length).foldl (fun (a : State × Bool) i =>
    if a.2 && (a.1.cluster cl).roomFor p [lineOf (va + i)] then (a.1.bounce cl p (va + i) [bs.getD i 0], true)
    else (a.1, false)) (s, true)

/-- Writing bytes where one page's part of a piece lies: in the vault that holds the page, or in the pool. -/
def State.vtPut (s : State) (c va : Nat) (l : Leaf) (bs : List Byte) (near : Bool) : State × Bool :=
  if Pte.res l.pte && (!near || l.resident c) then
    (s.modCore (Pte.core l.pte) (fun k => { k with vault := Memory.store k.vault (l.offset va) bs }), true)
  else s.bounceSome (c / 8) (s.partOf c) va bs

/-- Writing `.vt` bytes: false on an invalid page, with nothing of the piece written, or on a full bounce pool. -/
def State.vtWrite (s : State) (c va : Nat) (bs : List Byte) (near : Bool) : State × Bool :=
  match pageParts va bs.length with
  | [] => (s, true)
  | x :: rest =>
    let r := s.translate c (s.partOf c) x.1 true
    match r.2, rest with
    | none, _ => (r.1, false)
    | some l, [] => r.1.vtPut c x.1 l bs near
    | some l, y :: _ =>
      let q := r.1.translate c (s.partOf c) y.1 true
      match q.2 with
      | none => (q.1, false)
      | some m =>
        let w := q.1.vtPut c x.1 l (bs.take x.2) near
        if w.2 then w.1.vtPut c y.1 m (bs.drop x.2) near else w

/-- The core and slot of the group that a register target word names, if it holds `n` registers from REG (R303). -/
def State.regTarget (s : State) (p grid : Nat) (w : Word) (n : Nat) : Option (Nat × Nat) := do
  let place ← (s.part p).coreList.findSome? (fun c =>
    ((s.core c).teamList.find? (fun x => x.2.grid == grid && x.2.num == (w.extractLsb' 16 16).toNat)).map (fun x => (c, x.1)))
  let g ← (s.core place.1).groupList.find? (fun x => x.2.team == place.2 && x.2.index == (w.extractLsb' 12 4).toNat)
  if g.2.xgrp || decide (g.2.nregs < (w.extractLsb' 4 8).toNat + n) then none else some (place.1, g.1)

/-- A word delivered to a register: every lane takes it, and a result outstanding for it is discarded (R303). -/
def Group.discard (g : Group) (r : Nat) : Group :=
  { g with inflight := g.inflight.map (fun f =>
      { f with vregs := f.vregs.filter (fun x => x != r), vdata := f.vdata.filter (fun x => x.1 != r) }) }

/-- A transfer writes registers `(register, lane, value)` of a group: the other cores see them too (R315). -/
def State.putRegs (s : State) (c slot : Nat) (l : List (Nat × Nat × Word)) : State :=
  match s.group c slot with
  | some g =>
    if g.spill.isNone then s.modCore c (fun k => k.modRegs (fun m => Store.writeAll m (l.map (fun e => (g.cell slot e.1 e.2.1, e.2.2)))))
    else s.writeV c slot l
  | none => s

/-- The words of a piece. -/
def bytesWords (bs : List Byte) : List Word :=
  (List.range (bs.length / 4)).map (fun i => BitVec.ofNat 32 (leNat ((bs.drop (4 * i)).take 4)))

/-- The number of registers that a transfer of `len` local bytes moves. -/
def regCount (len : Nat) : Nat := len / 128

/-- Whether the other package refuses a piece, which its state decides (R220, R325, log 32). -/
def State.linkRefuses (s : State) : State × Bool :=
  let r := s.fresh
  (r.2, Config.freeBit r.1)

/-- Reading one piece at byte `i` of a transfer of `len` bytes: none ends the transfer. -/
def State.readSide (s : State) (c : Nat) (x : Transfer) (side : Side) (i n len : Nat) : State × Option (List Byte) × Bool :=
  match side with
  | .near .sp off =>
    (s, some (Memory.bytes (s.core c).sp (((s.team c x.team).getD Team.zero).spb + off + i) n), false)
  | .near .vt off => s.vtRead c (aperture c x.team + off + i) n true
  | .far (.win a) =>
    let r := s.winBytes c (a + i) n
    (r.1, some r.2, false)
  | .far (.cl a) => (s, some (Memory.bytes (s.cluster (winSlice a)).prog (a % 2 ^ 24 + i) n), false)
  | .far (.vt va) => s.vtRead c (va + i) n false
  | .far (.reg w) =>
    match s.regTarget (s.partOf c) (s.teamGrid c x.team) w (regCount len) with
    | none => (s, none, false)
    | some t =>
      match s.group t.1 t.2 with
      | none => (s, none, false)
      | some g =>
        let r := (w.extractLsb' 4 8).toNat + i / 128
        let b := s.regBytes c t.1 t.2 g r
        (b.1, some b.2, false)
  | .far (.host a) => if 2 ^ 64 < a + i + n then (s, none, false) else (s, some (Memory.bytes s.host (a + i) n), false)
  | .far (.tier a) => if s.tierSize < a + i + n then (s, none, false) else (s, some (Memory.bytes s.tier (a + i) n), false)
  | .far (.link pkg rsp _) =>
    if !s.linked (s.partOf c) pkg x.stream then (s, none, false)
    else
      let r := s.linkRefuses
      if r.2 then (r.1, none, false)
      else
        let m := r.1.fresh
        let bytes := (List.range n).map (fun j => Config.freeLinkByte (m.2.free + j))
        ({ m.2 with free := m.2.free + n }, some bytes, rsp == .vt && Config.freeBit m.1)

/-- Writing one piece; false ends the transfer. A put over a link leaves this package, on the link that its stream started on
(R374, log 32). -/
def State.writeSide (s : State) (c : Nat) (x : Transfer) (side : Side) (i len : Nat) (bs : List Byte) : State × Bool :=
  match side with
  | .near .sp off =>
    (s.modCore c (fun k => k.modSp (fun m => Memory.store m (((s.team c x.team).getD Team.zero).spb + off + i) bs)), true)
  | .near .vt off => s.vtWrite c (aperture c x.team + off + i) bs true
  | .far (.win a) =>
    (s.modCore (winCore a) (fun k =>
      (List.range bs.length).foldl (fun k j => k.winWrite ((a + i + j) % 2 ^ 24) (bs.getD j 0)) k), true)
  | .far (.cl a) =>
    (s.modCluster (winSlice a) (fun k => { k with prog := Memory.store k.prog (a % 2 ^ 24 + i) bs }), true)
  | .far (.vt va) => s.vtWrite c (va + i) bs false
  | .far (.reg w) =>
    match s.regTarget (s.partOf c) (s.teamGrid c x.team) w (regCount len) with
    | none => (s, false)
    | some t =>
      let r := (w.extractLsb' 4 8).toNat + i / 128
      let ws := bytesWords bs
      ((s.putRegs t.1 t.2 ((List.range 32).map (fun l => (r, l, ws.getD l 0)))).modGroup t.1 t.2 (fun g => g.discard r), true)
  | .far (.host a) => if 2 ^ 64 < a + i + bs.length then (s, false) else ({ s with host := Memory.store s.host (a + i) bs }, true)
  | .far (.tier a) =>
    if s.tierSize < a + i + bs.length then (s, false) else ({ s with tier := Memory.store s.tier (a + i) bs }, true)
  | .far (.link pkg _ _) =>
    if s.linked (s.partOf c) pkg x.stream then (s.sendOn x.stream bs, true) else (s, false)

/-- How a transfer went: the bytes moved, and its MISS and FAULT. -/
structure Moved where
  bytes : Nat
  miss : Bool
  fault : Bool

/-- The partition-virtual address of a side. -/
def sideVa (c j : Nat) : Side → Option Nat
  | .near .vt off => some (aperture c j + off)
  | .far (.vt va) => some va
  | _ => none

/-- A transfer moves the bytes of a side from byte `i` to below byte `n`: the granules it reaches with them, and did not reach
before, are counted where they are not resident in its core (R321). -/
def State.countSide (s : State) (c j : Nat) (side : Side) (i n : Nat) : State :=
  match sideVa c j side with
  | none => s
  | some va =>
    let lo := if i = 0 then va / 0x10000 else (va + i - 1) / 0x10000 + 1
    (List.range ((va + n - 1) / 0x10000 + 1 - lo)).foldl (fun s g =>
      let a := (lo + g) * 0x10000 % 2 ^ 48
      match walk s.host (s.part (s.partOf c)) a with
      | some l => if l.resident c then s else s.countAccess c a
      | none => s) s

/-- The pieces of a transfer from piece `i` on, in ascending order (R307). A piece that ends the transfer moves
nothing and leaves MISS alone. -/
def State.movePieces (s : State) (c : Nat) (x : Transfer) (src dst : Side) (len : Nat) : Nat → Nat → Bool → State × Moved
  | i, 0, miss => (s, { bytes := min len (128 * i), miss := miss, fault := false })
  | i, n + 1, miss =>
    let m := min 128 (len - 128 * i)
    match s.readSide c x src (128 * i) m len with
    | (s1, none, _) => (s1, { bytes := 128 * i, miss := miss, fault := true })
    | (s1, some bs, f) =>
      match s1.writeSide c x dst (128 * i) len bs with
      | (s2, false) => (s2, { bytes := 128 * i, miss := miss || f, fault := true })
      | (s2, true) =>
        let s3 := (s2.countSide c x.team src (128 * i) (128 * i + m)).countSide c x.team dst (128 * i) (128 * i + m)
        s3.movePieces c x src dst len (i + 1) n (miss || f)

/-! ## Completing (R314) -/

/-- What a transfer adds to its group's status. -/
structure Outcome where
  fault : Bool
  miss : Bool
  refused : Bool
  late : Bool

def Outcome.clean : Outcome := { fault := false, miss := false, refused := false, late := false }

/-- A status after one more completion. -/
def TgStatus.add (t : TgStatus) (o : Outcome) : TgStatus where
  fault := t.fault || o.fault
  miss := t.miss || o.miss
  refused := t.refused || o.refused
  late := t.late || o.late
  count := min 0xFFFF (t.count + 1)

/-- `TINFO` of transfer-fault: TG and the transfer sequence (R328). -/
def xferInfo (tg seq : Nat) : BitVec 64 := BitVec.ofNat 64 (tg + seq % 65536 * 65536)

/-- A transfer's completion reaches its group's status, and a fault becomes due (R314, R328). -/
def State.completeXfer (s : State) (c : Nat) (x : Transfer) (o : Outcome) : State :=
  let s1 := s.modOwner c x.slot x.uid (fun g =>
    { g with tg := g.tg.set x.tg ((g.tg.getD x.tg TgStatus.zero).add o) })
  if o.fault then s1.dueOwner c x.slot x.uid Causes.transferFault (xferInfo x.tg x.seq) else s1

/-! ## What the other transfers do (R308-R311) -/

/-- The rows of a drain are read, zeroed if asked, and staged in the destination's cluster (R308). -/
def State.stageRows (s : State) (c : Nat) (x : Transfer) (first rows drow dcore : Nat) (z : Bool) (seq : Nat) : State :=
  let k := s.core c
  let t := (s.team c x.team).getD Team.zero
  let staged : List StageRow := (List.range rows).map (fun r =>
    { dcore := dcore, drow := drow + r, core := c, team := t.num, group := x.group, seq := seq, grid := t.grid,
      vals := (List.range 64).map (fun n => Store.read k.acc ((first + r) * 64 + n)) })
  let s1 := if z then
      s.modCore c (fun k => { k with acc := Store.clear k.acc (fun a => decide (first ≤ a / 64) && decide (a / 64 < first + rows)) })
    else s
  s1.modCluster (dcore / 8) (fun q => { q with reserved := q.reserved - rows, staged := q.staged ++ staged })

/-- The cluster of an atomic's target. -/
def AtomPlace.cluster : AtomPlace → Nat
  | .scratch c _ => c / 8
  | .vault c _ => c / 8
  | .slice k _ => k

/-- Applying an atomic to its word in a scratchpad or a slice, or to a vault through its translation as it now
stands (R230, R310); an unreachable vault word is left alone. -/
def State.applyAtom (s : State) (a : AtomEntry) : State :=
  match a.place with
  | .scratch c off => s.modCore c (fun k =>
      let m := (Memory.atomic k.sp off a.op a.w64 a.data a.cmp).1
      { k with sp := m, shownSp := k.shownSp.map (fun x => Memory.store x off (Memory.bytes m off (atomBits a.w64 / 8))) })
  | .slice k off => s.modCluster k (fun q => { q with prog := (Memory.atomic q.prog off a.op a.w64 a.data a.cmp).1 })
  | .vault c va =>
    match walk s.host (s.part (s.partOf c)) va with
    | none => s
    | some l =>
      if Pte.res l.pte then
        s.modCore (Pte.core l.pte) (fun k => { k with vault := (Memory.atomic k.vault (l.offset va) a.op a.w64 a.data a.cmp).1 })
      else if Pte.tier l.pte = 1 then { s with tier := (Memory.atomic s.tier (l.backing va) a.op a.w64 a.data a.cmp).1 }
      else if Pte.tier l.pte = 2 then { s with host := (Memory.atomic s.host (l.backing va) a.op a.w64 a.data a.cmp).1 }
      else s

/-- Remote atomics enter their buffers, lane by lane (R310): one that finds its buffer full is applied at once, or is
discarded in a deterministic grid (R97). -/
def State.bufferAtoms (s : State) (det : Bool) (l : List AtomEntry) : State × Outcome :=
  l.foldl (fun (a : State × Outcome) x =>
    let cl := x.place.cluster
    if (a.1.cluster cl).ratoms.length < Config.ratomCap then
      (a.1.modCluster cl (fun k => { k with ratoms := k.ratoms ++ [x] }), a.2)
    else if det then (a.1, { a.2 with late := true, fault := true })
    else (a.1.applyAtom x, { a.2 with late := true })) (s, Outcome.clean)

/-- Bytes of a call packet (R311). -/
def CallPkt.bytes (p : CallPkt) : Nat := 16 + 4 * p.payload.length

/-- A call packet reaches the queue of its team's core, or is refused (R311). -/
def State.sendCall (s : State) (c : Nat) (x : Transfer) (team handler words payload seq : Nat) : State × Outcome :=
  let t := (s.team c x.team).getD Team.zero
  let target := (s.part (s.partOf c)).coreList.find? (fun c =>
    (s.core c).teamList.any (fun y => y.2.grid == t.grid && y.2.num == team && !y.2.ending))
  match target with
  | none => (s, { Outcome.clean with fault := true })
  | some d =>
    let pkt : CallPkt := {
      grid := t.grid, team := team, handler := handler, core := c, steam := t.num, group := x.group, seq := seq,
      payload := bytesWords (Memory.bytes (s.core c).sp (t.spb + payload) (128 * words)) }
    let q := (s.cluster (d / 8)).calls.getD (d % 8) []
    if (q.foldl (fun n p => n + p.bytes) 0) + pkt.bytes ≤ Config.callQueueBytes then
      (s.modCluster (d / 8) (fun k => { k with calls := k.calls.set (d % 8) (q ++ [pkt]) }), Outcome.clean)
    else (s, { Outcome.clean with refused := true })

/-! ## Bulk transfers piece by piece (R307, R315, R330) -/

/-- The sides of a bulk transfer: source, then destination. -/
def bulkSides (rem : Remote) (toLocal : Bool) (lsp : Space) (loc : Nat) : Side × Side :=
  if toLocal then (.far rem, .near lsp loc) else (.near lsp loc, .far rem)

/-- The host address that a put writes to. -/
def putsTo (rem : Remote) (toLocal : Bool) : Option Nat :=
  match rem, toLocal with
  | .host a, false => some a
  | _, _ => none

/-- Before a get reads host memory, the bytes of the puts that it follows have reached it (R330). -/
def State.follow (s : State) (x : Transfer) (toLocal : Bool) : State :=
  if toLocal then s.landWords (fun w => x.after.contains w.cmd) else s

/-- What the late words of a transfer carry. -/
def State.xferTag (s : State) (c : Nat) (x : Transfer) : LateWord := lateTag x.acqId (s.teamGrid c x.team) x.uid x.after x.ordered

/-- The stream of an `xlink` is chosen at its first piece and kept (R374). -/
def State.onStream (s : State) (x : Transfer) : Transfer :=
  match x.op with
  | .bulk (.link pkg _ _) _ _ _ _ => { x with stream := x.stream.orElse (fun _ => s.streamTo pkg) }
  | _ => x

/-- A transfer after `moved` of its pieces: for a put over a link, with the last payload that the link has been given. -/
def State.afterPieces (s : State) (x : Transfer) (moved : Nat) (miss : Bool) : Transfer :=
  { x with moved := moved, miss := miss,
           sent := if moved = x.moved then x.sent else (x.stream.map (fun l => (s.link l.1).queued)).getD 0 }

/-- The pieces `x.moved` to below `x.moved + n` of a bulk transfer move. The bytes of a put to host memory are on the link then,
and reach host memory later (R314, R330). -/
def State.bulkPieces (s : State) (c : Nat) (x : Transfer) (rem : Remote) (toLocal : Bool) (lsp : Space) (loc len n : Nat) :
    State × Moved :=
  let sd := bulkSides rem toLocal lsp loc
  match putsTo rem toLocal with
  | none => (s.landCmd x.acqId).movePieces c x sd.1 sd.2 len x.moved n x.miss
  | some a =>
    let r := s.movePieces c x sd.1 sd.2 len x.moved n x.miss
    (s.hideHost r.1 (s.xferTag c x) (a + min len (128 * x.moved)) (a + r.2.bytes), r.2)

/-- The next piece of a bulk transfer moves: its words are on their way then, and those of the pieces before it that have not arrived
stay so, though it reads them as written. A piece that ends the transfer is left to the completion. -/
def State.xferPiece (s : State) (c idx : Nat) : State :=
  match (s.core c).xfers[idx]? with
  | none => s
  | some x0 =>
    match x0.op with
    | .bulk rem toLocal lsp loc len =>
      if (len + 127) / 128 ≤ x0.moved then s
      else
        let x := s.onStream x0
        let s1 := (s.acquire c x.slot x.acq x.acqId).follow x toLocal
        let r := s1.bulkPieces c x rem toLocal lsp loc len 1
        if r.2.fault then s
        else
          (s1.hideWords r.1 (s.xferTag c x) (s1.changes r.1)).modCore c (fun k =>
            { k with xfers := k.xfers.set idx (r.1.afterPieces x (x.moved + 1) r.2.miss) })
    | _ => s

/-- The pieces of a bulk transfer that are left move. -/
def State.runBulk (s : State) (c : Nat) (x : Transfer) (rem : Remote) (toLocal : Bool) (lsp : Space) (loc len : Nat) :
    State × Outcome :=
  let s1 := (s.acquire c x.slot x.acq x.acqId).follow x toLocal
  let r := s1.bulkPieces c x rem toLocal lsp loc len ((len + 127) / 128 - x.moved)
  (r.1, { Outcome.clean with fault := r.2.fault, miss := r.2.miss })

/-- What a transfer does, with what it adds to its group's status. -/
def State.runXfer (s : State) (c : Nat) (x : Transfer) : State × Outcome :=
  match x.op with
  | .bulk rem toLocal lsp loc len => s.runBulk c x rem toLocal lsp loc len
  | .drain first rows drow dcore z seq => (s.stageRows c x first rows drow dcore z seq, Outcome.clean)
  | .atoms l det => s.bufferAtoms det l
  | .call team handler words payload seq => s.sendCall c x team handler words payload seq
  | .page id fault =>
    (((s.landCmd x.acqId).fillFlight c x.slot id (fun f => { f with ready := true })).deliver c x.slot id,
      { Outcome.clean with fault := fault })

/-- The far end's answer to a put over a link whose pieces have been sent (R325): none before it has acknowledged them all; then
whether it refuses the put, as it does where the link no longer carries its stream (log 32). Other transfers need no answer. -/
def State.linkAnswer (s : State) (x : Transfer) : State × Option Bool :=
  match x.op, x.stream with
  | .bulk (.link _ _ _) false _ _ _, some l =>
    if !s.streamUp l then (s, some true)
    else if (s.link l.1).ackedCount < x.sent then (s, none)
    else
      let r := s.linkRefuses
      (r.1, some r.2)
  | _, _ => (s, some false)

/-- The number of a transfer's pieces. -/
def Transfer.pieces (x : Transfer) : Nat :=
  match x.op with
  | .bulk _ _ _ _ len => (len + 127) / 128
  | _ => 0

/-- A transfer leaves its core's list and completes. -/
def State.endXfer (s : State) (c idx : Nat) (x : Transfer) (o : Outcome) : State :=
  ((s.modCore c (fun k => { k with xfers := k.xfers.eraseIdx idx })).completeXfer c x o).tryEndTeam c x.team

/-- A transfer completes (R307, R314); a put over a link first sends what is left of it and then waits for its answer (R325). -/
def execTransferComplete (core : Fin 256) (idx : Nat) (s : State) : Host.Outcome State Fault Refusal :=
  let c := core.val
  match (s.core c).xfers[idx]? with
  | none => .next s
  | some x0 =>
    let x := s.onStream x0
    let r := s.runXfer c x
    if r.2.fault then .next (r.1.endXfer c idx x r.2)
    else
      let y := r.1.afterPieces x x.pieces r.2.miss
      let a := r.1.linkAnswer y
      .next (match a.2 with
        | none => a.1.modCore c (fun k => { k with xfers := k.xfers.set idx y })
        | some f => a.1.endXfer c idx x { r.2 with fault := f })

/-! ## Issue (R301, R327, R328) -/

/-- The transfers of a group that are outstanding. -/
def Core.xfersOf (k : Core) (uid : Nat) : List Transfer := k.xfers.filter (fun x => x.uid == uid)

/-- The offset of a deadline class (R318). -/
def classOffset (n : Nat) : Nat := [0, 1024, 2048, 4096, 8192, 12288, 16384, 24576].getD n 0

/-- The deadline of a packet injected now (R318). -/
def State.deadline (s : State) (gr : Grid) : Nat :=
  s.clock + classOffset (if gr.lrec.dclass = 0 then (s.queue gr.queue).qclass.toNat else gr.lrec.dclass.toNat)

/-- The form of a row 0xA word (R101). -/
def xferForm (g : Guard) (dst src : List (Reg × Nat)) : Form := { Form.plain g with dsts := dst, srcs := src, inC := false }

/-- The puts with `.sys.rel` of a group that have completed, with bytes still on their way to host memory (R330). -/
def State.putsBefore (s : State) (k : Core) (uid : Nat) : List Nat :=
  ((s.late.filter (fun w => w.uid == uid && w.ordered && !k.xfers.any (fun x => x.acqId == w.cmd))).map (fun w => w.cmd)).eraseDups

/-- Whether a transfer is a request to the host. -/
def XferOp.toHost : XferOp → Bool
  | .bulk (.host _) _ _ _ _ => true
  | _ => false

/-- A word makes its transfer: the group's sequence advances, and the transfer begins, or ends at once when it has no
length (R301, R328). `ordered` marks a put with `.sys.rel` to the host. -/
def Env.startXfer (e : Env) (tg : Nat) (op : XferOp) (acq ordered : Bool) (s : State) : State :=
  let x : Transfer := {
    slot := e.slot, uid := e.g.uid, team := e.g.team, group := e.g.index, tg := tg, seq := e.g.xferSeq + 1, op := op, acq := acq,
    acqId := s.nextId, deadline := s.deadline e.gr, moved := 0, miss := false,
    stream := none, sent := 0, ordered := ordered,
    after := if op.toHost then s.putsBefore e.k e.g.uid else [] }
  let s1 := e.modG (fun g => { g with xferSeq := g.xferSeq + 1 }) s
  match op with
  | .bulk _ _ _ _ 0 => s1.completeXfer e.core x Outcome.clean
  | _ => { e.modK (fun k => { k with xfers := k.xfers ++ [x] }) s1 with nextId := s.nextId + 1 }

/-- A transfer word with a passing lane: a 65th outstanding transfer stalls before issue (R301). -/
def runXferWord (f : Form) (group : Bool) (body : Env → State → Except Trap State) (s : State) :
    Host.Outcome State Fault Refusal :=
  runWord { f with group := group } (fun e s =>
    if e.act = 0 then .ok (.done s)
    else if 64 ≤ (e.k.xfersOf e.g.uid).length then .ok (.hold (e.waitFor .stalled s))
    else (body e s).map Eff.done) s

/-- A length operand (R301). -/
def lengthCheck (n : Nat) : Except Trap Unit :=
  trapIf (n % 4 != 0 || decide (Config.maxLength < n)) Causes.exchangeOperand

/-- A remote side's address, checked (R302-R304): with bits [63:48] zero, mapped, and in the issuing partition. -/
def Env.remote (e : Env) (rsp : RSpace) (a : Reg) (n : Nat) (own : Bool) : Except Trap Remote := do
  let addr := (e.rd64 a 0).toNat
  match rsp with
  | .reg => pure (.reg (e.sc a))
  | .win =>
    trapIf (!coreMapped addr n || (own && !e.pt.hasCore (winCore addr))) Causes.exchangeAddress
    pure (.win addr)
  | .cl =>
    trapIf (!sliceMapped addr n || (own && !e.pt.hasCluster (winSlice addr))) Causes.exchangeAddress
    pure (.cl addr)
  | .vt =>
    trapIf (decide (2 ^ 48 ≤ addr)) Causes.exchangeAddress
    pure (.vt addr)

/-- The local bytes that a pull or push moves, with the checks of its length or count (R301, R303). -/
def Env.pullLength (e : Env) (rsp : RSpace) (a c : Reg) : Except Trap Nat := do
  let n := (e.sc c).toNat
  if rsp = .reg then
    trapIf ((e.sc a).toNat % 16 != 0 || n == 0 || decide (192 < n)) Causes.exchangeOperand
    pure (128 * n)
  else
    lengthCheck n
    pure n

/-- `xpull` and `xpush` (R307). -/
def runPull (g : Guard) (a b c : Reg) (tg : Fin 8) (acq : Bool) (scope : Scope) (rsp : RSpace) (lsp : Space) (toLocal : Bool)
    (s : State) : Host.Outcome State Fault Refusal :=
  runXferWord (xferForm g [] [(a, if rsp = .reg then 1 else 2), (b, 1), (c, 1)]) true (fun e s => do
    let len ← e.pullLength rsp a c
    let rem ← e.remote rsp a len true
    e.spanCheck lsp (e.sc b).toNat len
    let dem ← e.demote (scope == .sys)
    pure (e.startXfer tg.val (.bulk rem toLocal lsp (e.sc b).toNat len) acq false (dem s))) s

def execXpull (g : Guard) (a b c : Reg) (tg : Fin 8) (_rel acq : Bool) (scope : Scope) (rsp : RSpace) (lsp : Space) (s : State) :=
  runPull g a b c tg acq scope rsp lsp true s
def execXpush (g : Guard) (a b c : Reg) (tg : Fin 8) (_rel acq : Bool) (scope : Scope) (rsp : RSpace) (lsp : Space) (s : State) :=
  runPull g a b c tg acq scope rsp lsp false s

/-- `xhost` and `xtier` (R307): the port judges the address when the transfer executes. -/
def runPort (g : Guard) (a b c : Reg) (tg : Fin 8) (rel acq : Bool) (scope : Scope) (lsp : Space) (get host : Bool) (s : State) :
    Host.Outcome State Fault Refusal :=
  runXferWord (xferForm g [] [(a, 2), (b, 1), (c, 1)]) true (fun e s => do
    let len := (e.sc c).toNat
    lengthCheck len
    e.spanCheck lsp (e.sc b).toNat len
    let dem ← e.demote (scope == .sys)
    let addr := (e.rd64 a 0).toNat
    pure (e.startXfer tg.val (.bulk (if host then .host addr else .tier addr) get lsp (e.sc b).toNat len) acq
      (host && !get && sysRelease scope rel && !e.pt.tenantScope) (dem s))) s

def execXhost (g : Guard) (a b c : Reg) (tg : Fin 8) (rel acq : Bool) (scope : Scope) (lsp : Space) (get : Bool) (s : State) :=
  runPort g a b c tg rel acq scope lsp get true s
def execXtier (g : Guard) (a b c : Reg) (tg : Fin 8) (rel acq : Bool) (scope : Scope) (lsp : Space) (get : Bool) (s : State) :=
  runPort g a b c tg rel acq scope lsp get false s

/-- `xlink` (R307, R325, R326). The peer's extent is not this package's to know (log 32). -/
def execXlink (g : Guard) (d a b c : Reg) (tg : Fin 8) (_rel acq : Bool) (scope : Scope) (rsp : RSpace) (lsp : Space) (get : Bool)
    (s : State) : Host.Outcome State Fault Refusal :=
  runXferWord (xferForm g [] [(d, 1), (a, 2), (b, 1), (c, 1)]) true (fun e s => do
    let pkg := (e.sc d).toNat
    trapIf (decide (255 < pkg) || pkg == s.pkgnum.toNat) Causes.exchangeOperand
    let len := (e.sc c).toNat
    lengthCheck len
    let _ ← e.remote rsp a len false
    e.spanCheck lsp (e.sc b).toNat len
    let dem ← e.demote (scope == .sys)
    pure (e.startXfer tg.val (.bulk (.link pkg rsp (e.rd64 a 0).toNat) get lsp (e.sc b).toNat len) acq false (dem s))) s

/-- `xdrain` (R308): the rows it will stage are reserved at issue. -/
def execXdrain (g : Guard) (a b c : Reg) (tg : Fin 8) (z : Bool) (s : State) : Host.Outcome State Fault Refusal :=
  runXferWord (xferForm g [] [(a, 1), (b, 1), (c, 1)]) true (fun e s => do
    let first := (e.sc a).toNat
    let rows := (e.sc b).toNat
    let peer := e.sc c
    let drow := (peer.extractLsb' 16 10).toNat
    let dcore := (peer.extractLsb' 0 8).toNat
    trapIf (rows == 0 || decide (1024 < rows) || decide (1024 < first + rows) || decide (1024 < drow + rows) ||
      peer &&& 0xFC00FF00 != 0 || !e.pt.hasCore dcore) Causes.exchangeOperand
    trapIf (e.k.mowner != some e.g.team) Causes.matrixOwner
    let q := s.cluster (dcore / 8)
    trapIf (decide (Config.stagingCap < q.staged.length + q.reserved + rows)) Causes.drainStaging
    let s1 := s.modCluster (dcore / 8) (fun q => { q with reserved := q.reserved + rows })
    let s2 := e.modG (fun g => { g with xdrainSeq := g.xdrainSeq + 1 }) s1
    pure (e.startXfer tg.val (.drain first rows drow dcore z e.g.xdrainSeq) false false s2)) s

/-- An atomic's target of a lane (R310). -/
def Env.atomTarget (e : Env) (a : Reg) (cl w64 : Bool) (lane : Nat) : Option AtomPlace :=
  let addr := (e.rd64 a lane).toNat
  let n := if w64 then 8 else 4
  if addr % n != 0 then none
  else if cl then
    if sliceMapped addr n && e.pt.hasCluster (winSlice addr) then some (.slice (winSlice addr) (addr % 2 ^ 24)) else none
  else if coreMapped addr n && e.pt.hasCore (winCore addr) && decide (addr % 2 ^ 24 < Config.scratchBytes) then
    some (.scratch (winCore addr) (addr % 2 ^ 24))
  else none

/-- `xatom` (R310): one atomic for each real lane. -/
def execXatom (g : Guard) (a b : Reg) (c : Option Reg) (tg : Fin 8) (cl w64 : Bool) (op : AtomOp) (s : State) :
    Host.Outcome State Fault Refusal :=
  let n := if w64 then 2 else 1
  runXferWord (xferForm g [] ([(a, 2), (b, n)] ++ (c.map (fun r => (r, n))).toList)) false (fun e s =>
    match firstTrap e.realLanes (fun l =>
      if (e.atomTarget a cl w64 l).isNone then some { cause := Causes.exchangeAddress, info := 0, lane := l } else none) with
    | some t => .error t
    | none =>
      let val := fun (r : Reg) (l : Nat) => if w64 then e.rd64 r l else (e.rd r l).setWidth 64
      let l : List AtomEntry := e.realLanes.filterMap (fun l => (e.atomTarget a cl w64 l).map (fun p =>
        { key := { order := e.gr.order, team := e.t.num, group := e.g.index, lane := l, seq := e.g.xatomSeq }
          grid := e.g.grid, place := p, op := op, w64 := w64, data := val b l, cmp := (c.map (fun r => val r l)).getD 0 }))
      .ok (e.startXfer tg.val (.atoms l e.gr.lrec.det) false false (e.modG (fun g => { g with xatomSeq := g.xatomSeq + 1 }) s))) s

/-- `xcall` (R311). With no payload words C is neither read nor checked. -/
def execXcall (g : Guard) (a b c : Reg) (tg : Fin 8) (words : Fin 9) (s : State) : Host.Outcome State Fault Refusal :=
  runXferWord (xferForm g [] ([(a, 1), (b, 1)] ++ if words = 0 then [] else [(c, 1)])) true (fun e s => do
    trapIf ((e.sc b).toNat % 8 != 0) Causes.exchangeOperand
    if words.val != 0 then e.spanCheck .sp (e.sc c).toNat (128 * words.val)
    let s1 := e.modG (fun g => { g with xcallSeq := g.xcallSeq + 1 }) s
    pure (e.startXfer tg.val (.call (e.sc a).toNat (e.sc b).toNat words.val (e.sc c).toNat e.g.xcallSeq) false false s1)) s

/-! ## Paging (R313) -/

/-- A page word's result: pending until its transfer completes. -/
def Env.pageResult (e : Env) (d : Reg) (tg : Nat) (v : Word) (fault : Bool) (s : State) : State :=
  let id := s.nextId
  let regs := scalars (d, 1)
  let s1 := s.addInflight e.core e.slot (fun id =>
    { id := id, kind := .exchange, vregs := [], sregs := regs, vdata := [], sdata := regs.map (fun r => (r, v)), flags := 0,
      ready := false })
  e.startXfer tg (.page id fault) false false s1

/-- A record of `xpage.list`. -/
def pageRecord (kind core granule : Nat) : List Byte := leBytes 8 (granule % 2 ^ 48 + core * 2 ^ 48 + kind * 2 ^ 62)

/-- A transfer writes records into its core's scratchpad: their words, from the one of number `i` on, are on their way until it
completes (R315, R329, log 12). -/
def State.lateRecords (s : State) (c i : Nat) (tag : LateWord) (recs : List Byte) : State :=
  let t := s.modCore c (fun k => k.modSp (fun m => Memory.store m (4 * i) recs))
  s.hideWords t tag ((List.range (recs.length / 4)).map (fun j =>
    (WordPlace.scratch c (i + j), t.wordAt (.scratch c (i + j)))))

/-- `xpage.list`: page requests of the core, then notifications of its cluster. -/
def execXpageList (g : Guard) (d a b : Reg) (tg : Fin 8) (s : State) : Host.Outcome State Fault Refusal :=
  runXferWord (xferForm g [(d, 1)] [(a, 1), (b, 1)]) true (fun e s => do
    let off := (e.sc a).toNat
    let n := (e.sc b).toNat
    trapIf (off % 8 != 0) Causes.misalignedAccess
    e.spanCheck .sp off (8 * n)
    let q := s.cluster (e.core / 8)
    let pos := e.core % 8
    let reqs := (q.pageReq.getD pos []).take n
    let notes := q.notify.take (n - reqs.length)
    let recs := reqs.flatMap (pageRecord 0 e.core) ++ notes.flatMap (fun x => pageRecord 1 x.2 x.1)
    let s1 := s.lateRecords e.core ((e.t.spb + off) / 4) (lateTag (s.nextId + 1) e.g.grid e.g.uid [] false) recs
    let s2 := s1.modCluster (e.core / 8) (fun q =>
      { q with pageReq := q.pageReq.set pos ((q.pageReq.getD pos []).drop n), notify := q.notify.drop notes.length,
               notifyOvf := q.notifyOvf && n == 0 })
    let ovf : Word := if q.notifyOvf && n != 0 then 0x80000000 else 0
    pure (e.pageResult d tg.val (ovf + BitVec.ofNat 32 (reqs.length + notes.length)) false s2)) s

/-- The leaf that `.map` installs. -/
def mapLeaf (leaf : Dword) (core frame : Nat) : Dword := (leaf &&& 0xCB) ||| 4 ||| BitVec.ofNat 64 (frame + core * 2 ^ 56)
/-- The leaf that `.evict` installs. -/
def evictLeaf (leaf : Dword) (host : Bool) (backing : Dword) : Dword :=
  (leaf &&& 0x0B) ||| (if host then 0x80 else 0x40) ||| (backing &&& 0x000FFFFFFFFFF000)

/-- A move is accepted, unless it needs a second tier that is disabled (R373). -/
def Env.acceptMove (e : Env) (m : PageMove) (off : Bool) (s : State) : State :=
  if off then s else e.modK (fun k => { k with moves := k.moves ++ [m] }) s

/-- `xpage.map`. -/
def execXpageMap (g : Guard) (d a b : Reg) (tg : Fin 8) (s : State) : Host.Outcome State Fault Refusal :=
  runXferWord (xferForm g [(d, 1)] [(a, 2), (b, 1)]) true (fun e s => do
    let va := (e.rd64 a 0).toNat % 2 ^ 48
    let frame := (e.sc b).toNat
    let leaf := walk s.host e.pt va
    let size := (leaf.map (fun l => pageSize l.big)).getD 0x10000
    trapIf (frame % size != 0 || decide (Config.spillBase ≤ frame)) Causes.exchangeOperand
    match leaf with
    | none => pure (e.pageResult d tg.val 1 false s)
    | some l =>
      let m : PageMove := {
        grid := e.g.grid, core := e.core, va := va / size * size, big := l.big, leaf := l.pte, newLeaf := mapLeaf l.pte e.core frame,
        evict := false, frame := frame, tier := 0, backing := 0 }
      let off := s.tierSize == 0 && !Pte.res l.pte && Pte.tier l.pte == 1
      pure (e.pageResult d tg.val 0 off (e.acceptMove m off s))) s

/-- `xpage.evict`. -/
def execXpageEvict (g : Guard) (d a b : Reg) (tg : Fin 8) (host : Bool) (s : State) : Host.Outcome State Fault Refusal :=
  runXferWord (xferForm g [(d, 1)] [(a, 2), (b, 2)]) true (fun e s =>
    let va := (e.rd64 a 0).toNat % 2 ^ 48
    match walk s.host e.pt va with
    | none => .ok (e.pageResult d tg.val 1 false s)
    | some l =>
      let size := pageSize l.big
      let new := evictLeaf l.pte host (e.rd64 b 0)
      let m : PageMove := {
        grid := e.g.grid, core := e.core, va := va / size * size, big := l.big, leaf := l.pte, newLeaf := new, evict := true, frame := 0,
        tier := if host then 2 else 1, backing := Pte.addr new }
      let off := s.tierSize == 0 && (!host || (!Pte.res l.pte && Pte.tier l.pte == 1))
      .ok (e.pageResult d tg.val 0 off (e.acceptMove m off s))) s

/-! ## `xwait` (R314) -/

/-- The status of the named groups is read and cleared. -/
def Env.takeStatus (e : Env) (d : Reg) (tgs : List Nat) (s : State) : State :=
  e.modG (fun g => { g with tg := tgs.foldl (fun l i => l.set i TgStatus.zero) g.tg })
    (e.wrS d (statusWord (tgs.map (fun i => e.g.tg.getD i TgStatus.zero))) s)

/-- `xwait`. -/
def execXwait (g : Guard) (d : Reg) (tg : Fin 8) (all : Bool) (s : State) : Host.Outcome State Fault Refusal :=
  runGroup (xferForm g [(d, 1)] []) (fun e s =>
    let tgs := if all then List.range 8 else [tg.val]
    if (e.k.xfersOf e.g.uid).any (fun x => tgs.contains x.tg) then
      .ok (.hold (e.waitFor (.xwait (if all then none else some tg.val) d) s))
    else .ok (.done (e.takeStatus d tgs s))) s

/-! ## Packets (R318) -/

/-- A packet of a transfer is delivered; one delivered after its deadline is counted and flagged. -/
def execPacketDeliver (core : Fin 256) (idx : Nat) (late : Bool) (s : State) : Host.Outcome State Fault Refusal :=
  let c := core.val
  match (s.core c).xfers[idx]? with
  | none => .next s
  | some x =>
    if late && decide (x.deadline < s.clock) then
      let s1 := s.modCore c (fun k => { k with xlate := if k.xlate = 0xFFFFFFFF then k.xlate else k.xlate + 1 })
      let s2 := s1.modOwner c x.slot x.uid (fun g =>
        { g with tg := g.tg.set x.tg { g.tg.getD x.tg TgStatus.zero with late := true } })
      let on := ((s.group c x.slot).map (fun g => g.uid == x.uid && g.xdln)).getD false
      .next (if on then s2.dueOwner c x.slot x.uid Causes.deadlineMiss (BitVec.ofNat 64 x.tg) else s2)
    else .next s

end Sys2Proof.Machine
end

