-- ==== Sys2Proof/Machine/Cipher.lean ====
section
/-! DEFINITION. AES-256 (FIPS 197) and its XTS mode (IEEE 1619), under which context images are written (R350, R353). A key is
512 bits: the low half encrypts the data, the high half the tweak (log 14). -/

namespace Sys2Proof.Machine

open Sys2Proof

/-! ## Bytes as elements of GF(2^8) -/

/-- A byte times `x`. -/
def xtime (b : Byte) : Byte := (b <<< 1) ^^^ (if b.msb then 0x1B else 0)

/-- A product of two bytes. -/
def gmul (a b : Byte) : Byte :=
  ((List.range 8).foldl (fun (r : Byte × Byte) i => (if b.getLsbD i then r.1 ^^^ r.2 else r.1, xtime r.2)) (0, a)).1

/-- The inverse of a byte, 0 for 0: its power 254. -/
def ginv (b : Byte) : Byte := (List.range 253).foldl (fun r _ => gmul r b) b

/-- A table of a function of a byte. -/
def byteTable (f : Byte → Byte) : Array Byte := ((List.range 256).map (fun i => f (BitVec.ofNat 8 i))).toArray

/-- The S-box. -/
def sboxTable : Array Byte := byteTable (fun b =>
  let i := ginv b
  i ^^^ i.rotateLeft 1 ^^^ i.rotateLeft 2 ^^^ i.rotateLeft 3 ^^^ i.rotateLeft 4 ^^^ 0x63)
/-- The inverse of the S-box. -/
def sboxInvTable : Array Byte := byteTable (fun b => ginv (b.rotateLeft 1 ^^^ b.rotateLeft 3 ^^^ b.rotateLeft 6 ^^^ 0x05))
/-- The products with each byte below 16. -/
def gmulTable : Array (Array Byte) := ((List.range 16).map (fun a => byteTable (gmul (BitVec.ofNat 8 a)))).toArray

/-- The S-box of a byte. -/
def sbox (b : Byte) : Byte := sboxTable.getD b.toNat 0
/-- The inverse S-box of a byte. -/
def sboxInv (b : Byte) : Byte := sboxInvTable.getD b.toNat 0

/-! ## AES-256: a block is 16 bytes, column by column -/

/-- Bytes combined one by one. -/
def xorBytes (a b : List Byte) : List Byte := List.zipWith (fun x y => x ^^^ y) a b

/-- The schedule's words of four bytes, newest first. -/
def aesWords (key : List Byte) : List (List Byte) :=
  (List.range 52).foldl (fun (w : List (List Byte)) n =>
    let t := w.getD 0 []
    let t := if n % 8 = 0 then
        xorBytes ((t.drop 1 ++ t.take 1).map sbox) [(List.range (n / 8)).foldl (fun b _ => xtime b) 1, 0, 0, 0]
      else if n % 8 = 4 then t.map sbox else t
    xorBytes (w.getD 7 []) t :: w)
    ((List.range 8).map (fun i => (key.drop (4 * i)).take 4)).reverse

/-- The fifteen round keys. -/
def aesKeys (key : List Byte) : List (List Byte) :=
  let w := (aesWords key).reverse
  (List.range 15).map (fun r => ((w.drop (4 * r)).take 4).flatMap id)

/-- Row `r` of a block moves by `r` columns; the other way for decryption. -/
def shiftRows (dec : Bool) (b : List Byte) : List Byte :=
  (List.range 16).map (fun i => b.getD (((i + (if dec then 12 else 4) * (i % 4)) % 16)) 0)

/-- A column times the circulant matrix of four bytes below 16. -/
def mixColumn (w x y z : Nat) : List Byte → List Byte
  | [a, b, c, d] =>
    let mul := fun (k : Nat) (v : Byte) => (gmulTable.getD k #[]).getD v.toNat 0
    [mul w a ^^^ mul x b ^^^ mul y c ^^^ mul z d, mul z a ^^^ mul w b ^^^ mul x c ^^^ mul y d,
     mul y a ^^^ mul z b ^^^ mul w c ^^^ mul x d, mul x a ^^^ mul y b ^^^ mul z c ^^^ mul w d]
  | l => l

/-- Each column of a block times a circulant matrix. -/
def mixColumns (w x y z : Nat) (b : List Byte) : List Byte := (chunks 4 4 b).flatMap (mixColumn w x y z)

/-- Encrypting a block under round keys. -/
def aesEncrypt (ks : List (List Byte)) (b : List Byte) : List Byte :=
  let mid := (List.range 13).foldl (fun b r =>
    xorBytes (mixColumns 2 3 1 1 (shiftRows false (b.map sbox))) (ks.getD (r + 1) [])) (xorBytes b (ks.getD 0 []))
  xorBytes (shiftRows false (mid.map sbox)) (ks.getD 14 [])

/-- Decrypting a block under round keys. -/
def aesDecrypt (ks : List (List Byte)) (b : List Byte) : List Byte :=
  let mid := (List.range 13).foldl (fun b r =>
    mixColumns 14 11 13 9 (xorBytes ((shiftRows true b).map sboxInv) (ks.getD (13 - r) []))) (xorBytes b (ks.getD 14 []))
  xorBytes ((shiftRows true mid).map sboxInv) (ks.getD 0 [])

/-! ## XTS -/

/-- The tweak of the next block: the 128-bit number, little-endian, times `x`. -/
def nextTweak (t : BitVec 128) : BitVec 128 := (t <<< 1) ^^^ (if t.msb then 0x87 else 0)

/-- Blocks of a data unit, each between two additions of its tweak. -/
def xtsBlocks (f : List Byte → List Byte) (t : BitVec 128) : List (List Byte) → List Byte
  | [] => []
  | b :: rest =>
    let tb := leBytes 16 t.toNat
    xorBytes (f (xorBytes b tb)) tb ++ xtsBlocks f (nextTweak t) rest

/-- One data unit of whole blocks under a tweak (IEEE 1619). -/
def xtsUnit (dec : Bool) (ks tks : List (List Byte)) (tweak : Nat) (bs : List Byte) : List Byte :=
  xtsBlocks (if dec then aesDecrypt ks else aesEncrypt ks) (BitVec.ofNat 128 (leNat (aesEncrypt tks (leBytes 16 tweak))))
    (chunks 16 (bs.length / 16) bs)

/-- Bytes that begin `off` bytes into an image, unit by unit of 4 KiB; a unit's tweak is its offset (R350). -/
def xtsImage (dec : Bool) (key : BitVec 512) (off : Nat) (bs : List Byte) : List Byte :=
  let k := leBytes 64 key.toNat
  let ks := aesKeys (k.take 32)
  let tks := aesKeys (k.drop 32)
  ((chunks 0x1000 ((bs.length + 0xFFF) / 0x1000) bs).zipIdx).flatMap (fun u => xtsUnit dec ks tks (off + 0x1000 * u.2) u.1)

end Sys2Proof.Machine
end

