-- ==== Sys2Proof/Machine/Matrix.lean ====
section
/-! DEFINITION. Row 0x8: the matrix unit (R240-R259). Words are checked and queued at issue; a command ends at the event that
executes it, and moves of the agenda may make it read and write before (R256, log 12). -/

namespace Sys2Proof.Machine

open Sys2Proof

/-! ## Ownership and the queue (R241, R244, R245) -/

/-- The ownership check. -/
def Env.ownCheck (e : Env) : Except Trap Unit :=
  trapIf (e.k.mowner.any (fun j => j != e.g.team)) Causes.matrixOwner

/-- The issuing group's team becomes the owner. -/
def Env.claim (e : Env) (s : State) : State := e.modK (fun k => { k with mowner := some e.g.team }) s

/-- A word of the unit's team, group-level (R244). -/
def runOwner (f : Form) (body : Env → State → Except Trap Eff) (s : State) : Host.Outcome State Fault Refusal :=
  runGroup f (fun e s => do
    e.ownCheck
    body e s) s

/-- A command that reads a table. -/
def MCmd.isTable (x : MCmd) : Bool :=
  match x.kind with
  | .cbtab _ _ _ _ => true
  | _ => false

/-- The matrix queue holds tables alone and earlier weight-path work has ended: a command reaches the weight path as it enters
(R266). -/
def Core.pathFree (k : Core) (now : Nat) : Bool := k.mq.all MCmd.isTable && (k.times.pathEnd == 0 || decide (k.times.pathEnd < now))

/-- A command enters the queue. -/
def State.pushMatrix (s : State) (c slot uid team : Nat) (fpctl : Word) (kind : MKind) (acq : Bool) (cruiser : Option Nat) : State :=
  { s.modCore c (fun k => { k with mq := k.mq ++ [{
      slot := slot, uid := uid, team := team, kind := kind, fpctl := fpctl, acq := acq, acqId := s.nextId,
      cruiser := cruiser, entry := s.clock, alone := k.aloneNow uid, direct := k.pathFree s.clock }] }) with
    nextId := s.nextId + 1 }

/-- Whether the queue is full. -/
def Core.matrixFull (k : Core) : Bool := decide (Config.matrixQueueCap ≤ k.mq.length)

/-- A checked word claims the unit and queues its command; with the queue full it stalls. `none` queues nothing: a word of no rows
claims an unowned unit all the same, as one that passes its checks and takes effect (R241), which is the model's reading (log 67). -/
def Env.enqueueMatrix (e : Env) (kind : Option MKind) (acq : Bool) (eff : State → State) (s : State) : Eff :=
  match kind with
  | none => .done (eff (e.claim s))
  | some k =>
    if e.k.matrixFull then .hold (e.waitFor .stalled s)
    else .done (eff ((e.claim s).pushMatrix e.core e.slot e.g.uid e.g.team e.g.fpctl k acq none))

/-- The number after a batch number: 0 is skipped (R257). -/
def nextBatch (n : Word) : Word := if n = 0xFFFFFFFF then 1 else n + 1

/-- The batch that holds, or will hold, a command before `rest` (R255). -/
def Core.batchOf (k : Core) (rest : List MCmd) : Word :=
  (rest.findSome? (fun x => match x.kind with
    | .mark b => some b
    | _ => none)).getD (nextBatch k.mclosed)

/-! ## Rows (R247) -/

/-- The kinds of an A row. -/
def FmtSlot.isRow (f : FmtSlot) : Bool := f.isK || f.kind == 0x02 || f.kind == 0x03
/-- Bytes of a row in a slot's format: 64 elements. -/
def FmtSlot.rowBytes (f : FmtSlot) : Nat :=
  if f.isK then 2 * kBytes (kWidth f.kind)
  else if f.isC3 then 24
  else if f.kind == 0x01 || f.kind == 0x12 then 256
  else if f.kind == 0x10 then 64 else 128

/-- The 64 elements of a row as FP32 patterns. -/
def FmtSlot.rowElems (f : FmtSlot) (bs : List Byte) : List Word :=
  if f.isK then
    let n := kBytes (kWidth f.kind)
    kDecode (kWidth f.kind) (bs.take n) ++ kDecode (kWidth f.kind) (bs.drop n)
  else if f.kind == 0x01 then (List.range 64).map (fun i => BitVec.ofNat 32 (leNat ((bs.drop (4 * i)).take 4)))
  else (List.range 64).map (fun i => widen f.fmt (leNat ((bs.drop (2 * i)).take 2)))

/-! ## The exact pass (R248) -/

/-- A pattern as an exact `m × 2 ^ x`, an infinity, or a NaN. -/
inductive Exact where
  | nan
  | inf (neg : Bool)
  | num (m : Int) (x : Int)
deriving DecidableEq, Repr

/-- The exact value of an FP32 pattern. -/
def exact32 (w : Word) : Exact :=
  let neg := w.msb
  let ex := (w.extractLsb' 23 8).toNat
  let fr := (w.extractLsb' 0 23).toNat
  let sg := fun (m : Nat) => if neg then -(m : Int) else m
  if ex = 255 then (if fr = 0 then .inf neg else .nan)
  else if ex = 0 then .num (sg fr) (-149)
  else .num (sg (fr + 0x800000)) ((ex : Int) - 150)

/-- An exact product; a NaN also stands for zero times an infinity. -/
def Exact.mul (a b : Exact) : Exact :=
  match a, b with
  | .nan, _ => .nan
  | _, .nan => .nan
  | .inf x, .inf y => .inf (x != y)
  | .inf x, .num m _ => if m = 0 then .nan else .inf (x != decide (m < 0))
  | .num m _, .inf y => if m = 0 then .nan else .inf (decide (m < 0) != y)
  | .num m x, .num n y => .num (m * n) (x + y)

/-- The exponent of a non-zero product's leading bit. -/
def Exact.lead (p : Exact) : Option Int :=
  match p with
  | .num m x => if m = 0 then none else some ((Nat.log2 m.natAbs : Int) + x)
  | _ => none

/-- `trunc(p / 2 ^ q)`, toward zero. -/
def Exact.truncAt (q : Int) (p : Exact) : Int :=
  match p with
  | .num m x => if q ≤ x then m * 2 ^ (x - q).toNat else Int.tdiv m (2 ^ (q - x).toNat)
  | _ => 0

/-- One column of a pass: the new entry from the old one and the 64 products. -/
def passEntry (acc : Word) (ps : List Exact) : Word :=
  let isInf := fun (neg : Bool) => ps.any (fun p => p == .inf neg)
  let add := fun (v : Fv) => BitVec.ofNat 32 (fp32.addV FpMode.plain (fp32.value false acc.toNat) v).1
  let r : Word :=
    if ps.any (fun p => p == .nan) || (isInf true && isInf false) then 0x7FC00000
    else if isInf true then add (.inf true)
    else if isInf false then add (.inf false)
    else match ps.filterMap Exact.lead with
      | [] => acc
      | x :: t =>
        let q := (t.foldl max x) - 63
        let n := ps.foldl (fun a p => a + Exact.truncAt q p) 0
        add (.num (decide (n < 0)) ((Q.ofInt n.natAbs).scale q))
  if (fp32.value false r.toNat).isNan then 0x7FC00000 else r

/-- The key of an accumulator entry. -/
def accKey (row col : Nat) : Nat := row * 64 + col
/-- The key of a plane entry. -/
def planeKey (plane : Bool) (k n : Nat) : Nat := (if plane then 4096 else 0) + k * 64 + n

/-- One pass: an accumulator row from an A row and the active plane. -/
def Core.pass (k : Core) (row : Nat) (a : List Word) (z : Bool) : Core :=
  let ae := a.map exact32
  { k with acc := Store.writeAll k.acc ((List.range 64).map (fun n =>
      let old := if z then 0 else Store.read k.acc (accKey row n)
      (accKey row n, passEntry old ((List.range 64).map (fun i =>
        (ae.getD i .nan).mul (exact32 (Store.read k.planes (planeKey k.act i n)))))))) }

/-! ## Row conversions (R254) -/

/-- The mode of `drain`: `FPCTL` at issue, its RM replaced by a non-zero RO. -/
def drainMode (fpctl : Word) (ro : BitVec 8) : FpMode :=
  let m := fpMode fpctl .rctl
  if ro = 0 then m else { m with rm := rmOf (ro.toNat - 1) }

/-- An FP32 entry as an integer of `bytes` bytes, rounded as `f2i` and saturated. -/
def drainInt (m : FpMode) (bytes : Nat) (x : Word) : List Byte :=
  let v := (BitVec.ofNat 32 (f2iV m fp32 .s32 x.toNat).1).toInt
  let hi : Int := 2 ^ (8 * bytes - 1) - 1
  leBytes bytes (BitVec.ofInt 32 (max (-hi - 1) (min hi v))).toNat

/-- The bytes of a row drained under a slot. -/
def drainRow (f : FmtSlot) (fpctl : Word) (row : List Word) : List Byte :=
  let m := drainMode fpctl f.ro
  if f.kind == 0x01 then row.flatMap (fun x => leBytes 4 x.toNat)
  else if f.isK then
    (kEncode (kWidth f.kind) f.d.toNat none (row.take 32)).1 ++ (kEncode (kWidth f.kind) f.d.toNat none (row.drop 32)).1
  else if f.isInt then
    row.flatMap (drainInt m (if f.kind == 0x10 then 1 else if f.kind == 0x11 then 2 else 4))
  else row.flatMap (fun x => leBytes 2 (cvtV m fp32 f.fmt x.toNat).1)

/-! ## Executing a command -/

/-- Writing 64 entries of a store from a key. -/
def putRow (m : Store 32) (key : Nat) (vals : List Word) : Store 32 :=
  Store.writeAll m ((List.range 64).map (fun n => (key + n, vals.getD n 0)))

/-- Reading rows in turn and giving each to `put`, until one cannot be read; true when all were. -/
def State.readRows (s : State) (c j : Nat) (spc : Space) (bytes : Nat) (put : Nat → List Byte → Core → Core) :
    Nat → Nat → Nat → State × Bool
  | _, _, 0 => (s, true)
  | i, off, n + 1 =>
    let r := s.engineRead .matrix c j spc off (bytes / 4)
    if r.2.length = bytes then (r.1.modCore c (put i r.2)).readRows c j spc bytes put (i + 1) (off + bytes) n
    else (r.1, false)

/-- The table that row `i` of a C3 `ldstw` takes, and its release after the block's second row (R251, R252). -/
def Core.c3Row (tables : List Nat) (k0 i : Nat) (bs : List Byte) (k : Core) : Core :=
  let id := tables.getD (i / 2) 0
  let t := ((k.tables.find? (fun x => x.id == id)).bind (fun x => x.data)).getD []
  let k1 := { k with planes := putRow k.planes (planeKey (!k.act) (k0 + i) 0)
                                 ((List.range 64).map (fun n => c3Word t (c3Index bs n))) }
  if i % 2 = 1 then { k1 with tables := k1.tables.filter (fun x => x.id != id) } else k1

/-- A drained row is written and, with `.z`, zeroed. -/
def State.drainRows (s : State) (c j : Nat) (f : FmtSlot) (fpctl : Word) (spc : Space) (z : Bool) : Nat → Nat → Nat → State × Bool
  | _, _, 0 => (s, true)
  | row, off, n + 1 =>
    let vals := (List.range 64).map (fun i => Store.read (s.core c).acc (accKey row i))
    let r := s.engineWrite c j spc off (drainRow f fpctl vals)
    if r.2 then
      let s1 := if z then r.1.modCore c (fun k => { k with acc := putRow k.acc (accKey row 0) [] }) else r.1
      s1.drainRows c j f fpctl spc z (row + 1) (off + f.rowBytes) n
    else r

/-- A C3 load leaves the weight path: where nothing else has used the core, its stall clocks have been counted as they passed (R266),
and elsewhere it counts what the part's timing has made them, a free value (R252, log 4). -/
def State.countStalls (s : State) (c : Nat) (x : MCmd) : State :=
  let k := s.core c
  if k.pathTimed x then s
  else
    let f := s.fresh
    f.2.modCore c (fun k => k.addStalls (Config.freeStall f.1).toNat)

/-- Whether a command can execute now: a `cbtab` waits for its copy (R252), and markers complete by their own
event. -/
def Core.matrixReady (k : Core) (x : MCmd) : Bool :=
  match x.kind with
  | .mark _ => false
  | _ => !k.waitsCopy x

/-- The rate class of a format (R246). -/
def FmtSlot.rate (f : FmtSlot) : Nat := if f.kind == 0x08 then 2 else if f.isK then 4 else 1

/-- The clock in which a pass of `r` rows ends that has been in the queue, its rows read, since clock `since` (R246, R266): its setup
begins in the clock after that, after the plane took effect and after the command before it ended. One that fuses with the pass
before it shares that one's setup (R245). -/
def UnitTimes.passEnd (t : UnitTimes) (f : FmtSlot) (plane : Bool) (since r : Nat) : Nat :=
  let m := min f.rate (t.classes.getD plane.toNat 4)
  let first := if t.passed then max since t.unitEnd + 1 else max (max since t.unitEnd) t.planeAt + 17
  first + (r + m - 1) / m - 1

/-- The clock in which a command of a core that nothing else uses ends (R246, R266); 0 where neither rule gives one. -/
def Core.endsAt (k : Core) (x : MCmd) : Nat :=
  let t := k.times
  match x.kind with
  | .ldstw f spc _ _ _ ids => if f.isC3 && k.pathTimed x then k.loadEnd x.entry spc ids else 0
  | .swpl => max (max t.pathEnd t.unitEnd) x.entry + 1
  | .mma f q _ _ _ => t.passEnd f k.act (x.entry + f.rowBytes / 4 - 1) (8 * q)
  | .mmas f _ rows _ _ => t.passEnd f k.act x.entry rows
  | .acz _ rows | .acld _ _ _ rows _ | .drain _ _ _ rows _ _ => max t.unitEnd x.entry + rows
  | .cbtab .. | .mark _ => 0

/-- Whether a ready command may end in this clock: on a core that nothing else uses not before R246 and R266 say. -/
def Core.matrixDue (k : Core) (x : MCmd) (now : Nat) : Bool :=
  k.matrixReady x && (!k.unitTimed x || decide (k.endsAt x ≤ now))

/-- The first `n` rows of a command that reads or writes rows of memory, one of whose pages may not be resident. -/
def MCmd.cut (x : MCmd) (n : Nat) : MCmd :=
  { x with kind := match x.kind with
    | .ldstw f spc off k0 _ ids => .ldstw f spc off k0 n (ids.take ((n + 1) / 2))
    | .acld f spc first _ off => .acld f spc first n off
    | .drain f spc first _ off z => .drain f spc first n off z
    | k => k }

/-- The number of rows of such a command in the vault; none for another. -/
def MCmd.vaultRows (x : MCmd) : Nat :=
  match x.kind with
  | .ldstw _ .vt _ _ rows _ => rows
  | .acld _ .vt _ rows _ => rows
  | .drain _ .vt _ rows _ _ => rows
  | _ => 0

/-- What the times of R246 and R266 keep of a command that ends in clock `now`. -/
def Core.noteEnd (k : Core) (x : MCmd) (now : Nat) : Core :=
  let t := { k.times with unitEnd := now, passed := false }
  { k with times := match x.kind with
    | .ldstw f _ _ _ _ _ => { t with
        pathEnd := if f.isC3 && k.pathTimed x then k.endsAt x else now
        classes := t.classes.set (!k.act).toNat f.rate }
    | .swpl => { t with planeAt := now }
    | .mma .. | .mmas .. => { t with passed := true }
    | _ => t }

/-- A command's effect, and whether it ended without a fault. -/
def State.runMatrix (s : State) (c : Nat) (x : MCmd) : State × Bool :=
  match x.kind with
  | .ldstw f spc off k0 rows tables =>
    if f.isC3 then
      let r := (s.countStalls c x).readRows c x.team spc 24 (Core.c3Row tables k0) 0 off rows
      (r.1.modCore c (fun k => { k with tables := k.tables.filter (fun t => !tables.contains t.id) }), r.2)
    else s.readRows c x.team spc f.rowBytes (fun i bs k =>
      { k with planes := putRow k.planes (planeKey (!k.act) (k0 + i) 0) (f.rowElems bs) }) 0 off rows
  | .cbtab spc off _ table =>
    let r := s.engineRead .matrix c x.team spc off 4
    let ok := decide (r.2.length = 16)
    (r.1.modCore c (fun k => { k with tables := k.tables.map (fun t =>
      if t.id == table then { t with data := some (if ok then c3Table r.2 else List.replicate 8 0) } else t) }), ok)
  | .swpl => (s.modCore c (fun k => { k with act := !k.act }), true)
  | .mma _ _ base rows z =>
    (s.modCore c (fun k => rows.foldl (fun k r => k.pass (base + r.1) r.2 z) k), true)
  | .mmas f off rows base z =>
    s.readRows c x.team .sp f.rowBytes (fun i bs k => k.pass (base + i) (f.rowElems bs) z) 0 off rows
  | .acz first rows =>
    (s.modCore c (fun k => { k with acc := Store.clear k.acc (fun a =>
      decide (accKey first 0 ≤ a) && decide (a < accKey (first + rows) 0)) }), true)
  | .acld f spc first rows off =>
    s.readRows c x.team spc f.rowBytes (fun i bs k =>
      { k with acc := putRow k.acc (accKey (first + i) 0) (f.rowElems bs) }) 0 off rows
  | .drain f spc first rows off z => s.drainRows c x.team f x.fpctl spc z first off rows
  | .mark _ => (s, true)

/-- A ready command may end in this clock: it is due, or it ends early at a row that it cannot read or write, whose clock has come
(R255, R266). -/
def State.unitDue (s : State) (c : Nat) (x : MCmd) : Bool :=
  let k := s.core c
  k.matrixDue x s.clock || (k.matrixReady x && (List.range x.vaultRows).any (fun n =>
    decide (k.endsAt (x.cut (n + 1)) ≤ s.clock) && !(s.runMatrix c (x.cut (n + 1))).2))

/-- The command at the queue's head begins (R256), on a core that nothing else uses not before the clock of its first row (R266). -/
def State.beginMatrix (s : State) (c : Nat) : State :=
  let k := s.core c
  match k.mq with
  | [] => s
  | x :: _ =>
    if k.matrixDue (x.cut 1) s.clock && (k.begunBy .matrix).isNone then
      let s1 := s.acquire c x.slot x.acq x.acqId
      let r := s1.runMatrix c x
      s1.beginHead r.1 c (lateTag x.acqId (s.teamGrid c x.team) x.uid [] false)
        { engine := .matrix, ok := r.2, vdata := [], sdata := [], helper := none }
    else s

/-- The unit executes the command at its queue's head, or what of it is not done (R245, R255). -/
def execMatrixCommandExecute (core : Fin 256) (s : State) : Host.Outcome State Fault Refusal :=
  let c := core.val
  let k := s.core c
  match k.mq with
  | [] => .next s
  | x :: t =>
    if s.unitDue c x then
      let r := match k.begunBy .matrix with
        | some b => (s.landCmd x.acqId, b.ok)
        | none => (s.acquire c x.slot x.acq x.acqId).runMatrix c x
      let s1 := r.1.modCore c (fun u => { u.endHead .matrix with mq := t, times := (k.noteEnd x s.clock).times })
      .next (if r.2 then s1 else s1.dueOwner c x.slot x.uid Causes.matrixFault ((k.batchOf t).setWidth 64))
    else .next s

/-- A marker at the head: its batch is complete (R257), where it keeps the times of R266 in the clock in which its last command ended, in
which the marker comes to the head. -/
def execBatchComplete (core : Fin 256) (s : State) : Host.Outcome State Fault Refusal :=
  let c := core.val
  match (s.core c).mq with
  | [] => .next s
  | x :: t =>
    match x.kind with
    | .mark b => .next (s.modCore c (fun k => { k with
        mq := t, mdone := b, times := { k.times with batchAt := if k.unitTimed x then some s.clock else none } }))
    | _ => .next s

/-! ## The words -/

/-- Accumulator rows `first` to `first + rows - 1` (R254). -/
def accRange (first rows : Nat) : Except Trap Unit :=
  trapIf (decide (1024 ≤ first) || decide (1024 < first + rows)) Causes.accumRange

/-- The kinds that `ldstw` accepts (R251). -/
def FmtSlot.isWeight (f : FmtSlot) : Bool := f.isRow || f.isC3

/-- `ldstw` (R251): a C3 load claims its tables. Its offset must be a multiple of 4 whatever the slot's kind: the model's choice
(log 71). -/
def execLdstw (g : Guard) (a b c : Reg) (_scope : Scope) (acq : Bool) (space : Space) (slot : Fin 8) (s : State) :=
  runOwner (engineForm g [] [a, b, c]) (fun e s => do
    let off := (e.sc a).toNat
    let k0 := (e.sc b).toNat
    let rows := (e.sc c).toNat
    let f ← slotCheck e.gr slot.val FmtSlot.isWeight
    trapIf (decide (64 < k0 + rows) || (f.isC3 && (k0 % 2 != 0 || rows % 2 != 0))) Causes.formatOperand
    e.spanCheck space off (rows * f.rowBytes)
    let free := (e.k.tables.filter (fun t => !t.claimed)).map (fun t => t.id)
    let need := if f.isC3 then rows / 2 else 0
    trapIf (decide (free.length < need)) Causes.weightTable
    let mine := free.take need
    .ok (e.enqueueMatrix (if rows = 0 then none else some (.ldstw f space off k0 rows mine)) acq
      (fun s => e.modK (fun k => { k with tables := k.tables.map (fun t =>
        if mine.contains t.id then { t with claimed := true } else t) }) s) s)) s

/-- The copy that a tag operand names (R252). -/
def Env.copyNamed (e : Env) (r : Reg) : Except Trap (Option (BitVec 16 × BitVec 3)) :=
  match e.tagOf r with
  | none => .ok none
  | some t =>
    match e.k.tagDone e.slot e.g t with
    | none => .error { cause := Causes.invalidCopyTag, info := t.setWidth 64, lane := 0 }
    | some true => .ok none
    | some false => .ok (some (t.extractLsb' 16 16, t.extractLsb' 0 3))

/-- `cbtab` (R252). Its tag is checked after alignment and range and before the table queue (log 50). -/
def execCbtab (g : Guard) (a b : Reg) (_scope : Scope) (acq : Bool) (space : Space) (s : State) :=
  runOwner (engineForm g [] [a, b]) (fun e s => do
    let off := (e.sc a).toNat
    trapIf (off % 16 != 0) Causes.misalignedAccess
    e.spanCheck space off 16
    let tag ← e.copyNamed b
    if 4 ≤ e.k.tables.length then
      if e.k.tables.any (fun t => t.claimed) then .ok (.hold (e.waitFor .stalled s))
      else .error (trapOf Causes.weightTable)
    else
      let id := s.nextId
      .ok (e.enqueueMatrix (some (.cbtab space off tag id)) acq (fun s =>
        e.modK (fun k => { k with tables := k.tables ++ [{
          id := id, claimed := false, data := none, since := if tag.isNone then some s.clock else none }] }) s) s)) s

/-- `swpl` (R253). -/
def execSwpl (g : Guard) (s : State) :=
  runOwner (engineForm g [] []) (fun e s => .ok (e.enqueueMatrix (some .swpl) false (fun s => s) s)) s

/-- The registers of an A row under a grid's slot; 1 where the slot holds no row format. -/
def mmaRegs (g : Guard) (slot : Fin 8) (s : State) : Nat :=
  match s.env g.pg.val g.pn with
  | some e => if (e.gr.slot slot.val).isRow then (e.gr.slot slot.val).rowBytes / 4 else 1
  | none => 1

/-- A's registers lie below the affine registers (R249). -/
def mmaInBlocks (a : Reg) (nr : Nat) (e : Env) : Option Trap :=
  if decide (e.affBase 0 < e.vnum a 0 + nr) then some (trapOf Causes.reservedRegister) else none

/-- The lanes of the quarters that issue (R249). -/
def quarters (act : LaneMask) : List Nat :=
  (List.range 4).filter (fun q => (act >>> (8 * q)) &&& 0xFF != 0)

/-- `mma` (R249): its rows are read now. -/
def execMma (g : Guard) (a c : Reg) (row : BitVec 10) (z : Bool) (slot : Fin 8) (s : State) :=
  let nr := mmaRegs g slot s
  runWord { engineForm g [] [] with srcs := [(a, nr), (c, 1)], pre := mmaInBlocks a nr } (fun e s =>
    if e.act = 0 then .ok (.done s)
    else do
      e.ownCheck
      let f ← slotCheck e.gr slot.val FmtSlot.isRow
      let base := (e.sc c + row.setWidth 32).toNat
      trapIf ((quarters e.act).any (fun q => decide (1023 < base + 8 * q + 7))) Causes.accumRange
      let rows := e.realLanes.map (fun l =>
        (l, f.rowElems ((List.range nr).flatMap (fun j => leBytes 4 (e.rdV (e.vnum a l + j) l).toNat))))
      .ok (e.enqueueMatrix (some (.mma f (quarters e.act).length base rows z)) false (fun s => s) s)) s

/-- The checks of `mmas` (R250): the format of its rows. -/
def Env.mmasCheck (e : Env) (slot off rows base : Nat) : Except Trap FmtSlot := do
  let f ← slotCheck e.gr slot FmtSlot.isRow
  trapIf (decide (256 < rows)) Causes.formatOperand
  trapIf (decide (1024 < base + rows)) Causes.accumRange
  e.spanCheck .sp off (rows * f.rowBytes)
  .ok f

/-- `mmas` (R250). -/
def execMmas (g : Guard) (a b c : Reg) (z : Bool) (slot : Fin 8) (s : State) :=
  runOwner (engineForm g [] [a, b, c]) (fun e s => do
    let off := (e.sc a).toNat
    let rows := (e.sc b).toNat
    let base := (e.sc c).toNat
    let f ← e.mmasCheck slot.val off rows base
    .ok (e.enqueueMatrix (if rows = 0 then none else some (.mmas f off rows base z)) false (fun s => s) s)) s

/-- `acz` (R254). -/
def execAcz (g : Guard) (a b : Reg) (s : State) :=
  runOwner (engineForm g [] [a, b]) (fun e s => do
    let rows := (e.sc b).toNat
    accRange (e.sc a).toNat rows
    .ok (e.enqueueMatrix (if rows = 0 then none else some (.acz (e.sc a).toNat rows)) false (fun s => s) s)) s

/-- `acld` (R254). -/
def execAcld (g : Guard) (a b c : Reg) (_scope : Scope) (acq : Bool) (space : Space) (slot : Fin 8) (s : State) :=
  runOwner (engineForm g [] [a, b, c]) (fun e s => do
    let rows := (e.sc b).toNat
    let f ← slotCheck e.gr slot.val FmtSlot.isIeee
    accRange (e.sc a).toNat rows
    e.spanCheck space (e.sc c).toNat (rows * f.rowBytes)
    .ok (e.enqueueMatrix (if rows = 0 then none else some (.acld f space (e.sc a).toNat rows (e.sc c).toNat)) acq
      (fun s => s) s)) s

/-- The kinds that `drain` accepts (R254). -/
def FmtSlot.drainable (f : FmtSlot) : Bool := f.isIeee || f.isK || (f.isInt && f.bsc == 0)

/-- `drain` (R254). -/
def execDrain (g : Guard) (a b c : Reg) (z : Bool) (scope : Scope) (rel : Bool) (space : Space) (slot : Fin 8) (s : State) :=
  runOwner (engineForm g [] [a, b, c]) (fun e s => do
    let rows := (e.sc b).toNat
    let f ← slotCheck e.gr slot.val FmtSlot.drainable
    accRange (e.sc a).toNat rows
    e.spanCheck space (e.sc c).toNat (rows * f.rowBytes)
    let dem ← e.demote (sysRelease scope rel)
    .ok (e.enqueueMatrix (if rows = 0 then none else some (.drain f space (e.sc a).toNat rows (e.sc c).toNat z)) false
      dem s)) s

/-- `mfence` (R257): closing a batch. -/
def execMfence (g : Guard) (d : Reg) (s : State) :=
  runOwner (engineForm g [(d, 1)] []) (fun e s =>
    let b := nextBatch e.k.mclosed
    .ok (e.enqueueMatrix (some (.mark b)) false (fun s =>
      e.wrS d b (e.modK (fun k => { k with mclosed := b }) s)) s)) s

/-- The batch that `mwait` waits for: the one it already waits for, or the one named at its issue. -/
def Env.batchNamed (e : Env) (a : Reg) : Word :=
  match e.g.wait, a with
  | .mwait b, _ => b
  | _, .c _ => e.k.mclosed
  | _, r => e.sc r

/-- `mwait` (R257). -/
def execMwait (g : Guard) (a : Reg) (s : State) :=
  runOwner (engineForm g [] [a]) (fun e s => do
    let b := e.batchNamed a
    trapIf (decide (0 < (b - e.k.mclosed).toInt)) Causes.matrixSequence
    if batchDone e.k.mdone b then .ok (.done (e.claim s))
    else .ok (.hold (e.waitFor (.mwait b) (e.claim s)))) s

end Sys2Proof.Machine
end

