-- ==== Sys2Proof/Machine/Cruiser.lean ====
section
/-! DEFINITION. The loop cruiser (R261-R265): `lscfg`, `lsgo`, `lswait`, and the emission of one record. -/

namespace Sys2Proof.Machine

open Sys2Proof

/-! ## The descriptor (R261, R262) -/

/-- M[7:0] of a `cpy`: SCOPE, REL, ACQ, SSP and DSP are legal (R211). -/
def copyModOk (m : BitVec 8) : Bool :=
  let sc := m.extractLsb' 6 2
  sc != 3 && (sc == 0 || m.getLsbD 5 || m.getLsbD 4) && !m.getLsbD 3 && !m.getLsbD 1
/-- M[7:0] of a `dectab`. -/
def dectabModOk (m : BitVec 8) : Bool :=
  let sc := m.extractLsb' 6 2
  sc != 3 && (sc == 0 || m.getLsbD 4) && !m.getLsbD 5 && !m.getLsbD 3

/-- A KIND value. -/
def emitKind (n : Nat) : Option EmitKind :=
  match n with
  | 0 => some .mmas
  | 1 => some .cpy
  | 2 => some .dectab
  | 3 => some .coverage
  | _ => none

/-- An emitter from its 48 bytes; none where R262 forbids it. -/
def parseEmitter (nlev : Nat) (m : Memory) (a : Nat) : Option Emitter := do
  let w := fun (i : Nat) => Memory.word m (a + 4 * i)
  let h := w 0
  let kind ← emitKind (h.toNat % 16)
  let level := (h.extractLsb' 4 2).toNat
  let e : Emitter := {
    kind := kind
    level := level
    wait := h.getLsbD 6
    mod := h.extractLsb' 8 8
    cnt := w 1
    basex := w 2
    basey := w 3
    strx := (List.range 4).map (fun i => w (4 + i))
    stry := (List.range 4).map (fun i => w (8 + i)) }
  let modOk := match kind with
    | .mmas => e.mod.extractLsb' 4 4 == 0
    | .cpy => copyModOk e.mod
    | .dectab => dectabModOk e.mod && e.basey == 0 && e.stry.all (fun x => x == 0)
    | .coverage => e.mod == 0 && e.cnt == 0
  if h.extractLsb' 16 16 = 0 && !h.getLsbD 7 && decide (level < nlev) &&
      (e.strx.drop (level + 1)).all (fun x => x == 0) && (e.stry.drop (level + 1)).all (fun x => x == 0) && modOk then some e
  else none

/-- The descriptor at an address; none where R262 forbids it. `room` is how many bytes it may take. -/
def parseDesc (m : Memory) (a room : Nat) : Option CruiserDesc := do
  if room < 0x10 then none
  else
    let h := Memory.dword m a
    let nlev := h.toNat % 16
    let nemit := h.toNat / 16 % 16
    if h.toNat / 256 != 0 || Memory.dword m (a + 8) != 0 || nlev = 0 || decide (4 < nlev) || nemit = 0 ||
        decide (4 < nemit) || decide (room < 0x10 + 0x30 * nemit) then none
    else
      let es ← (List.range nemit).mapM (fun i => parseEmitter nlev m (a + 0x10 + 0x30 * i))
      some { nlev := nlev, emitters := es }

/-- `lscfg` (R262). One issued during a run with a bad descriptor raises cruiser-busy: the rule gives no order, and this one is the
model's choice (log 65). -/
def execLscfg (g : Guard) (a : Reg) (s : State) :=
  runOwner (engineForm g [] [a]) (fun e s => do
    trapIf e.k.run.isSome Causes.cruiserBusy
    let off := (e.sc a).toNat
    trapIf (off % 16 != 0 || decide (e.t.scratch < off)) Causes.cruiserConfig
    match parseDesc e.k.sp (e.t.spb + off) (e.t.scratch - off) with
    | none => .error (trapOf Causes.cruiserConfig)
    | some d => .ok (.done (e.modK (fun k => { k with cruiser := some d }) (e.claim s)))) s

/-! ## The nest (R263) -/

/-- The deepest level whose emitters emit anything: every level down to it has iterations. -/
def CruiserDesc.depth (d : CruiserDesc) (trips : List Nat) : Option Nat :=
  ((List.range d.nlev).filter (fun l =>
    d.emitters.any (fun e => e.level == l) && (trips.take (l + 1)).all (fun t => t != 0))).getLast?

/-- The next position of a level after its iteration: the next iteration, or that of the level above. `rev` is the
indices, innermost first. -/
def stepIndex (trips : List Nat) : List Nat → Option (List Nat)
  | [] => none
  | i :: up => if i + 1 < trips.getD up.length 0 then some ((i + 1) :: up) else stepIndex trips up

/-- The next record from a position: the indices, outermost first, and the emitter's number. Levels below `deep` are
not entered, for they emit nothing. -/
def CruiserDesc.next (d : CruiserDesc) (trips : List Nat) (deep : Nat) : Nat → List Nat → Nat → Option (List Nat × Nat)
  | 0, _, _ => none
  | fuel + 1, idx, emit =>
    let l := idx.length - 1
    match (List.range d.emitters.length).find? (fun i => decide (emit ≤ i) && d.emitters[i]?.any (fun e => e.level == l)) with
    | some i => some (idx, i)
    | none =>
      if l < deep then d.next trips deep fuel (idx ++ [0]) 0
      else match stepIndex trips idx.reverse with
        | none => none
        | some r => d.next trips deep fuel r.reverse 0

/-- The next record of a run. Sixteen positions always reach it: at every innermost iteration the deepest level emits. -/
def CruiserDesc.nextOf (d : CruiserDesc) (r : CruiserRun) : Option (List Nat × Nat) :=
  match d.depth r.trips with
  | none => none
  | some deep => d.next r.trips deep 16 r.idx r.emit

/-- An affine operand: the base and the strides times the indices. -/
def affineOf (base : Word) (str : List Word) (idx : List Nat) : Word :=
  (List.range idx.length).foldl (fun a m => a + str.getD m 0 * BitVec.ofNat 32 (idx.getD m 0)) base

/-- The trip counts' registers under the core's descriptor. -/
def lsgoRegs (g : Guard) (s : State) : Nat :=
  match s.env g.pg.val g.pn with
  | some e => (e.k.cruiser.map (fun d => d.nlev)).getD 1
  | none => 1

/-- The last trip count lies beyond `s23`. -/
def pastScalars (a : Reg) (n : Nat) : Bool :=
  match a with
  | .s r => decide (24 < r.val + n)
  | _ => false

/-- `lsgo` (R263); a nest that emits nothing has run at once. It checks for a run, then for a descriptor, then that its registers
exist: the rule gives no order, and this one is the model's choice (log 65). -/
def execLsgo (g : Guard) (a : Reg) (s : State) :=
  let n := lsgoRegs g s
  runOwner { engineForm g [] [] with srcs := [(a, n)] } (fun e s => do
    trapIf e.k.run.isSome Causes.cruiserBusy
    match e.k.cruiser with
    | none => .error (trapOf Causes.cruiserConfig)
    | some d =>
      trapIf (pastScalars a n) Causes.reservedRegister
      let r : CruiserRun := {
        id := s.nextId
        slot := e.slot
        uid := e.g.uid
        team := e.g.team
        pc := e.sp.pc
        trips := (List.range n).map (fun j => (e.sc (regPlus a j)).toNat)
        idx := [0]
        emit := 0 }
      let run := if (d.nextOf r).isSome then some r else none
      .ok (.done { (e.modK (fun k => { k with run := run, lsFault := false, lsCount := 0, lsRan := true }) (e.claim s)) with
        nextId := s.nextId + 1 })) s

/-- `lswait` (R265). -/
def execLswait (g : Guard) (d : Reg) (s : State) :=
  runOwner (engineForm g [(d, 1)] []) (fun e s =>
    if e.k.run.isSome then .ok (.hold (e.waitFor (.lswait d) (e.claim s)))
    else .ok (.done (e.wrS d e.k.lsStatus (e.claim s)))) s

/-! ## Emission (R263, R264) -/

/-- The runs whose records stand in the queue of a kind. -/
def Core.emitted (k : Core) (kind : EmitKind) : List Nat :=
  match kind with
  | .mmas => k.mq.filterMap (fun x => x.cruiser)
  | .cpy => k.copies.filterMap (fun x => x.cruiser)
  | .dectab => k.decq.filterMap (fun x => x.cruiser)
  | .coverage => k.recq.map (fun x => x.1)

/-- A record can be emitted: its WAIT is over, and its queue has a permit and a place. -/
def Core.mayEmit (k : Core) (run : Nat) (e : Emitter) : Bool :=
  let others := [EmitKind.mmas, .cpy, .dectab, .coverage].filter (fun x => x != e.kind)
  (!e.wait || others.all (fun x => !(k.emitted x).contains run)) && decide ((k.emitted e.kind).length < 8) &&
    (e.kind != .mmas || !k.matrixFull)

/-- The environment of the group that issued a run, or of its team where the group has ended. -/
def State.issuer (s : State) (c : Nat) (r : CruiserRun) : Env :=
  let gr := s.grid (((s.team c r.team).getD Team.zero).grid)
  let blank := Group.start gr r.uid r.team 0 false 0 [] 0
  let g := match s.group c r.slot with
    | some g => if g.uid = r.uid then g else blank
    | none => blank
  { core := c, slot := r.slot, split := 0, k := s.core c, g := g,
    sp := { pc := r.pc, mask := allLanes, stack := [], latch := [], since := 0 }, gr := gr, pt := s.part gr.part,
    act := allLanes }

/-- A scope of a modifier byte. -/
def modScope (m : BitVec 8) : Scope := if m.extractLsb' 6 2 = 1 then .part else if m.extractLsb' 6 2 = 2 then .sys else .core
/-- A space bit. -/
def modSpace (b : Bool) : Space := if b then .vt else .sp

/-- Checking and emitting a record as its word would be. An emitted `dectab` carries the offset of the `lsgo` word, which a
decode-fault of it puts into `TINFO`, having no word of its own: the model's choice (log 66). -/
def Env.emit (e : Env) (r : CruiserRun) (em : Emitter) (x y : Word) (s : State) : Except Trap State := do
  let m := em.mod
  match em.kind with
  | .mmas =>
    e.ownCheck
    let slot := (m.extractLsb' 0 3).toNat
    let f ← e.mmasCheck slot x.toNat em.cnt.toNat y.toNat
    if em.cnt = 0 then .ok s
    else .ok (s.pushMatrix e.core e.slot r.uid r.team e.g.fpctl
      (.mmas f x.toNat em.cnt.toNat y.toNat (m.getLsbD 3)) false (some r.id))
  | .cpy =>
    let a : CopyArgs := {
      dsp := modSpace (m.getLsbD 0)
      ssp := modSpace (m.getLsbD 2)
      dst := x.toNat
      src := y.toNat
      len := em.cnt.toNat }
    e.copyCheck a
    let dem ← e.demote (sysRelease (modScope m) (m.getLsbD 5))
    .ok ((dem s).startCopy e.core e.slot r.uid r.team (nextSeq e.g.copySeq)
      (BitVec.ofNat 3 ((e.k.freeCopySlot r.uid).getD 7)) a (m.getLsbD 4) (some r.id))
  | .dectab =>
    let f ← e.dectabCheck (m.extractLsb' 0 3).toNat em.cnt.toNat
    if em.cnt = 0 then .ok s
    else .ok (s.startDecode e.core e.slot r.uid r.team r.pc (.table f x.toNat em.cnt.toNat) (m.getLsbD 4) (some r.id))
  | .coverage => .ok (e.modK (fun k => { k with recq := k.recq ++ [(r.id, x, y)] }) s)

/-- `TINFO` of cruiser-fault (R263, R341). A number of records beyond its 28 bits shows as the largest: the model's choice
(log 66). -/
def cruiserInfo (emitter count : Nat) : BitVec 64 := BitVec.ofNat 64 (emitter + 16 * min 0xFFFFFFF count)

/-- The cruiser emits one record, or a failed check ends the run (R263). -/
def execCruiserEmit (core : Fin 256) (s : State) : Host.Outcome State Fault Refusal :=
  let c := core.val
  let k := s.core c
  match k.run, k.cruiser with
  | some r, some d =>
    match d.nextOf r with
    | none => .next (s.modCore c (fun k => { k with run := none }))
    | some (idx, i) =>
      match d.emitters[i]? with
      | none => .next (s.modCore c (fun k => { k with run := none }))
      | some em =>
        if k.mayEmit r.id em then
          match (s.issuer c r).emit r em (affineOf em.basex em.strx idx) (affineOf em.basey em.stry idx) s with
          | .error _ =>
            .next ((s.modCore c (fun k => { k with run := none, lsFault := true })).dueOwner c r.slot r.uid
              Causes.cruiserFault (cruiserInfo i k.lsCount))
          | .ok s1 =>
            let r1 := { r with idx := idx, emit := i + 1 }
            .next (s1.modCore c (fun k =>
              { k with run := if (d.nextOf r1).isSome then some r1 else none, lsEmit := i, lsCount := k.lsCount + 1 }))
        else .next s
  | _, _ => .next s

end Sys2Proof.Machine
end

