-- ==== Sys2Proof/Machine/System.lean ====
section
/-! DEFINITION. Row 0xB: traps, system registers, `lpinv` and `halt` (R335-R347), with the events of trap entry and
the straggler time-out (R102). -/

namespace Sys2Proof.Machine

open Sys2Proof

/-! ## Levels and privilege (R335, R338) -/

/-- A system register cannot be read at U. -/
def csrHidden (n : Nat) : Bool := (decide (0x020 ≤ n) && decide (n ≤ 0x025)) || decide (0x091 ≤ n)

/-- The system registers that may be written at U. -/
def csrUser : List Nat := [0x000, 0x001, 0x040, 0x041, 0x050, 0x051, 0x061, 0x062, 0x070, 0x071, 0x072]
/-- Those that may be written at H only. -/
def csrHandler : List Nat := [0x021, 0x024, 0x025, 0x030, 0x031, 0x091, 0x092, 0x093, 0x094, 0x095]

/-- Whether an access is allowed at a level (R338). -/
def csrAllowed (atH write : Bool) (n : Nat) : Bool :=
  (atH || !csrHidden n) && (!write || csrUser.contains n || (atH && csrHandler.contains n))

/-- The privilege trap (R335); `TINFO` is the register's number, or 0. -/
def privTrap (info : Nat) : Trap := { cause := Causes.privilege, info := BitVec.ofNat 64 info, lane := 0 }

/-- The check of `tret` and `halt`. -/
def handlerOnly (e : Env) : Option Trap := if e.g.atH then none else some (privTrap 0)

/-! ## Reading (R339) -/

/-- A flag as a number. -/
def bit (b : Bool) (i : Nat) : Nat := if b then 2 ^ i else 0

/-- A group is eligible in a phase (R99). -/
def Group.eligible (g : Group) (isX : Bool) : Bool := !isX || g.xgrp

/-- `PHSTAT`. -/
def phstat (g : Group) (p : Partition) : Nat :=
  bit g.xgrp 5 + bit g.arrived 4 + bit (g.eligible p.isX) 3 + bit g.strag 2 + bit p.preemptReq 1 + bit p.isX 0

/-- `CPYSTAT`. -/
def cpystat (k : Core) (g : Group) : Nat :=
  g.cpyerr.toNat * 65536 + (List.range 8).foldl (fun n i =>
    n + bit (k.copies.any (fun x => x.uid == g.uid && x.cruiser.isNone && x.cslot.toNat == i)) i) 0

/-- `LSSTAT`. -/
def lsstat (k : Core) : Nat :=
  bit k.run.isSome 31 + bit k.lsFault 30 + k.lsEmit % 16 * 2 ^ 24 + min k.lsCount 0xFFFFFF

/-- `CVSTAT`. -/
def cvstat (k : Core) : Nat :=
  k.tangc.toNat * 65536 + min k.recq.length 15 * 256 +
    (List.range 4).foldl (fun n i => n + bit (k.ctxs.getD i none).isSome i) 0

/-- `DBGCTL`. -/
def dbgctl (k : Core) (cl : Cluster) : Nat :=
  bit k.stepb 9 + k.sgrp.toNat * 32 + bit k.step 4 + bit k.brkf 2 + bit k.wpact 1 + bit cl.frozen 0

/-- A group's registers of R339. -/
def groupCsr (k : Core) (g : Group) (p : Partition) (n : Nat) : Nat :=
  if n = 0x000 then g.fpctl.toNat
  else if n = 0x001 then g.fpflg.toNat
  else if n = 0x002 then g.repsig.toNat
  else if n = 0x011 then phstat g p
  else if n = 0x020 then g.tcause.toNat
  else if n = 0x021 then g.tepc.toNat
  else if n = 0x022 then g.tinfo.toNat
  else if n = 0x023 then g.tlane.toNat
  else if n = 0x024 then g.tvec.toNat
  else if n = 0x025 then g.tsave.toNat
  else if n = 0x050 then g.resmiss.toNat
  else if n = 0x051 then cpystat k g
  else if n = 0x071 then bit g.xdln 0
  else if n = 0x072 then bit g.scopeEn 1 + bit g.scopeDem 0
  else if n = 0x090 then bit g.gskHit 7 + g.gskWp.toNat * 32 + g.gskSkid
  else 0

/-- A team's registers of R339. -/
def teamCsr (t : Team) (n : Nat) : Nat :=
  if n = 0x030 then t.afnext.toNat
  else if n = 0x031 then t.aflive.toNat
  else if n = 0x032 then t.afquota.toNat
  else if n = 0x040 then t.frqSz.toNat * 2 ^ 28 + t.frqBase.toNat
  else if n = 0x041 then t.frqhd.toNat
  else if n = 0x042 then t.frqtl.toNat
  else 0

/-- A core's registers of R339. -/
def coreCsr (k : Core) (cl : Cluster) (n : Nat) : Nat :=
  if n = 0x060 then lsstat k
  else if n = 0x061 then k.stall.toNat * 2 ^ 32 + k.mdone.toNat
  else if n = 0x062 then cvstat k
  else if n = 0x070 then k.xlate.toNat
  else if n = 0x095 then k.wpctl.toNat
  else if n = 0x096 then dbgctl k cl
  else if 0x091 ≤ n && decide (n ≤ 0x094) then (k.wpa.getD (n - 0x091) 0).toNat
  else 0

/-- A partition's registers of R339. -/
def partCsr (i : Nat) (p : Partition) (n : Nat) : Nat :=
  if n = 0x010 then p.phcnt.toNat
  else if n = 0x012 then p.phtmo.toNat
  else if n = 0x080 then i * 2 ^ 20 + p.first * 256 + p.ncl
  else if n = 0x081 then bit p.key.isSome 31 + p.gen.toNat
  else 0

/-- A system register as a core's group sees it; a group's or team's register of an empty slot reads zero. -/
def State.csr (s : State) (c slot : Nat) (n : Nat) : Dword :=
  let k := s.core c
  let i := s.partOf c
  let p := s.part i
  let ofGroup := match k.group slot with
    | some g => groupCsr k g p n + teamCsr ((k.team g.team).getD Team.zero) n
    | none => 0
  BitVec.ofNat 64 (ofGroup + coreCsr k (s.cluster (c / 8)) n + partCsr i p n)

/-! ## Writing (R5, R339, R347) -/

/-- The three ways to write. -/
inductive CsrOp where
  | write | set | clear
deriving DecidableEq, Repr

/-- The value stored: the bits of `m` become those of the operation. -/
def CsrOp.value (op : CsrOp) (old a m : Dword) : Dword :=
  let f := match op with
    | .write => a
    | .set => old ||| a
    | .clear => old &&& ~~~a
  (old &&& ~~~m) ||| (f &&& m)

/-- The bits that a write clears in a W1C field. -/
def CsrOp.clears (op : CsrOp) (a m : Dword) : Dword :=
  match op with
  | .set => 0
  | _ => a &&& m

/-- Writing `FPCTL`: a change rehashes `REPSIG` (R156). -/
def Group.putFpctl (g : Group) (v : Word) : Group :=
  let v := v &&& 0x3F1F
  if v = g.fpctl then g else { g with fpctl := v, repsig := nextSig g.repsig v }

/-- Writing `FRQBASE`: ignored when SZ is above 12 or the ring lies outside SCRATCH; otherwise HD and TL are zero. -/
def Team.putRing (t : Team) (v : Word) : Team :=
  let sz := (v.extractLsb' 28 4).toNat
  let base := (v.extractLsb' 4 15).toNat * 16
  if 12 < sz || (sz != 0 && decide (t.scratch < base + 16 * 2 ^ sz)) then t
  else { t with frqSz := BitVec.ofNat 4 sz, frqBase := BitVec.ofNat 19 base, frqhd := 0, frqtl := 0 }

/-- A group's registers after a write; `w1` are the bits cleared in a W1C field. -/
def Group.putCsr (g : Group) (n : Nat) (v w1 : Dword) : Group :=
  if n = 0x000 then g.putFpctl (v.setWidth 32)
  else if n = 0x001 then { g with fpflg := g.fpflg &&& ~~~(w1.setWidth 6) }
  else if n = 0x021 then { g with tepc := v.setWidth 32 &&& ~~~7 }
  else if n = 0x024 then { g with tvec := v &&& ~~~7 }
  else if n = 0x025 then { g with tsave := v }
  else if n = 0x050 then { g with resmiss := v.setWidth 32 }
  else if n = 0x051 then { g with cpyerr := g.cpyerr &&& ~~~(w1.extractLsb' 16 8) }
  else if n = 0x071 then { g with xdln := v.getLsbD 0 }
  else if n = 0x072 then { g with scopeEn := v.getLsbD 1, scopeDem := g.scopeDem && !w1.getLsbD 0 }
  else g

/-- A team's registers after a write. -/
def Team.putCsr (t : Team) (n : Nat) (v : Dword) : Team :=
  if n = 0x030 then (if v.setWidth 16 = 0#16 then t else { t with afnext := v.setWidth 16 })
  else if n = 0x031 then { t with aflive := v.setWidth 16 }
  else if n = 0x040 then t.putRing (v.setWidth 32)
  else if n = 0x041 then { t with frqhd := v.setWidth 12 }
  else t

/-- A core's registers after a write. -/
def Core.putCsr (k : Core) (n : Nat) (v : Dword) : Core :=
  if n = 0x061 then { k with stall := 0 }
  else if n = 0x062 then { k with tangc := 0 }
  else if n = 0x070 then { k with xlate := v.setWidth 32 }
  else if n = 0x095 then { k with wpctl := v.setWidth 32 }
  else if 0x091 ≤ n && decide (n ≤ 0x094) then { k with wpa := k.wpa.set (n - 0x091) (v.setWidth 48) }
  else k

/-- A system register after a write of a core's group: each register has one holder. -/
def State.putCsr (s : State) (c slot n : Nat) (op : CsrOp) (a m : Dword) : State :=
  let v := op.value (s.csr c slot n) a m
  let s1 := s.modCore c (fun k => k.putCsr n v)
  match s.group c slot with
  | none => s1
  | some g => (s1.modGroup c slot (fun g => g.putCsr n v (op.clears a m))).modTeam c g.team (fun t => t.putCsr n v)

/-! ## The words -/

/-- The half of a register that a word names. -/
def halfMask (hi : Bool) : Dword := if hi then 0xFFFFFFFF00000000 else 0xFFFFFFFF
/-- A word placed in its half. -/
def inHalf (hi : Bool) (w : Word) : Dword := if hi then w ++ 0#32 else w.setWidth 64
/-- The named half. -/
def csrHalf (hi : Bool) (v : Dword) : Word := if hi then v.extractLsb' 32 32 else v.setWidth 32

/-- The form of a CSR word. -/
def csrForm (g : Guard) (d : Reg) (src : List (Reg × Nat)) (n : BitVec 12) (write : Bool) : Form :=
  { Form.plain g with
    dsts := [(d, 1)]
    srcs := src
    pre := fun e => if csrAllowed e.g.atH write n.toNat then none else some (privTrap n.toNat) }

/-- `csrr`. -/
def execCsrr (g : Guard) (d : Reg) (hi : Bool) (csr : BitVec 12) (s : State) : Host.Outcome State Fault Refusal :=
  runGroup (csrForm g d [] csr false) (fun e s =>
    let old := csrHalf hi (s.csr e.core e.slot csr.toNat)
    .ok (.done (e.wr d (fun _ => old) s))) s

/-- `csrw`, `csrs` and `csrc`. -/
def runCsr (op : CsrOp) (g : Guard) (d a : Reg) (hi : Bool) (csr : BitVec 12) (s : State) : Host.Outcome State Fault Refusal :=
  runGroup (csrForm g d [(a, 1)] csr true) (fun e s =>
    let old := csrHalf hi (s.csr e.core e.slot csr.toNat)
    .ok (.done (e.wr d (fun _ => old) (s.putCsr e.core e.slot csr.toNat op (inHalf hi (e.sc a)) (halfMask hi))))) s

def execCsrw (g : Guard) (d a : Reg) (hi : Bool) (csr : BitVec 12) (s : State) := runCsr .write g d a hi csr s
def execCsrs (g : Guard) (d a : Reg) (hi : Bool) (csr : BitVec 12) (s : State) := runCsr .set g d a hi csr s
def execCsrc (g : Guard) (d a : Reg) (hi : Bool) (csr : BitVec 12) (s : State) := runCsr .clear g d a hi csr s

/-- `trap`: software-trap, with `TEPC` at the next word (R347). -/
def execTrap (g : Guard) (k : BitVec 8) (s : State) : Host.Outcome State Fault Refusal :=
  let f := Form.plain g
  runWord f (fun e s =>
    if e.act = 0 then .ok (.done s)
    else .ok (.jump (e.trapAt s (e.latch f s) { cause := Causes.softwareTrap, info := k.setWidth 64, lane := 0 }
      (nextPc e.sp.pc)))) s

/-- `tret` (R345). -/
def execTret (g : Guard) (s : State) : Host.Outcome State Fault Refusal :=
  runWord { Form.plain g with pre := handlerOnly } (fun e s =>
    if e.act = 0 then .ok (.done s)
    else
      let s1 := if e.g.tcause = Causes.firmGather then s.replay e.core e.slot e.g.gatherLog else s
      .ok (.jump (e.modG Group.return s1))) s

/-- `lpinv`: the core is swept once its walks in flight have returned (R213, R347). -/
def execLpinv (g : Guard) (s : State) : Host.Outcome State Fault Refusal :=
  runGroup { Form.plain g with inX := false } (fun e s =>
    if e.k.walks.isEmpty then .ok (.done (e.modK Core.sweep s)) else .ok (.hold (e.waitFor .stalled s))) s

/-- FCODE of `halt` (R347). -/
def haltCode (a : Word) : Cause := if Causes.raised.contains (a.setWidth 10) then a.setWidth 10 else Causes.halt

/-- `halt`: the grid is removed as a fatal fault (R347). -/
def execHalt (g : Guard) (a : Reg) (s : State) : Host.Outcome State Fault Refusal :=
  runGroup { Form.plain g with srcs := [(a, 1)], inX := false, pre := handlerOnly } (fun e s =>
    .ok (.done (s.fatal e.g.grid (haltCode (e.sc a))))) s

/-! ## Events -/

/-- A raised trap is entered once the group's pending results have returned (R344). -/
def execTrapEntry (core : Fin 256) (slot : Fin 16) (s : State) : Host.Outcome State Fault Refusal :=
  .next (s.enterTrap core.val slot.val)

/-- The effective time-out of a partition (R102); 0 disables it. -/
def State.timeout (s : State) (p : Nat) : Nat :=
  let vs := (s.part p).phtmo.toNat ::
    (s.grids.filter (fun g => g.part == p && g.phase == .resident)).map (fun g => g.lrec.phtmov.toNat)
  (vs.filter (fun v => v != 0)).foldl (fun a v => if a = 0 then v else min a v) 0

/-- A group is blocked in `chwait`. -/
def Group.inChwait (g : Group) : Bool :=
  match g.wait with
  | .chwait _ _ _ => true
  | _ => false

/-- A group for which a landing of its partition has nothing to wait: arrived, blocked in `chwait`, exited, not
eligible, or of a grid being removed (R99, R349). -/
def State.arrivedAt (s : State) (p : Partition) (g : Group) : Bool :=
  g.arrived || g.inChwait || g.live == 0 || !g.eligible p.isX || (s.grid g.grid).phase == .removing

/-- The count reaches the time-out: every eligible group that has not arrived has the straggler trap due, once a
phase (R102). -/
def execStragglerTimeout (part : Fin 16) (s : State) : Host.Outcome State Fault Refusal :=
  let p := s.part part.val
  let t := s.timeout part.val
  if p.opened && !s.noGroups p && p.stragOn && !p.stragFired && t != 0 && decide (t ≤ p.strag) then
    let trap : DueTrap := { cause := Causes.straggler, info := BitVec.ofNat 64 t, lane := 0 }
    .next ((p.coreList.foldl (fun s c => s.modCore c (fun k =>
      { k with groups := k.groups.map (fun o => o.map (fun g =>
          if s.arrivedAt p g || g.strag then g else g.makeDue trap)) })) s).modPart part.val
        (fun p => { p with stragFired := true }))
  else .next s

end Sys2Proof.Machine
end

