-- ==== Sys2Proof/Machine/Image.lean ====
section
/-! DEFINITION. The context image (R350, R351): the bytes that a save writes, encrypted under the partition's key, and the
cores that a restore makes of them (R352, log 14). -/

namespace Sys2Proof.Machine

open Sys2Proof

/-- Bytes followed by zeros up to a size. -/
def padTo (n : Nat) (l : List Byte) : List Byte := l.take n ++ List.replicate (n - l.length) 0

/-- A 4-byte field. -/
def w4 (n : Nat) : List Byte := leBytes 4 n
/-- An 8-byte field. -/
def w8 (n : Nat) : List Byte := leBytes 8 n

/-! ## Group records -/

/-- A join record: 20 bytes. -/
def JoinRec.bytes (r : JoinRec) : List Byte :=
  [r.j, r.mj, r.dpc, r.dmask, r.amask].flatMap (fun w => w4 w.toNat)

/-- An entry of a split table: 0x100 bytes. -/
def splitBytes (o : Option Split) : List Byte :=
  padTo 0x100 (match o with
    | none => []
    | some sp => w4 sp.pc.toNat ++ w4 sp.mask.toNat ++ w4 sp.stack.length ++ sp.stack.flatMap JoinRec.bytes)

/-- An entry of the operand log: 0x120 bytes. -/
def logBytes (o : Option OpLog) : List Byte :=
  padTo 0x120 (match o with
    | none => []
    | some x => w4 x.pc.toNat ++ w4 (x.d.toNat + (MSize.code x.size).toNat * 256 + bit (x.space == .vt) 12) ++ w4 x.guard.toNat ++
        w4 x.pcm.toNat ++ x.addrs.flatMap (fun a => w8 a.toNat))

/-- The record of a resident group: 0x1000 bytes. -/
def groupRecord (k : Core) (g : Group) : List Byte :=
  let flags := bit g.atH 0 + bit g.arrived 1 + bit g.barFlag 2 + bit g.spill.isSome 3
  let regs := w4 g.fpctl.toNat ++ w4 g.fpflg.toNat ++ w8 g.repsig.toNat ++ w4 g.tcause.toNat ++ w4 g.tepc.toNat ++
    w8 g.tinfo.toNat ++ w4 g.tlane.toNat ++ w8 g.tvec.toNat ++ w8 g.tsave.toNat ++ w4 g.resmiss.toNat ++
    w4 (cpystat k g) ++ w4 (bit g.xdln 0) ++ w4 (bit g.scopeEn 1 + bit g.scopeDem 0) ++
    w4 (bit g.gskHit 7 + g.gskWp.toNat * 32 + g.gskSkid) ++ w4 g.winLo.toNat ++ w4 g.winHi.toNat ++ w4 flags ++
    padTo 12 (g.blocks.map (fun b => BitVec.ofNat 8 b))
  padTo 0x400 ((List.range 4).flatMap (fun i => splitBytes (g.splits.getD i none))) ++
    padTo 0x400 ((List.range 4).flatMap (fun i => splitBytes (g.frame.splits.getD i none))) ++
    padTo 0x240 ((List.range 2).flatMap (fun i => logBytes (g.logs.getD i none))) ++
    padTo 0xC0 (w4 g.frame.trapping ++ w4 g.frame.helper.toNat) ++
    padTo 0x60 ((List.range 24).flatMap (fun i => w4 (g.scalar i).toNat)) ++
    padTo 0x20 ((List.range 8).flatMap (fun i => w4 (g.pred i).toNat)) ++
    padTo 0x80 regs ++
    (List.range 8).flatMap (fun i => (List.range 32).flatMap (fun l => w4 (g.idxReg i l).toNat))

/-! ## Team records and core state -/

/-- A child handle's 8 bytes; the manual does not give their form (log 14). -/
def childBytes (o : Option Child) : List Byte :=
  match o with
  | none => w8 0
  | some c => w4 c.result.toNat ++ w4 (1 + bit c.done 1 + bit c.ok 2 + c.grid * 8)

/-- The record of a resident team: 0x100 bytes. -/
def teamRecord (k : Core) (gr : Grid) (j : Nat) (t : Team) : List Byte :=
  let mask := (k.groupList.filter (fun x => x.2.team == j)).foldl (fun n x => n + 2 ^ x.1) 0
  padTo 0x100 (w8 gr.lrecAt.toNat ++ w8 gr.node.toNat ++ w4 t.num ++ w4 mask ++ w4 t.afnext.toNat ++ w4 t.aflive.toNat ++
    w4 t.afquota.toNat ++ w4 (teamCsr t 0x040) ++ w4 t.frqhd.toNat ++ w4 t.frqtl.toNat ++ w4 t.gen ++ w4 t.spb ++
    w4 t.scratch ++ w4 j ++ (List.range 8).flatMap (fun i => childBytes (t.children.getD i none)))

/-- KIND of an emitter. -/
def EmitKind.code : EmitKind → Nat
  | .mmas => 0
  | .cpy => 1
  | .dectab => 2
  | .coverage => 3

/-- An emitter's 48 bytes (R261). -/
def Emitter.bytes (e : Emitter) : List Byte :=
  w4 (e.kind.code + e.level * 16 + bit e.wait 6 + e.mod.toNat * 256) ++ w4 e.cnt.toNat ++ w4 e.basex.toNat ++
    w4 e.basey.toNat ++ e.strx.flatMap (fun w => w4 w.toNat) ++ e.stry.flatMap (fun w => w4 w.toNat)

/-- The cruiser descriptor: 0xD0 bytes. -/
def descBytes (o : Option CruiserDesc) : List Byte :=
  padTo 0xD0 (match o with
    | none => []
    | some d => padTo 0x10 (w4 (d.nlev + 16 * d.emitters.length)) ++ d.emitters.flatMap Emitter.bytes)

/-- The eight entries of a table. -/
def tableBytes (t : List Half16) : List Byte := padTo 16 (t.flatMap (fun h => leBytes 2 h.toNat))

/-- A slot number's byte, 0xFF for none. -/
def slotByte (o : Option Nat) : Byte := BitVec.ofNat 8 (o.getD 0xFF)

/-- The core state: 0x1000 bytes. -/
def coreState (k : Core) : List Byte :=
  padTo 0x20 ([if k.act then 1 else 0, slotByte k.mowner, 0, 0] ++ w4 k.mclosed.toNat ++ w4 k.mdone.toNat ++
    w4 k.stall.toNat ++ w4 k.tables.length) ++
  padTo 0x60 ((k.tables.take 4).flatMap (fun t => tableBytes (t.data.getD []))) ++
  padTo 0x180 (descBytes k.cruiser) ++
  padTo 0x200 ((k.dcache.take 16).flatMap (fun x => w4 x.1 ++ tableBytes x.2)) ++
  padTo 0x20 ((List.range 4).flatMap (fun i =>
    match k.ctxs.getD i none with
    | none => w8 0xFF00000000
    | some t => w4 t.block ++ [slotByte (some t.team), 1, 0, 0])) ++
  padTo 0x40 (k.recq.flatMap (fun r => w4 r.2.1.toNat ++ w4 r.2.2.toNat)) ++
  padTo 0xBA0 ((List.range 16).flatMap (fun i => w4 (((k.group i).map (fun (g : Group) => g.helper)).getD 0).toNat))

/-! ## A core's image -/

/-- The words of a file from index 0. -/
def storeBytes (m : Store 32) (n : Nat) : List Byte := (Store.span m 0 n).flatMap (fun x => w4 x.toNat)

/-- The resident slots as a mask. -/
def slotMask (k : Core) : Nat := k.groupList.foldl (fun n x => n + 2 ^ x.1) 0

/-- The image of a core: 0x120000 bytes (R350). -/
def State.coreImage (s : State) (p : Partition) (c : Nat) : List Byte :=
  let k := s.core c
  padTo 0x1000 (w4 0x4B594358 ++ w4 1 ++ w8 p.phcnt.toNat ++ w4 c ++ w4 (slotMask k)) ++
    storeBytes k.regs 0x10000 ++
    Store.span k.sp 0 0x80000 ++
    storeBytes k.acc 0x10000 ++
    storeBytes k.planes 0x2000 ++
    padTo 0x1000 (coreState k) ++
    (List.range 16).flatMap (fun i => match k.group i with
      | some g => padTo 0x1000 (groupRecord k g)
      | none => List.replicate 0x1000 0) ++
    padTo 0x1000 ((List.range 16).flatMap (fun j => match k.team j with
      | some t => teamRecord k (s.grid t.grid) j t
      | none => List.replicate 0x100 0)) ++
    List.replicate 0x5000 0

/-- Storing bytes in a partition's image memory: host memory for CTXTIER 2, the second tier otherwise. -/
def State.putImage (s : State) (tier : BitVec 2) (a : Nat) (bs : List Byte) : State :=
  if tier = 2 then { s with host := Store.splice s.host a bs } else { s with tier := Store.splice s.tier a bs }

/-- The offset of a core's image from CTXBASE. -/
def Partition.imageOff (p : Partition) (c : Nat) : Nat := 0x120000 * (c - 8 * p.first)

/-- Writing the image of every core of a partition (R350). -/
def State.writeImage (s : State) (p : Partition) : State :=
  p.coreList.foldl (fun t c =>
    t.putImage p.ctxtier (p.ctxbase.toNat + p.imageOff c)
      (xtsImage false (p.key.getD 0) (p.imageOff c) (s.coreImage p c))) s

/-! ## Reading an image back (R352)

What a record holds comes from the image; what no record holds is as it was when the image was written (log 14). -/

/-- The decrypted image of a core at the CTXBASE of now. -/
def State.readImage (s : State) (p : Partition) (c : Nat) : Memory :=
  let m := if p.ctxtier = 2 then s.host else s.tier
  Store.ofList 0 (xtsImage true (p.key.getD 0) (p.imageOff c) (Store.span m (p.ctxbase.toNat + p.imageOff c) 0x120000))

/-- `n` words of an image as a file from index 0. -/
def loadStore (m : Memory) (a n : Nat) : Store 32 :=
  Store.ofList 0 ((chunks 4 n (Store.span m a (4 * n))).map (fun bs => BitVec.ofNat 32 (leNat bs)))

/-- `n` words of an image. -/
def imageWords (m : Memory) (a n : Nat) : List Word := (List.range n).map (fun i => Memory.word m (a + 4 * i))

/-- A join record. -/
def loadJoin (m : Memory) (a : Nat) : JoinRec where
  j := Memory.word m a
  mj := Memory.word m (a + 4)
  dpc := Memory.word m (a + 8)
  dmask := Memory.word m (a + 12)
  amask := Memory.word m (a + 16)

/-- An entry of a split table; one with no lane in its MASK or its stack is not in use. -/
def loadSplit (m : Memory) (a : Nat) (old : Option Split) : Option Split :=
  let stack := (List.range (min 8 (Memory.nat m (a + 8) 4))).map (fun i => loadJoin m (a + 12 + 20 * i))
  if Memory.word m (a + 4) = 0 && stack.isEmpty then none
  else some {
    pc := Memory.word m a
    mask := Memory.word m (a + 4)
    stack := stack
    latch := (old.map (fun x => x.latch)).getD []
    since := (old.map (fun x => x.since)).getD 0 }

/-- An entry of the operand log; one with no guard mask is free. -/
def loadLog (m : Memory) (a : Nat) (old : Option OpLog) : Option OpLog :=
  if Memory.word m (a + 8) = 0 then none
  else old.map (fun x => { x with
    pc := Memory.word m a
    d := (Memory.word m (a + 4)).setWidth 8
    guard := Memory.word m (a + 8)
    pcm := Memory.word m (a + 12)
    addrs := (List.range 32).map (fun i => BitVec.ofNat 48 (Memory.nat m (a + 16 + 8 * i) 8)) })

/-- A group from its record at `a`: what the record holds in a reserved field is ignored (R6). -/
def loadGroup (m : Memory) (a : Nat) (g : Group) : Group :=
  let w := fun (o : Nat) => Memory.word m (a + o)
  let d := fun (o : Nat) => Memory.dword m (a + o)
  { g with
    splits := (List.range 4).map (fun i => loadSplit m (a + 0x100 * i) (g.splits.getD i none))
    frame := {
      splits := (List.range 4).map (fun i => loadSplit m (a + 0x400 + 0x100 * i) (g.frame.splits.getD i none))
      trapping := (w 0xA40).toNat % 4
      helper := w 0xA44 }
    logs := (List.range 2).map (fun i => loadLog m (a + 0x800 + 0x120 * i) (g.logs.getD i none))
    s := imageWords m (a + 0xB00) 24
    p := imageWords m (a + 0xB60) 8
    fpctl := w 0xB80 &&& 0x3F1F
    fpflg := (w 0xB84).setWidth 6
    repsig := d 0xB88
    tcause := (w 0xB90).setWidth 10
    tepc := w 0xB94 &&& ~~~7
    tinfo := d 0xB98
    tlane := (w 0xBA0).setWidth 5
    tvec := d 0xBA4 &&& ~~~7
    tsave := d 0xBAC
    resmiss := w 0xBB4
    cpyerr := (w 0xBB8).extractLsb' 16 8
    xdln := (w 0xBBC).getLsbD 0
    scopeEn := (w 0xBC0).getLsbD 1
    scopeDem := (w 0xBC0).getLsbD 0
    gskHit := (w 0xBC4).getLsbD 7
    gskWp := (w 0xBC4).extractLsb' 5 2
    gskSkid := (w 0xBC4).toNat % 32
    winLo := w 0xBC8
    winHi := w 0xBCC
    atH := (w 0xBD0).getLsbD 0
    arrived := (w 0xBD0).getLsbD 1
    barFlag := (w 0xBD0).getLsbD 2
    blocks := if g.spill.isSome then g.blocks
      else (List.range g.blocks.length).map (fun i => Memory.nat m (a + 0xBD4 + i) 1 % 32)
    i := loadStore m (a + 0xC00) 256 }

/-- A team from its record at `a`: what the record holds in a reserved field is ignored (R6). -/
def loadTeam (m : Memory) (a : Nat) (t : Team) : Team :=
  let w := fun (o : Nat) => Memory.word m (a + o)
  { t with
    num := (w 0x10).toNat
    afnext := (w 0x18).setWidth 16
    aflive := (w 0x1C).setWidth 16
    afquota := (w 0x20).setWidth 16
    frqSz := (w 0x24).extractLsb' 28 4
    frqBase := (w 0x24).setWidth 19 &&& ~~~15
    frqhd := (w 0x28).setWidth 12
    frqtl := (w 0x2C).setWidth 12
    gen := (w 0x30).toNat
    spb := (w 0x34).toNat
    scratch := (w 0x38).toNat }

/-- A table of eight entries. -/
def loadTable (m : Memory) (a : Nat) : List Half16 := (List.range 8).map (fun i => BitVec.ofNat 16 (Memory.nat m (a + 2 * i) 2))

/-- The cruiser descriptor; none where no descriptor was held. -/
def loadDesc (m : Memory) (a : Nat) : Option CruiserDesc := parseDesc m a 0xD0

/-- A tile context. -/
def loadCtx (m : Memory) (a : Nat) : Option TileCtx :=
  if Memory.nat m (a + 5) 1 = 1 then some { team := Memory.nat m (a + 4) 1 % 16, block := Memory.nat m a 4 } else none

/-- A core from its decrypted image. -/
def loadCore (m : Memory) (k : Core) : Core :=
  let st := 0x109000
  let owner := Memory.nat m (st + 1) 1
  let group := fun (i : Nat) => if (Memory.word m 0x14).getLsbD i then
      (k.group i).map (fun g => { loadGroup m (0x10A000 + 0x1000 * i) g with helper := Memory.word m (st + 0x460 + 4 * i) })
    else none
  { k with
    regs := loadStore m 0x1000 0x10000
    sp := Store.ofList 0 (Store.span m 0x41000 0x80000)
    acc := loadStore m 0xC1000 0x10000
    planes := loadStore m 0x101000 0x2000
    act := decide (Memory.nat m st 1 = 1)
    mowner := if owner < 16 then some owner else none
    mclosed := Memory.word m (st + 4)
    mdone := Memory.word m (st + 8)
    stall := Memory.word m (st + 12)
    tables := (List.range (min 4 (Memory.nat m (st + 16) 4))).map (fun i =>
      let old := k.tables.getD i { id := i, claimed := false, data := none, since := none }
      { old with data := some (loadTable m (st + 0x20 + 16 * i)) })
    cruiser := loadDesc m (st + 0x80)
    dcache := (List.range k.dcache.length).map (fun i => (Memory.nat m (st + 0x200 + 20 * i) 4, loadTable m (st + 0x204 + 20 * i)))
    ctxs := (List.range 4).map (fun i => loadCtx m (st + 0x400 + 8 * i))
    recq := (List.range k.recq.length).map (fun i =>
      (((k.recq.getD i (0, 0, 0)).1), Memory.word m (st + 0x420 + 8 * i), Memory.word m (st + 0x424 + 8 * i)))
    groups := (List.range 16).map group
    teams := (List.range 16).map (fun j => (k.team j).map (loadTeam m (0x11A000 + 0x100 * j))) }

end Sys2Proof.Machine
end

