-- ==== Sys2Proof/Machine/Landing.lean ====
section
/-! DEFINITION. Landings (R18, R98-R100, R316, R348): engine acknowledgements, the drains and sorted applications, page
moves, drain rows, saves and restores (R350, R352), residency, call handlers (R312) and resumption. -/

namespace Sys2Proof.Machine

open Sys2Proof

/-! ## A grid leaves a core (R349) -/

/-- A grid's groups, commands, walks and contexts leave a core; its matrix unit is cleared. -/
def Core.purge (k : Core) (id : Nat) : Core :=
  let mine := fun (j : Nat) => (k.team j).any (fun t => t.grid == id)
  let gone := (k.groupList.filter (fun x => x.2.grid == id)).map (fun x => x.1)
  let head := fun (e : Engine) (j : Option Nat) (k : Core) => if j.any mine then k.endHead e else k
  let k1 : Core := { k with
    copies := k.copies.filter (fun x => !mine x.team)
    decq := k.decq.filter (fun x => !mine x.team)
    mq := k.mq.filter (fun x => !mine x.team)
    cq := k.cq.filter (fun x => !mine x.team)
    xfers := k.xfers.filter (fun x => !mine x.team)
    run := k.run.filter (fun r => !mine r.team)
    xpipe := k.xpipe.map (fun q => q.filter (fun w => !gone.contains w.slot))
    xptaken := k.xptaken.filter (fun w => !gone.contains w.slot)
    walks := k.walks.filter (fun w => w.grid != id)
    moves := k.moves.filter (fun m => m.grid != id)
    atoms := k.atoms.filter (fun a => a.grid != id)
    ctxs := k.ctxs.map (fun o => o.filter (fun t => !mine t.team)) }
  let k2 := head .decode (k.decq.head?.map (fun x => x.team)) (head .matrix (k.mq.head?.map (fun x => x.team))
    (head .coverage (k.cq.head?.map (fun x => x.team)) k1))
  if k2.mowner.any mine then k2.clearUnit else k2

/-- The staging rows that the drains of a grid on a core had reserved are free again. -/
def State.unreserve (s : State) (c id : Nat) : State :=
  (s.core c).xfers.foldl (fun s x =>
    match x.op with
    | .drain _ rows _ dcore _ _ =>
      if ((s.core c).team x.team).any (fun t => t.grid == id) then
        s.modCluster (dcore / 8) (fun k => { k with reserved := k.reserved - rows }) else s
    | _ => s) s

/-- The groups and teams of a grid end on a core. -/
def State.purgeCore (s : State) (id c : Nat) : State :=
  let slots := ((s.core c).groupList.filter (fun x => x.2.grid == id)).map (fun x => x.1)
  let teams := ((s.core c).teamList.filter (fun x => x.2.grid == id)).map (fun x => x.1)
  let s1 := (s.unreserve c id).modCore c (fun k => k.purge id)
  let s2 := slots.foldl (fun s i => s.freeGroup c i) s1
  teams.foldl (fun s j => s.endTeam c j) s2

/-- A core with a grid's groups and teams taken away. -/
def Core.forget (k : Core) (id : Nat) : Core :=
  let k1 := k.purge id
  { k1 with groups := k1.groups.map (fun o => o.filter (fun g => g.grid != id)),
            teams := k1.teams.map (fun o => o.filter (fun t => t.grid != id)) }

/-- A grid is being removed: what it has buffered or staged is discarded (R349 step 5). -/
def State.removed (s : State) (id : Nat) : Bool := (s.grid? id).any (fun g => g.phase == .removing)

/-- The grids of a partition that are being removed. -/
def State.removing (s : State) (part : Nat) : List Nat :=
  (s.grids.filter (fun g => g.part == part && g.phase == .removing)).map (fun g => g.id)

/-- A core as a landing sees it: without the grids that are being removed, for which no landing waits (R349). -/
def State.present (s : State) (c : Nat) : Core := (s.removing (s.partOf c)).foldl Core.forget (s.core c)

/-! ## Acknowledgements (R348) -/

/-- Every engine that acknowledges. -/
def allEngines : List Engine :=
  [.copy, .decode, .transform, .matrix, .cruiser, .coverage, .exchange, .writeQueues, .walker]

/-- An engine has nothing outstanding. -/
def Core.idle (k : Core) (e : Engine) : Bool :=
  match e with
  | .copy => k.copies.isEmpty
  | .decode => k.decq.isEmpty
  | .transform => k.xpipe.all (fun q => q.isEmpty) && k.xptaken.isEmpty
  | .matrix => k.mq.isEmpty
  | .cruiser => k.run.isNone
  | .coverage => k.cq.isEmpty
  | .exchange => k.xfers.isEmpty
  | .writeQueues => k.groupList.all (fun x => x.2.wq.isEmpty)
  | .walker => k.walks.isEmpty

/-- Whether every engine of a core has acknowledged; those of a core with no resident group acknowledge by being
idle. -/
def Core.acked (k : Core) : Bool :=
  if k.groupList.isEmpty then allEngines.all k.idle else allEngines.all (fun e => k.acks.contains e && k.idle e)

/-- Step 1 of R100: some group of a grid that is not being removed is resident, and every eligible one has arrived or
exited (R349). -/
def State.allArrived (s : State) (p : Partition) : Bool :=
  let gs := s.partGroups p
  gs.any (fun x => (s.grid x.2.2.grid).phase != .removing) && gs.all (fun x => s.arrivedAt p x.2.2)

/-- Some cluster of the partition is frozen (R334). -/
def State.anyFrozen (s : State) (p : Partition) : Bool := p.clusterList.any (fun i => (s.cluster i).frozen)

/-- An engine returns its acknowledgement once every group has arrived and it is idle. -/
def execEngineLandingAck (core : Fin 256) (engine : Engine) (s : State) : Host.Outcome State Fault Refusal :=
  let c := core.val
  let p := s.part (s.partOf c)
  let k := s.present c
  .next (if s.allArrived p && k.idle engine && !k.acks.contains engine then
    s.modCore c (fun k => { k with acks := k.acks ++ [engine] }) else s)

/-! ## Steps 3 and 4: drains and atomics (R230, R310, R316) -/

/-- Every write queue of a core drains. -/
def State.drainCore (s : State) (c : Nat) : State :=
  (List.range 16).foldl (fun s i => s.drainQueue c i (fun _ => true)) s

/-- The order of buffered and remote atomics. -/
def AtomEntry.le (a b : AtomEntry) : Bool :=
  lexLe [a.key.order, a.key.team, a.key.group, a.key.lane, a.key.seq] [b.key.order, b.key.team, b.key.group, b.key.lane, b.key.seq]

/-- Applying atomics in their order. -/
def State.applyAtoms (s : State) (l : List AtomEntry) : State := (sortBy AtomEntry.le l).foldl State.applyAtom s

/-- Every buffered and remote atomic of a partition is applied, and the buffers empty. -/
def State.applyBuffers (s : State) (p : Partition) : State :=
  let l := p.coreList.flatMap (fun c => (s.core c).atoms) ++ p.clusterList.flatMap (fun i => (s.cluster i).ratoms)
  let s1 := p.coreList.foldl (fun s c => s.modCore c (fun k => { k with atoms := [] })) s
  let s2 := p.clusterList.foldl (fun s i => s.modCluster i (fun k => { k with ratoms := [] })) s1
  s2.applyAtoms (l.filter (fun a => !s.removed a.grid))

/-- The bytes of a range of one memory, moved to another place. -/
def Memory.carry (m : Memory) (a n : Nat) (dst : Memory) (b : Nat) : Memory :=
  Store.writeAll (Store.clear dst (fun x => decide (b ≤ x) && decide (x < b + n)))
    ((m.filter (fun e => decide (a ≤ e.1) && decide (e.1 < a + n))).map (fun e => (e.1 - a + b, e.2)))

/-- Where a page's bytes lie, as a memory and an address in it: the vault that holds it, or its backing by TIER. -/
def State.pageBytes (s : State) (l : Leaf) : Memory × Nat :=
  if Pte.res l.pte then ((s.core (Pte.core l.pte)).vault, Pte.frame l.big l.pte)
  else match Pte.tier l.pte with
    | 1 => (s.tier, Pte.addr l.pte)
    | 2 => (s.host, Pte.addr l.pte)
    | _ => ([], 0)

/-- The bounce lines of a page merge into its frame, slice by slice, and are freed (R219). -/
def State.mergeLines (s : State) (p : Partition) (part core va size frame : Nat) : State :=
  p.clusterList.foldl (fun s i =>
    let mine := fun (b : BounceLine) => b.part == part && decide (va ≤ 128 * b.line) && decide (128 * b.line < va + size)
    let writes := ((s.cluster i).bounce.filter mine).flatMap (fun b =>
      (b.bytes.filter (fun e => e.2.getLsbD 8)).map (fun e => (frame + (e.1 - va), e.2.setWidth 8)))
    (s.modCore core (fun k => { k with vault := Store.writeAll k.vault writes })).modCluster i (fun k =>
      { k with bounce := k.bounce.filter (fun b => !mine b) })) s

/-- The atomics that the pool holds for a page are applied and leave it (R230), those of several phases by the sequence of each one's
own, and ties by arrival: the model's choice (log 70). -/
def State.releaseHeld (s : State) (p : Partition) (va size : Nat) : State :=
  let mine := fun (a : AtomEntry) => match a.place with
    | .vault _ x => decide (va ≤ x) && decide (x < va + size)
    | _ => false
  let l := p.clusterList.flatMap (fun i => (s.cluster i).held.filter mine)
  (p.clusterList.foldl (fun s i => s.modCluster i (fun k => { k with held := k.held.filter (fun a => !mine a) })) s).applyAtoms
    (l.filter (fun a => !s.removed a.grid))

/-- One accepted page move (R313, R316 step 2). A leaf that is no longer the one read at issue drops the move. -/
def State.movePage (s : State) (part : Nat) (m : PageMove) : State :=
  let p := s.part part
  let size := pageSize m.big
  let s0 := if m.evict then s else
    p.clusterList.foldl (fun s i => s.modCluster i (fun k =>
      { k with pageReq := k.pageReq.map (fun l => l.filter (fun g => !(decide (m.va ≤ g) && decide (g < m.va + size)))) })) s
  match walk s.host p m.va with
  | none => s0
  | some l =>
    if l.pte != m.leaf || l.big != m.big then s0
    else
      let src := s0.pageBytes l
      let s1 := if Pte.res l.pte then
          s0.modCore (Pte.core l.pte) (fun k => k.zeroVault (Pte.frame l.big l.pte) size) else s0
      if m.evict then
        let s2 : State := if m.tier = 2 then { s1 with host := Memory.carry src.1 src.2 size s1.host m.backing }
          else { s1 with tier := Memory.carry src.1 src.2 size s1.tier m.backing }
        s2.putLeaf part l.ref m.newLeaf
      else
        let s2 := s1.modCore m.core (fun k => { k with vault := Memory.carry src.1 src.2 size k.vault m.frame })
        ((s2.mergeLines p part m.core m.va size m.frame).putLeaf part l.ref m.newLeaf).releaseHeld p m.va size

/-- Every accepted move, core by core (log 13); afterwards the cores are swept if there was any. -/
def State.movePages (s : State) (part : Nat) : State :=
  let p := s.part part
  let ms := (p.coreList.flatMap (fun c => (s.core c).moves)).filter (fun m => !s.removed m.grid)
  let s1 := p.coreList.foldl (fun s c => s.modCore c (fun k => { k with moves := [] })) s
  let s2 := ms.foldl (fun s m => s.movePage part m) s1
  if ms.isEmpty then s2 else p.coreList.foldl (fun s c => s.modCore c Core.sweep) s2

/-- One addition of a drained entry (R309). -/
def drainAdd (acc src : Word) : Word :=
  let r := (fp32.addV FpMode.plain (fp32.value false acc.toNat) (fp32.value false src.toNat)).1
  if (fp32.value false r).isNan then 0x7FC00000 else BitVec.ofNat 32 r

/-- A staged row is added into its destination row. -/
def Core.addRow (k : Core) (r : StageRow) : Core :=
  { k with acc := Store.writeAll k.acc ((List.range 64).map (fun n =>
      (accKey r.drow n, drainAdd (Store.read k.acc (accKey r.drow n)) (r.vals.getD n 0)))) }

/-- The staged rows of a partition are added in sorted order (R309); those for a unit with no owner are discarded. -/
def State.addRows (s : State) (p : Partition) : State :=
  let rows := (p.clusterList.flatMap (fun i => (s.cluster i).staged)).filter (fun r => !s.removed r.grid)
  let s1 := p.clusterList.foldl (fun s i => s.modCluster i (fun k => { k with staged := [] })) s
  (sortBy (fun (a b : StageRow) => lexLe [a.core, a.team, a.group, a.seq] [b.core, b.team, b.group, b.seq]) rows).foldl
    (fun s r => if (s.core r.dcore).mowner.isSome then s.modCore r.dcore (fun k => k.addRow r) else s) s1

/-- One put that came over a link is applied where its address lies (R325): at a `.vt` page that no vault holds, to the pool
of the slice that staged it, whose lines it reserved on arrival (R219, R220). -/
def State.applyPut (s : State) (cl : Nat) (x : LinkPut) : State :=
  match x.rsp with
  | .win => s.modCore (winCore x.addr) (fun k =>
      (List.range x.bytes.length).foldl (fun k j => k.winWrite ((x.addr + j) % 2 ^ 24) (x.bytes.getD j 0)) k)
  | .cl => s.modCluster (winSlice x.addr) (fun k => { k with prog := Memory.store k.prog (x.addr % 2 ^ 24) x.bytes })
  | .vt => ((pageParts x.addr x.bytes.length).foldl (fun (a : State × Nat) y =>
      let bs := (x.bytes.drop a.2).take y.2
      (match walk a.1.host (a.1.part x.part) y.1 with
        | none => a.1
        | some l =>
          if Pte.res l.pte then
            (a.1.modCore (Pte.core l.pte) (fun k => { k with vault := Memory.store k.vault (l.offset y.1) bs })).touchLeaf x.part l true
          else (a.1.bounce cl x.part y.1 bs).touchLeaf x.part l true, a.2 + y.2)) (s, 0)).1
  | .reg => s

/-- The puts that came over links for a partition are applied in the order in which they arrived, whichever slices staged them. -/
def State.applyPuts (s : State) (part : Nat) : State :=
  let cls := (s.part part).clusterList
  let puts : List (Nat × LinkPut) := cls.flatMap (fun i =>
    ((s.cluster i).linkPuts.filter (fun x => x.part == part)).map (fun x => (i, x)))
  let s1 := cls.foldl (fun s i => s.modCluster i (fun k => { k with linkPuts := k.linkPuts.filter (fun x => x.part != part) })) s
  (sortBy (fun (a b : Nat × LinkPut) => decide (a.2.arrival ≤ b.2.arrival)) puts).foldl (fun s x => s.applyPut x.1 x.2) s1

/-- Steps 3 and 4 of R100, and R316 where an X-phase closes: everything queued, staged and buffered takes effect. -/
def State.settle (s : State) (part : Nat) : State :=
  let p := s.part part
  let s1 := p.coreList.foldl State.drainCore s
  let s2 := if p.isX then (s1.movePages part).addRows p else s1
  s2.applyBuffers p

/-! ## Step 7: call handlers (R312) and children -/

/-- The lowest spawn index that no living handler group of a team holds. -/
def Core.spawnIndex (k : Core) (j : Nat) : Option Nat :=
  ((List.range 16).map (fun i => 16 + i)).find? (fun i => !k.groupList.any (fun x => x.2.team == j && x.2.index == i))

/-- A handler group at its start: the payload in `v0` on, the source core in `s2`, the word count in `s3`. -/
def State.spawn (s : State) (c j : Nat) (p : CallPkt) : Option State := do
  let k := s.core c
  let gr := s.grid p.grid
  let i ← k.spawnIndex j
  let n := p.payload.length / 32
  let mk := fun (bs : List Nat) =>
    let g := Group.start gr s.nextId j i false (((k.team j).map (fun t => t.age)).getD 0) bs (BitVec.ofNat 32 p.handler)
    (g.setScalar 2 (BitVec.ofNat 32 p.core)).setScalar 3 (BitVec.ofNat 32 n)
  let r ← k.placeGroup gr.lrec.blk mk
  let w := (List.range n).flatMap (fun r => (List.range 32).map (fun l => (r, l, p.payload.getD (32 * r + l) 0)))
  pure (({ (s.setCore c r.1) with nextId := s.nextId + 1 }).writeV c r.2 w)

/-- The packets of a core's queue, in the order of their source core, source team, group and issue sequence, the model's reading of
R312 (log 46): each spawns a handler group or waits. One whose team has ended is discarded; one whose grid is saved waits for the
restore. -/
def State.spawnCalls (s : State) (c : Nat) : State :=
  let q := sortBy (fun (a b : CallPkt) => lexLe [a.core, a.steam, a.group, a.seq] [b.core, b.steam, b.group, b.seq])
    ((s.cluster (c / 8)).calls.getD (c % 8) [])
  let r := q.foldl (fun (a : State × List CallPkt) p =>
    match ((a.1.core c).teamList.find? (fun x => x.2.grid == p.grid && x.2.num == p.team && !x.2.ending)) with
    | none => if (a.1.grid p.grid).phase == .saved then (a.1, a.2 ++ [p]) else a
    | some x =>
      match a.1.spawn c x.1 p with
      | some s' => (s', a.2)
      | none => (a.1, a.2 ++ [p])) (s, [])
  r.1.modCluster (c / 8) (fun k => { k with calls := k.calls.set (c % 8) r.2 })

/-- The children of a `chwait` that is to complete. -/
def Group.childrenDone (g : Group) : Option (List (Nat × Child) × Reg × Nat) :=
  match g.wait with
  | .chwait l d st => if l.all (fun x => x.2.done) then some (l, d, st) else none
  | _ => none

/-- A group whose `chwait` completes: D and the status are written, and the group goes on after the word (R113). -/
def Group.completeChwait (g : Group) : Group :=
  match g.childrenDone with
  | some (l, d, st) => ((g.putS d (childResult l).1).setPred st allLanes (childResult l).2).endWait
  | none => g

/-- Groups in `chwait` whose awaited children have all retired are released, and the handles are freed (R100 step 7). -/
def Core.releaseChildren (k : Core) : Core :=
  let freed := k.groupList.filterMap (fun x => x.2.childrenDone.map (fun y => (x.2.team, y.1)))
  { k with
    groups := k.groups.map (fun o => o.map Group.completeChwait)
    teams := freed.foldl (fun ts x => ts.set x.1 ((ts.getD x.1 none).map (fun t => Team.freeChildren t x.2))) k.teams }

/-! ## Steps 7 and 8 -/

/-- A group after a landing: its arrival and straggler marks are cleared, and its phase's sequences begin again. -/
def Group.resume (g : Group) : Group := { g with arrived := false, strag := false, atombSeq := 0, xdrainSeq := 0 }

/-- Steps 7 and 8 of R100. What the cores show to each other in an X-phase is what they hold as it opens (R329). The straggler count
begins anew at the phase's first arrival; a group that has been blocked in `chwait` since an earlier phase does not begin it, which
R102 leaves open (log 57). -/
def State.openPhase (s : State) (part : Nat) : State :=
  let p := s.part part
  let s1 := if p.isX then s else
    let a := s.placeAll part
    let b := p.coreList.foldl State.spawnCalls a
    p.coreList.foldl (fun s c => s.modCore c Core.releaseChildren) b
  let s2 := p.coreList.foldl (fun s c => s.modCore c (fun k =>
    { k with
      acks := []
      shownSp := if p.isX then some k.sp else none
      shownRegs := if p.isX then some k.regs else none
      groups := k.groups.map (fun o => o.map Group.resume) })) s1
  s2.modPart part (fun p => { p with stragOn := p.preemptReq, strag := 0, stragFired := false })

/-! ## Step 6: a save (R348, R350) -/

/-- What a save leaves on a core: nothing resident, its registers, scratchpad, accumulators and engines free. The
registers that the image does not hold stay. The stall count goes into the image and is 0 in the core until a restore: R348 leaves the
engines free, and R252, by which only a write of MBATCH clears the count, does not speak of a save: the model's choice (log 75). -/
def Core.saved (k : Core) : Core :=
  { Core.reset with
    vault := k.vault, lsFault := k.lsFault, lsEmit := k.lsEmit, lsCount := k.lsCount, tangc := k.tangc, xlate := k.xlate,
    wpa := k.wpa, wpctl := k.wpctl, wpact := k.wpact, brkf := k.brkf, sgrp := k.sgrp, stepb := k.stepb }

/-- What is not saved leaves the cores before a save: grids being removed (R349). -/
def State.beforeSave (s : State) (part : Nat) : State :=
  (s.part part).coreList.foldl (fun s c => (s.removing part).foldl (fun s id => s.purgeCore id c) s) s

/-- Saving a partition's context. -/
def State.save (s : State) (part : Nat) : State :=
  let s := s.beforeSave part
  let p := s.part part
  let kept := s.grids.filter (fun g => g.part == part && g.phase == .resident)
  let img : Saved := { tier := p.ctxtier, base := p.ctxbase, phcnt := p.phcnt, gen := p.gen,
                       cores := p.coreList.map (fun c => (c, s.core c)), grids := kept.map (fun g => g.id) }
  let s1 := p.coreList.foldl (fun s c => s.modCore c Core.saved) (s.writeImage p)
  let s2 : State := { s1 with grids := s1.grids.map (fun (g : Grid) =>
    if g.part == part && g.phase == .resident then { g with phase := .saved } else g) }
  s2.modPart part (fun p => { p with
    image := some img, hasImage := true, preemptReq := false, held := true, stragOn := false, strag := 0,
    stragFired := false })

/-- Whether a context can be saved: CTXTIER names a memory (R348). -/
def Partition.canSave (p : Partition) : Bool := p.ctxtier == 1 || p.ctxtier == 2

/-! ## The landing (R100) -/

/-- A landing reaches a core's translations: the data side is swept, and code read by a leaf that no longer stands goes (R213,
R214, log 17). -/
def State.sweepCore (s : State) (part c : Nat) : State :=
  s.modCore c (fun k => { k with
    tlb := [], itlb := [], lastPage := [],
    icache := k.icache.filter (fun w => (walk s.host (s.part part) w.addr).any (fun l => sameMap l.pte w.leaf && l.big == w.big)) })

/-- Steps 3 to 8 of R100. -/
def State.land (s : State) (part : Nat) : State :=
  let p := s.part part
  let s0 := (p.coreList.foldl State.drainCore s).applyPuts part
  let s1 := p.coreList.foldl (fun s c => s.sweepCore part c) (s0.settle part)
  let s2 := s1.modPart part (fun p => { p with phcnt := p.phcnt + 1 })
  if p.preemptReq && p.canSave then s2.save part
  else (s2.modPart part (fun p => { p with preemptReq := false })).openPhase part

/-- Some team of the partition waits for a place and none is held back by a save. -/
def State.teamsWait (s : State) (part : Nat) : Bool :=
  !(s.part part).held && s.grids.any (fun g => g.part == part &&
    (g.phase == .waiting || (g.phase == .resident && decide (g.nextTeam < g.lrec.teams))))

/-- What a landing waits for on a core besides arrivals: every acknowledgement, the end of each group whose lanes have all
exited, and the end of each team whose groups have (R18, R110, R241, R367). -/
def State.coreReady (s : State) (c : Nat) : Bool :=
  let k := s.present c
  k.acked && k.groupList.all (fun x => x.2.live != 0) && k.teamList.all (fun x => !x.2.ending)

/-- No straggler count runs and none has run out. -/
def Partition.stopCount (p : Partition) : Partition := { p with stragOn := false, strag := 0, stragFired := false }

/-- A partition with no resident group: a held pre-emption is over (R348), and the teams that wait are placed in the
present C-phase, once every team that is over has ended, or after one landing with no participants (R98), which waits for engines
and for a thaw as any other (R18, R334). The straggler count, which begins at a phase's first arrival, goes no further from a group
that has arrived and ended: groups that begin in the present C-phase find it not begun (R102, log 57). -/
def State.admitWaiting (s : State) (part : Nat) : State :=
  let p := s.part part
  if !s.noGroups p then s
  else
    let s1 := s.modPart part (fun p => { p with preemptReq := false })
    if !s1.teamsWait part then s1
    else if s1.overLeft p then s1
    else if !p.isX then (s1.modPart part Partition.stopCount).placeAll part
    else if !s1.anyFrozen p && p.coreList.all s1.coreReady then s1.land part
    else s1

/-- The landing's own conditions: nothing frozen, every core ready, and, for a save, nothing pending (R85, R100, R334). -/
def State.canLand (s : State) (p : Partition) : Bool :=
  p.opened && s.allArrived p && !s.anyFrozen p && p.coreList.all s.coreReady &&
    (!(p.preemptReq && p.canSave) ||
      (s.partGroups p).all (fun x => !x.2.2.inFlight || (s.grid x.2.2.grid).phase == .removing))

/-! ## Pre-emption and restore (R348, R352) -/

/-- A host write requests pre-emption: held until the next landing, or over at once with no resident group. -/
def execPreempt (part : Fin 16) (s : State) : Host.Outcome State Fault Refusal :=
  let p := s.part part.val
  .next (if p.opened && !s.noGroups p then
    s.modPart part.val (fun p => { p with preemptReq := true, stragOn := true }) else s)

/-- The tail-drop region that holds an address (R54). -/
def Grid.tailAt (gr : Grid) (pc : Word) : Option (Word × Word) :=
  gr.tails.find? (fun t => decide (t.1.toNat ≤ pc.toNat) && decide (pc.toNat < t.2.toNat))

/-- A restored group: at U with its resume PC in a tail-drop region it restarts at BEGIN; otherwise it stands where it
stood (R352, R368). A restore ends latch service (R64). -/
def Group.restored (g : Group) (gr : Grid) : Group :=
  let g := g.clearLatch
  match g.splitList with
  | sp :: _ =>
    match if g.atH then none else gr.tailAt sp.pc with
    | some t =>
      { g with
        splits := [some { pc := t.1, mask := g.live, stack := [], latch := [], since := 0 }, none, none, none]
        logs := [none, none], gatherDue := false, due := [], barFlag := false, barAt := none, arrived := false, wait := .ready }
    | none => g
  | [] => g

/-- A core's saved contents over its present vault and the registers that the image does not hold. -/
def Core.restored (saved now : Core) : Core :=
  { saved.sweep with
    vault := now.vault, lsFault := now.lsFault, lsEmit := now.lsEmit, lsCount := now.lsCount, tangc := now.tangc,
    xlate := now.xlate, wpa := now.wpa, wpctl := now.wpctl, wpact := now.wpact, brkf := now.brkf, sgrp := now.sgrp,
    stepb := now.stepb, acks := [] }

/-- A team of the image whose launch record and node are those of its grid (R351). -/
def State.loadGrid (s : State) (m : Memory) (j : Nat) (t : Team) : State :=
  s.modGrid t.grid (fun g => { g with
    lrecAt := Memory.dword m (0x11A000 + 0x100 * j), node := Memory.dword m (0x11A008 + 0x100 * j) })

/-- What a core's image holds of teams whose grids have been removed since is gone: their contexts are closed and their
matrix unit is cleared (R349 step 6). -/
def Core.dropRemoved (k : Core) : Core :=
  let gone := fun (j : Nat) => (k.team j).isNone
  let k1 : Core := { k with ctxs := k.ctxs.map (fun o => o.filter (fun t => !gone t.team)) }
  if k1.mowner.any gone then k1.clearUnit else k1

/-- A core of the image is loaded over the present core (R352). -/
def State.loadImageCore (s : State) (p : Partition) (c : Nat) (old : Core) : State :=
  let m := s.readImage p c
  let k := (loadCore m old).dropRemoved
  let s1 := s.modCore c (fun now =>
    let k := k.restored now
    { k with groups := k.groups.map (fun o => o.map (fun g => g.restored (s.grid g.grid))) })
  k.teamList.foldl (fun s x => s.loadGrid m x.1 x.2) s1

/-- The landing of a restore: the image is loaded from CTXBASE, `PHCNT` is the header's, and steps 7 and 8 run. A group that
starts a dropped tail again does not count as arrived (R368). -/
def State.loadImage (s : State) (part : Nat) (img : Saved) : State :=
  let p := s.part part
  let s1 := img.cores.foldl (fun t x => t.loadImageCore p x.1 x.2) s
  let s2 : State := { s1 with grids := s1.grids.map (fun (g : Grid) =>
    if g.part == part && g.phase == .saved && img.grids.contains g.id then { g with phase := .resident } else g) }
  (s2.modPart part (fun q => { q with
    phcnt := Memory.dword (s.readImage p (8 * p.first)) 8, hasImage := false, held := false, restoreReq := false })).openPhase part

/-- The context that a restore would load: the one last saved, under the key that wrote it, from the memory that CTXTIER names
(R350, R352, log 14). -/
def Partition.restorable (p : Partition) : Option Saved :=
  if p.hasImage && p.key.isSome && p.canSave then p.image.bind (fun i => if i.gen = p.gen then some i else none) else none

/-- IDLE: no grid is resident, and nothing is left on the cores of one being removed (R349, R354). -/
def State.partIdle (s : State) (part : Nat) : Bool :=
  let p := s.part part
  !s.grids.any (fun g => g.part == part && g.phase == .resident) && s.noGroups p &&
    p.coreList.all (fun c => (s.core c).teamList.isEmpty)

/-- A restore asked for is carried out, unless a freeze holds back its landing (R334, R352). -/
def State.tryRestore (s : State) (part : Nat) : State :=
  match if s.partIdle part then (s.part part).restorable else none with
  | some img =>
    if s.anyFrozen (s.part part) then s.modPart part (fun p => { p with restoreReq := true }) else s.loadImage part img
  | none => s.modPart part (fun p => { p with restoreReq := false })

/-- A host write requests a restore: it does nothing unless an image is saved and the partition is idle. -/
def execRestore (part : Fin 16) (s : State) : Host.Outcome State Fault Refusal :=
  .next (if (s.part part.val).opened then s.tryRestore part.val else s)

/-- A landing: that of a restore that waits, of groups that have arrived, or the admission of teams to an empty partition. -/
def execLanding (part : Fin 16) (s : State) : Host.Outcome State Fault Refusal :=
  let p := s.part part.val
  .next (if !p.opened then s
    else if p.restoreReq then s.tryRestore part.val
    else if s.canLand p then s.land part.val
    else s.admitWaiting part.val)

end Sys2Proof.Machine
end

