-- ==== Sys2Proof/Machine/Command.lean ====
section
/-! DEFINITION. The command processor: rings and nodes (R92-R94), the launch hash (R156), retirement, removal (R349) and
the partition's reset (R353, R379, R380). -/

namespace Sys2Proof.Machine

open Sys2Proof

/-! ## Nodes (R93) -/

/-- Writing STATE and FCODE of a node. -/
def State.nodeState (s : State) (node : Dword) (st : Nat) (code : Cause) : State :=
  { s with host := Memory.store s.host (node.toNat + 0x34) (leBytes 4 (st + code.toNat * 256)) }

/-- DEPCNT of a node. -/
def depcnt (host : Memory) (node : Nat) : Nat := Memory.nat host (node + 0x0A) 2
/-- Writing DEPCNT. -/
def State.setDepcnt (s : State) (node n : Nat) : State := { s with host := Memory.store s.host (node + 0x0A) (leBytes 2 n) }

/-- A queue stops until the host restarts it (R94). -/
def State.stopQueue (s : State) (q : Nat) : State := s.modQueue q (fun x => { x with stop := true })

/-- The open partition that a queue belongs to. -/
def State.queuePart (s : State) (q : Nat) : Option Nat :=
  (List.range 16).find? (fun p => (s.part p).opened && (s.part p).qmask.getLsbD q)

/-- A queue may run: its partition is open and not stopped by a save (R348), and it is enabled and not stopped. -/
def State.queueRuns (s : State) (q : Nat) : Bool :=
  (s.queuePart q).any (fun p => !(s.part p).held) && (s.queue q).en && !(s.queue q).stop

/-- A node launched from a queue has not ended. -/
def State.queueBusy (s : State) (q : Nat) : Bool := s.grids.any (fun g => g.queue == q && g.parent.isNone)

/-- The next entry of a queue is taken once nothing reached from the one before is resident or ready (R92). A node's address that is
not a multiple of 64 is used as it stands, here and in a release: the model's choice (log 63). -/
def execNodeTake (queue : Fin 64) (s : State) : Host.Outcome State Fault Refusal :=
  let q := queue.val
  let x := s.queue q
  .next (if s.queueRuns q && x.ready.isEmpty && !s.queueBusy q && x.head != x.tail then
    let node := Memory.dword s.host (x.base.toNat + 8 * (x.head.toNat % 2 ^ x.size.toNat))
    s.modQueue q (fun x => { x with head := x.head + 1, ready := [node] })
  else s)

/-- A ready node launches: its record is checked, STATE is written and DEPCNT is reloaded (R94, R96). An address of a record or a
result word that is not aligned as R94 and R95 say is used as it stands, a case for which they name no fault: the model's choice
(log 63). -/
def execNodeLaunch (queue : Fin 64) (idx : Nat) (s : State) : Host.Outcome State Fault Refusal :=
  let q := queue.val
  match if s.queueRuns q then (s.queue q).ready[idx]? else none with
  | none => .next s
  | some node =>
    let n := node.toNat
    let s1 := s.modQueue q (fun x => { x with ready := x.ready.eraseIdx idx })
    let lrec := Memory.dword s.host n
    let bytes := Memory.bytes s.host lrec.toNat 256
    match s1.submit ((s.queuePart q).getD 0) (some bytes) lrec (depcnt s.host n != 0) node q none 1 10 with
    | .error c => .next ((s1.nodeState node 3 c).stopQueue q)
    | .ok s2 => .next ((s2.nodeState node 1 0).setDepcnt n (Memory.nat s.host (n + 8) 2))

/-- The launch hash completes: the grid waits for residency, which an empty partition gives at once (R98, R156). -/
def execRepsigHashComplete (grid : Nat) (s : State) : Host.Outcome State Fault Refusal :=
  match s.grid? grid with
  | some g =>
    .next (if g.phase == .hashing then (s.modGrid grid (fun g => { g with phase := .waiting })).admitWaiting g.part else s)
  | none => .next s

/-! ## Retirement (R94, R113) -/

/-- A child that is the grid `id` is finished. -/
def Child.finish (c : Child) (id : Nat) (result : Word) (ok : Bool) : Child :=
  if c.grid = id then { c with done := true, result := result, ok := ok } else c

/-- The handles of a child grid, in its parent's team and in every `chwait` that awaits it, say that it has finished. -/
def Core.endChild (k : Core) (id : Nat) (result : Word) (ok : Bool) : Core :=
  { k with
    teams := k.teams.map (fun o => o.map (fun t =>
      { t with children := t.children.map (fun x => x.map (fun c => c.finish id result ok)) }))
    groups := k.groups.map (fun o => o.map (fun g =>
      match g.wait with
      | .chwait l d st => { g with wait := .chwait (l.map (fun x => (x.1, x.2.finish id result ok))) d st }
      | _ => g)) }

/-- The parent of a child grid learns that it has ended, in its cores or in a saved image. -/
def State.endChild (s : State) (g : Grid) (result : Word) (ok : Bool) : State :=
  match g.parent with
  | none => s
  | some _ =>
    let f := fun (k : Core) => k.endChild g.id result ok
    ((s.part g.part).coreList.foldl (fun s c => s.modCore c f) s).modPart g.part (fun p =>
      { p with image := p.image.map (fun i => { i with cores := i.cores.map (fun x => (x.1, f x.2)) }) })

/-- A node becomes ready in a queue, unless it is ready already, in whichever queue. -/
def State.makeReady (s : State) (q : Nat) (node : Dword) : State :=
  if s.queues.any (fun x => x.ready.contains node) then s else s.modQueue q (fun x => { x with ready := x.ready ++ [node] })

/-- Releasing one successor. -/
def State.release (s : State) (q : Nat) (node : Dword) : State :=
  let n := node.toNat
  let d := depcnt s.host n
  if d = 0 then s.makeReady q node
  else
    let s1 := s.setDepcnt n (d - 1)
    if d = 1 then s1.makeReady q node else s1

/-- Releasing the successors that the result word names. -/
def State.releaseAll (s : State) (q : Nat) (node : Dword) (result : Word) : State :=
  (List.range 4).foldl (fun s i =>
    let succ := Memory.dword s.host (node.toNat + 0x10 + 8 * i)
    if result.getLsbD i && succ != 0 then s.release q succ else s) s

/-- Every effect of a grid that has finished becomes visible (R331). -/
def State.flush (s : State) (g : Grid) : State :=
  let s1 := s.landWords (fun w => w.grid == g.id)
  if s1.staging g then s1.settle g.part else s1

/-- A grid leaves the device. -/
def State.dropGrid (s : State) (id : Nat) : State := { s with grids := s.grids.filter (fun g => g.id != id) }

/-- A grid retires (R94), once every effect of it is visible (R331). A last team that is over ends with it (log 24). -/
def execGridRetire (grid : Nat) (s : State) : Host.Outcome State Fault Refusal :=
  match s.grid? grid with
  | none => .next s
  | some g =>
    if !s.finished g then .next s
    else
      let result : Word := if g.posted then g.result else 0xF
      let put := fun (a : Nat) (s : State) => { s with host := Memory.store s.host a (leBytes 4 result.toNat) }
      let s1 := ((s.overTeams g).foldl (fun s x => s.endTeam x.1 x.2) (s.flush g)).dropGrid grid
      let s2 := if g.lrec.resaddr = 0 then s1 else put g.lrec.resaddr.toNat s1
      match g.parent with
      | some _ => .next (s2.endChild g result true)
      | none => .next (((put (g.node.toNat + 0x30) s2).nodeState g.node 2 0).releaseAll g.queue g.node result)

/-! ## Removal (R349) -/

/-- A grid leaves a partition's saved image, with the apertures its teams kept. -/
def State.purgeImage (s : State) (part id : Nat) : State :=
  match (s.part part).image with
  | none => s
  | some img =>
    let s1 := img.cores.foldl (fun s x =>
      (x.2.teamList.filter (fun t => t.2.grid == id)).foldl (fun s t => s.removeAperture part x.1 t.1 t.2.vault) s) s
    s1.modPart part (fun p => { p with image := some { img with cores := img.cores.map (fun x => (x.1, x.2.forget id)) } })

/-- A grid's atomics, staged rows and call packets leave a slice. -/
def Cluster.purge (k : Cluster) (id : Nat) : Cluster :=
  { k with
    calls := k.calls.map (fun q => q.filter (fun x => x.grid != id))
    ratoms := k.ratoms.filter (fun a => a.grid != id)
    held := k.held.filter (fun a => a.grid != id)
    staged := k.staged.filter (fun r => r.grid != id) }

/-- A word of host memory. -/
def WordPlace.inHost : WordPlace → Bool
  | .host _ => true
  | _ => false

/-- Everything of a grid is gone, and its node or its parent is told (R94, R349). What its engines have written stands; bytes
already on a host link still arrive (R330). -/
def State.finishRemoval (s : State) (g : Grid) : State :=
  let p := s.part g.part
  let s := s.landWords (fun w => w.grid == g.id && !w.place.inHost)
  let s0 := if g.remSaved then s.purgeImage g.part g.id else s
  let s1 := p.coreList.foldl (fun s c => s.purgeCore g.id c) s0
  let s2 := (p.clusterList.foldl (fun s i => s.modCluster i (fun k => k.purge g.id)) s1).dropGrid g.id
  match g.parent with
  | some _ =>
    let r := s2.fresh
    r.2.endChild g (Config.freeResult r.1) false
  | none => (s2.nodeState g.node g.remState.toNat g.remCode).stopQueue g.queue

/-- REMOVE reads 0 once no grid is being removed; a held pre-emption of an empty partition is over (R348). -/
def State.settlePart (s : State) (part : Nat) : State :=
  let busy := s.grids.any (fun g => g.part == part && g.phase == .removing)
  let empty := s.noGroups (s.part part)
  s.modPart part (fun p => { p with removeReq := p.removeReq && busy, preemptReq := p.preemptReq && !empty })

/-- A removal completes. -/
def execContextRemovalComplete (grid : Nat) (s : State) : Host.Outcome State Fault Refusal :=
  match s.grid? grid with
  | some g => .next (if g.phase == .removing then (s.finishRemoval g).settlePart g.part else s)
  | none => .next s

/-- Every cluster of a partition thaws (R356). -/
def State.thawPart (s : State) (p : Partition) : State := p.clusterList.foldl State.thaw s

/-- The removal of the grids of a partition in the phases `ph` begins. -/
def State.removeAll (s : State) (part : Nat) (ph : List GridPhase) : State :=
  ((s.grids.filter (fun g => g.part == part && ph.contains g.phase)).map (fun g => g.id)).foldl
    (fun s id => s.removeGrid id 5 Causes.contextRemoved) s

/-- A host write removes every grid of the partition, resident or waiting, and ends a freeze (R349, R356). -/
def execRemove (part : Fin 16) (s : State) : Host.Outcome State Fault Refusal :=
  let p := s.part part.val
  .next (if p.opened then
    (((s.thawPart p).removeAll part.val [.hashing, .waiting, .resident]).modPart part.val (fun p =>
      { p with removeReq := true })).settlePart part.val
  else s)

/-! ## Reset and repair (R353, R379, R380) -/

/-- Every grid of a partition is removed and its node told. -/
def State.removeNow (s : State) (part : Nat) : State :=
  let s1 := s.removeAll part [.hashing, .waiting, .resident, .saved]
  (s1.grids.filter (fun g => g.part == part)).foldl (fun s g => s.finishRemoval g) s1

/-- A partition's storage and registers become zero. -/
def State.zeroPart (s : State) (p : Partition) : State :=
  let s1 := p.coreList.foldl (fun s c => s.setCore c Core.reset) s
  p.clusterList.foldl (fun s i => s.modCluster i (fun _ => Cluster.reset)) s1

/-- The cores of a cluster marked failed. -/
def State.failedIn (s : State) (i : Nat) : List Nat := s.failed.filter (fun c => c / 8 == i)

/-- A cluster's repair: its spare takes the number of its one failed core, or the cluster is fenced; the flag says so. -/
def State.repair (s : State) (i : Nat) : State × Bool :=
  match (s.failedIn i).length with
  | 0 => (s, false)
  | 1 =>
    if s.spares.contains i then
      ({ s with failed := s.failed.filter (fun c => c / 8 != i), spares := s.spares.filter (fun k => k != i) }, false)
    else ({ s with fenced := s.fenced ||| (1#32 <<< i) }, true)
  | _ => ({ s with fenced := s.fenced ||| (1#32 <<< i) }, true)

/-- The repair of each cluster; the flag says that one was fenced. -/
def State.repairAll (s : State) (p : Partition) : State × Bool :=
  p.clusterList.foldl (fun (a : State × Bool) i =>
    let r := a.1.repair i
    (r.1, a.2 || r.2)) (s, false)

/-- A partition that is closed: its key is discarded, and its clusters are out of service (R353, R380). -/
def Partition.close (p : Partition) : Partition := { p with opened := false, key := none, first := 0, ncl := 0 }

/-- A host write resets the partition; one that a cluster fenced is then closed. -/
def execReset (part : Fin 16) (s : State) : Host.Outcome State Fault Refusal :=
  let i := part.val
  let p := s.part i
  if !p.opened then .next s
  else
    let s1 := (s.removeNow i).zeroPart p
    let s2 : State := { s1 with coreErrs := Store.clear s1.coreErrs (fun c => p.hasCore c) }
    let r := s2.repairAll p
    .next (r.1.modPart i (fun p =>
      let q := { p with
        phcnt := 0, hasImage := false, image := none, preemptReq := false, removeReq := false, restoreReq := false, held := false,
        apLeaves := [], stragOn := false, strag := 0, stragFired := false, closed := r.2 }
      if r.2 then q.close else q))

end Sys2Proof.Machine
end

