-- ==== Sys2Proof/Machine/Curves.lean ====
section
/-! DEFINITION. The geometry of the coverage unit (R267-R269, R276, R277, R288): records, roots of Bézier coordinates,
and the exact cutting of a piece into sub-curves. A parameter is a whole number of `2 ^ -2048`; a value closer than
`2 ^ -1600` to another is that other, for distinct values lie further apart (log 11). -/

namespace Sys2Proof.Machine

open Sys2Proof

/-- Bits of a parameter. -/
abbrev tBits : Nat := 2048
/-- The parameter 1. -/
def tOne : Int := 2 ^ tBits
/-- How many of a value's bits tell it from another. -/
abbrev tolBits : Nat := 1600

/-! ## Records (R268, R269) -/

/-- A point of a record's word: x in [15:0], y in [31:16], signed. -/
def pointOf (w : Word) : Int × Int := ((w.extractLsb' 0 16).toInt, (w.extractLsb' 16 16).toInt)
/-- The word of a point. -/
def wordOfPoint (p : Int × Int) : Word := BitVec.ofInt 16 p.2 ++ BitVec.ofInt 16 p.1

/-- The kind word of a record. -/
def recKind (r : List Word) : Word := r.getD 2 0
/-- The degree of a record's curve, for a KIND that is not malformed. -/
def recDegree (r : List Word) : Nat := (recKind r).toNat % 4 + 1
/-- The control points. -/
def recPoints (r : List Word) : List (Int × Int) := ((r.drop 3).take (recDegree r + 1)).map pointOf
/-- A malformed record (R269); with `dep`, a curve that is not marked monotone is one. -/
def recMalformed (dep : Bool) (r : List Word) : Bool :=
  let k := recKind r
  k &&& 0xF0FF00E0 != 0 || k.toNat % 4 == 3 || r.getD 7 0 == 0xFFFFFFFF ||
    (((r.take 7).drop (recDegree r + 4)).any (fun w => w != 0)) || (dep && k.toNat % 4 != 0 && !k.getLsbD 4)

/-! ## Polynomials: coefficients of ascending powers -/

/-- No zero leading coefficient but in the constant. -/
def polyTrim (q : List Int) : List Int :=
  match q with
  | [] => [0]
  | c :: t => c :: (t.reverse.dropWhile (fun x => x == 0)).reverse

/-- The power basis of a Bézier coordinate of one to three degrees. -/
def polyOf (c : List Int) : List Int :=
  match c with
  | [a, b] => polyTrim [a, b - a]
  | [a, b, d] => polyTrim [a, 2 * (b - a), a - 2 * b + d]
  | [a, b, d, e] => polyTrim [a, 3 * (b - a), 3 * (a - 2 * b + d), e - 3 * d + 3 * b - a]
  | _ => [0]

/-- The derivative. -/
def polyDeriv (q : List Int) : List Int := (List.range (q.length - 1)).map (fun i => (i + 1 : Nat) * q.getD (i + 1) 0)

/-- A polynomial at a parameter, scaled by `2 ^ tBits` to its degree. -/
def polyAt (q : List Int) (t : Int) : Int := (q.reverse.foldl (fun (a : Int × Int) c => (a.1 * t + c * a.2, a.2 * tOne)) (0, 1)).1

/-- A value of `polyAt` that stands for zero. -/
def polyNear (q : List Int) (v : Int) : Bool := decide (v.natAbs * 2 ^ tolBits < 2 ^ (tBits * (q.length - 1)))

/-- Bisection between two parameters of opposite signs; `neg` is whether the lower one is negative. -/
def bisect (q : List Int) (neg : Bool) : Nat → Int → Int → Int
  | 0, lo, _ => lo
  | n + 1, lo, hi =>
    if hi - lo ≤ 1 then lo
    else
      let m := (lo + hi) / 2
      let v := polyAt q m
      if v = 0 then m else if decide (v < 0) == neg then bisect q neg n m hi else bisect q neg n lo m

/-- The roots in the open unit interval, given parameters between which the polynomial is monotone. -/
def rootsBetween (q : List Int) : List Int → List Int
  | lo :: hi :: t =>
    let a := polyAt q lo
    let b := polyAt q hi
    let touch := if decide (0 < lo) && polyNear q a then [lo] else []
    let cross := if decide (a * b < 0) then [bisect q (decide (a < 0)) (tBits + 1) lo hi] else []
    touch ++ cross ++ rootsBetween q (hi :: t)
  | _ => []

/-- The root of a linear polynomial in the open unit interval. -/
def linearRoot (a b : Int) : List Int :=
  let p := if b < 0 then a else -a
  if 0 < p && decide (p < b.natAbs) then [p * tOne / b.natAbs] else []

/-- The roots of a polynomial in the open unit interval, each at least once. -/
def polyRoots : Nat → List Int → List Int
  | 0, _ => []
  | n + 1, q =>
    match q with
    | [a, b] => linearRoot a b
    | _ => if q.length < 2 then [] else rootsBetween q (0 :: (polyRoots n (polyTrim (polyDeriv q)) ++ [tOne]))

/-- The turning points of a coordinate: where its derivative is zero. -/
def turning (q : List Int) : List Int := if q.length < 2 then [] else polyRoots 3 (polyTrim (polyDeriv q))

/-- The parameters at which a coordinate that is not constant has one of some values. -/
def rootsAt (q : List Int) (vals : List Int) : List (Int × Int) :=
  if q.length < 2 then []
  else
    let cuts := 0 :: (turning q ++ [tOne])
    vals.flatMap (fun v =>
      let p := (q.getD 0 0 - v) :: q.drop 1
      (match p with
        | [a, b] => linearRoot a b
        | _ => rootsBetween p cuts).map (fun t => (t, v)))

/-! ## Cutting (R276) -/

/-- A knot inside a piece, with the coordinates that a line gives exactly. -/
structure Knot where
  t : Int
  x : Option Int
  y : Option Int
deriving DecidableEq, Repr

/-- Two parameters that are one value. -/
def sameT (a b : Int) : Bool := decide ((a - b).natAbs * 2 ^ tolBits < 2 ^ tBits)

/-- Knots in ascending order, each value once. -/
def mergeKnots (l : List Knot) : List Knot :=
  (sortBy (fun a b => decide (a.t ≤ b.t)) l).foldl (fun acc k =>
    match acc.getLast? with
    | some p =>
      if sameT p.t k.t then acc.dropLast ++ [{ p with x := p.x.or k.x, y := p.y.or k.y }] else acc ++ [k]
    | none => [k]) []

/-- De Casteljau with one parameter a level, scaled by `2 ^ tBits` to the number of levels. -/
def blossom (cs ts : List Int) : Int :=
  (ts.foldl (fun l t => (l.zip (l.drop 1)).map (fun p => p.1 * tOne + t * (p.2 - p.1))) cs).headD 0

/-- A scaled value rounded to an integer, ties to even (R276). -/
def roundAt (n : Nat) (v : Int) : Int :=
  let d : Int := 2 ^ (tBits * n)
  let f := v / d
  let r := v % d
  if (2 * r - d).natAbs * 2 ^ tolBits < d.natAbs then f + f % 2 else if d < 2 * r then f + 1 else f

/-- A sub-curve: its points, and its exact middle point rounded down to a device unit. -/
structure SubCurve where
  pts : List (Int × Int)
  mx : Int
  my : Int
deriving DecidableEq, Repr

/-- The sub-curves of a piece cut at knots. -/
def cutAt (pts : List (Int × Int)) (knots : List Knot) : List SubCurve :=
  let n := pts.length - 1
  let xs := pts.map (fun p => p.1)
  let ys := pts.map (fun p => p.2)
  let inner := knots.map (fun k =>
    let ts := List.replicate n k.t
    (k.x.getD (roundAt n (blossom xs ts)), k.y.getD (roundAt n (blossom ys ts))))
  let ends := pts.headD (0, 0) :: (inner ++ [pts.getLastD (0, 0)])
  let ts := 0 :: (knots.map (fun k => k.t) ++ [tOne])
  (List.range (knots.length + 1)).map (fun i =>
    let a := ts.getD i 0
    let b := ts.getD (i + 1) 0
    let ctl := (List.range (n - 1)).map (fun j =>
      let tt := List.replicate (n - 1 - j) a ++ List.replicate (j + 1) b
      (roundAt n (blossom xs tt), roundAt n (blossom ys tt)))
    let mid := List.replicate n ((a + b) / 2)
    let d : Int := 2 ^ (tBits * n)
    { pts := ends.getD i (0, 0) :: (ctl ++ [ends.getD (i + 1) (0, 0)])
      mx := blossom xs mid / d
      my := blossom ys mid / d })

/-- Cutting a piece along vertical and horizontal lines. -/
def cutLines (pts : List (Int × Int)) (xl yl : List Int) : List SubCurve :=
  let kx := (rootsAt (polyOf (pts.map (fun p => p.1))) xl).map (fun r => ({ t := r.1, x := some r.2, y := none } : Knot))
  let ky := (rootsAt (polyOf (pts.map (fun p => p.2))) yl).map (fun r => ({ t := r.1, x := none, y := some r.2 } : Knot))
  cutAt pts (mergeKnots (kx ++ ky))

/-- The lines of a tile's pixels. -/
def tileLines : List Int := (List.range 17).map (fun i => (256 * i : Nat))

/-- The monotone pieces of a record (R288); a piece of one point is dropped. -/
def monoPieces (pts : List (Int × Int)) : List (List (Int × Int)) :=
  let ts := turning (polyOf (pts.map (fun p => p.1))) ++ turning (polyOf (pts.map (fun p => p.2)))
  ((cutAt pts (mergeKnots (ts.map (fun t => { t := t, x := none, y := none })))).map (fun c => c.pts)).filter
    (fun l => l.any (fun p => p != l.headD (0, 0)))

/-- area60 of a sub-curve (R277). -/
def area60 (pts : List (Int × Int)) : Int :=
  let x := fun i => (pts.getD i (0, 0)).1
  let dy := fun i => (pts.getD (i + 1) (0, 0)).2 - (pts.getD i (0, 0)).2
  match pts.length with
  | 2 => 30 * (x 0 + x 1) * dy 0
  | 3 => dy 0 * (30 * x 0 + 20 * x 1 + 10 * x 2) + dy 1 * (10 * x 0 + 20 * x 1 + 30 * x 2)
  | 4 => dy 0 * (30 * x 0 + 18 * x 1 + 9 * x 2 + 3 * x 3) + dy 1 * (12 * x 0 + 18 * x 1 + 18 * x 2 + 12 * x 3) +
      dy 2 * (3 * x 0 + 9 * x 1 + 18 * x 2 + 30 * x 3)
  | _ => 0

/-- The rise of a sub-curve. -/
def SubCurve.dy (c : SubCurve) : Int := (c.pts.getLastD (0, 0)).2 - (c.pts.headD (0, 0)).2

end Sys2Proof.Machine
end

