-- ==== Sys2Proof/Machine/Coverage.lean ====
section
/-! DEFINITION. Row 0x9: the coverage unit (R272-R300). A word is checked at issue against the state that the commands
queued before it will leave (log 30), and acts at the event that executes it; a move of the agenda may make its words visible
one by one before (R274, log 12). -/

namespace Sys2Proof.Machine

open Sys2Proof

/-! ## The tile state block (R273) -/

abbrev bAw : Nat := 0x40
abbrev bCw : Nat := 0x440
abbrev bTag : Nat := 0x840
abbrev bCov : Nat := 0xC40
abbrev bTmask : Nat := 0xE40
abbrev bColour : Nat := 0xE80
abbrev bClip : Nat := 0x1680

/-- The header word at +0x08. -/
def tileHdr (m : Memory) (b : Nat) : Word := Memory.word m (b + 8)
def tileSeq (m : Memory) (b : Nat) : Word := Memory.word m (b + 4)
def tileId (m : Memory) (b : Nat) : Word := Memory.word m b
def hdrPath (h : Word) : Bool := h.getLsbD 0
def hdrRef (h : Word) : Bool := h.getLsbD 2
def hdrNsel (h : Word) : Nat := (h.extractLsb' 3 5).toNat
def hdrCdep (h : Word) : Nat := (h.extractLsb' 8 4).toNat
def hdrTang (h : Word) : Nat := (h.extractLsb' 16 9).toNat
/-- A header word from its fields. -/
def hdrOf (path ref : Bool) (nsel cdep tang : Nat) : Word :=
  BitVec.ofNat 32 ((if path then 1 else 0) + (if ref then 4 else 0) + 8 * nsel + 256 * cdep + 65536 * tang)

/-- A header with a reserved field set, or a count out of range (R274, R295). The header is the bytes +0x00 to +0x3F: the reserved bytes
+0x0E60 to +0x0E7F and +0x2680 to +0x27FF are not looked at. R273 and R295 do not bound the header, and this is the model's choice
(log 74). -/
def tileMalformed (m : Memory) (b : Nat) : Bool :=
  let h := tileHdr m b
  h &&& 0xFE00F002 != 0 || Memory.word m (b + 0xC) != 0 || (Memory.bytes m (b + 0x20) 0x20).any (fun x => x != 0) ||
    decide (8 < hdrCdep h) || decide (16 < hdrNsel h) || decide (256 < hdrTang h)

/-- Storing a number of `n` bytes. -/
def put (n : Nat) (m : Memory) (a v : Nat) : Memory := Memory.store m a (leBytes n v)
/-- Storing the header word. -/
def putHdr (m : Memory) (b : Nat) (h : Word) : Memory := put 4 m (b + 8) h.toNat
/-- Clearing bytes. -/
def wipe (m : Memory) (lo hi : Nat) : Memory := Store.clear m (fun a => decide (lo ≤ a) && decide (a < hi))
/-- TAG of every pixel all ones. -/
def freshTags (m : Memory) (b : Nat) : Memory := Memory.store m (b + bTag) (List.replicate 1024 0xFF)

/-- A tile's block at its reset values (R273, R287). -/
def tileReset (m : Memory) (b : Nat) (tile : Word) : Memory :=
  put 4 (freshTags (wipe m b (b + tileBytes)) b) b tile.toNat

/-- A path begins (R287): CDEP, the clip levels and COLOUR are kept. -/
def pathReset (m : Memory) (b : Nat) (seq : Word) : Memory :=
  let h := tileHdr m b
  putHdr (put 4 (freshTags (wipe m (b + bAw) (b + 0xE60)) b) (b + 4) seq.toNat) b (hdrOf true false 0 (hdrCdep h) 0)

/-! ## Deposits (R276, R279, R282) -/

/-- Adding to a word, modulo 2³². -/
def addWord (m : Memory) (a : Nat) (v : Int) : Memory := put 4 m a (Memory.word m a + BitVec.ofInt 32 v).toNat

/-- Tagging a pixel: the block, and how many pixels became tangled. -/
def tagPixel (m : Memory) (b p : Nat) (chain : Word) : Memory × Nat :=
  let t := Memory.word m (b + bTag + 4 * p)
  if t = 0xFFFFFFFF then (put 4 m (b + bTag + 4 * p) chain.toNat, 0)
  else if t = chain then (m, 0)
  else
    let a := b + bTmask + p / 8
    let byte := Store.read m a
    if byte.getLsbD (p % 8) then (m, 0)
    else
      let h := tileHdr m b
      (putHdr (Store.write m a (byte ||| (1#8 <<< (p % 8)))) b
        (hdrOf (hdrPath h) (hdrRef h) (hdrNsel h) (hdrCdep h) (hdrTang h + 1)), 1)

/-- A sub-curve in tile mode. -/
def depositTile (b : Nat) (chain : Word) (a : Memory × Nat) (c : SubCurve) : Memory × Nat :=
  let col := c.mx / 256
  let row := c.my / 256
  let v := 15360 * c.dy
  if row < 0 || 15 < row || 15 < col then a
  else if col < 0 then
    let p := 16 * row.toNat
    (addWord (addWord a.1 (b + bAw + 4 * p) v) (b + bCw + 4 * p) v, a.2)
  else
    let p := 16 * row.toNat + col.toNat
    let m := addWord (addWord a.1 (b + bAw + 4 * p) ((col + 1) * v - area60 c.pts)) (b + bCw + 4 * p) v
    let t := tagPixel m b p chain
    (t.1, a.2 + t.2)

/-- The pixels selected for refinement. -/
def selected (m : Memory) (b : Nat) : List Nat :=
  (List.range (hdrNsel (tileHdr m b))).map (fun i => (Store.read m (b + 0x10 + i)).toNat)

/-- A sub-curve in refine mode (R282). -/
def depositRefine (b : Nat) (sel : List Nat) (m : Memory) (c : SubCurve) : Memory :=
  (List.range sel.length).foldl (fun m i =>
    let p := sel.getD i 0
    let x : Int := (p % 16 : Nat)
    let y : Int := (p / 16 : Nat)
    let s := (c.my - 256 * y) / 16
    if c.my < 256 * y || 15 < s || 256 * (x + 1) ≤ c.mx then m
    else
      let v := if c.mx < 256 * x then 15360 * c.dy else 15360 * (x + 1) * c.dy - area60 c.pts
      addWord m (b + bAw + 4 * (16 * i + s.toNat)) v) m

/-- The sub-curves of a piece: cut at the tile's pixels, or at the strips of the selected ones (R276, R282). -/
def tileSubs (m : Memory) (b : Nat) (pts : List (Int × Int)) : List SubCurve :=
  if hdrRef (tileHdr m b) then
    let sel := selected m b
    let xs := sel.flatMap (fun p => [(256 * (p % 16 : Nat) : Int), 256 * (p % 16 + 1 : Nat)])
    let ys := sel.flatMap (fun p => (List.range 17).map (fun j => ((256 * (p / 16) + 16 * j : Nat) : Int)))
    cutLines pts xs.eraseDups ys.eraseDups
  else cutLines pts tileLines tileLines

/-- Workers deposit the sub-curves from `first` on: the block, and how many pixels became tangled. -/
def deposit (m : Memory) (b : Nat) (r : List Word) (first workers : Nat) : Memory × Nat :=
  let subs := ((tileSubs m b (recPoints r)).drop first).take workers
  if hdrRef (tileHdr m b) then (subs.foldl (depositRefine b (selected m b)) m, 0)
  else subs.foldl (depositTile b (r.getD 7 0)) (m, 0)

/-! ## Scan, refinement, clipping (R281-R283, R291) -/

/-- `round_rne` of a non-negative fraction of naturals. -/
def rneDiv (n d : Nat) : Nat := rneInt { num := n, den := d }

/-- The coverage fraction of a winding integral: a numerator over `f`. -/
def coverNum (eo : Bool) (f : Nat) (p : Word) : Nat :=
  let g := p.toInt.natAbs
  if eo then (let r := g % (2 * f); if r ≤ f then r else 2 * f - r) else min f g

/-- The scan of every pixel. -/
def scanTile (m : Memory) (b : Nat) (eo : Bool) : Memory :=
  (List.range 16).foldl (fun m y =>
    ((List.range 16).foldl (fun (a : Memory × Word) x =>
      let p := 16 * y + x
      let v := Memory.word m (b + bAw + 4 * p) + a.2
      (put 2 a.1 (b + bCov + 2 * p) (rneDiv (65535 * coverNum eo 3932160 v) 3932160),
        a.2 + Memory.word m (b + bCw + 4 * p))) (m, 0)).1) m

/-- The scan of the selected pixels. TANG less NSEL stops at 0, to which R282 gives no value where an exchange write (R274) has left TANG
below NSEL: the model's choice (log 74). -/
def scanRefined (m : Memory) (b : Nat) (eo : Bool) : Memory :=
  let h := tileHdr m b
  let sel := selected m b
  let m1 := (List.range sel.length).foldl (fun m' i =>
    let p := sel.getD i 0
    let sum := (List.range 16).foldl (fun n s => n + coverNum eo 245760 (Memory.word m (b + bAw + 4 * (16 * i + s)))) 0
    let m2 := put 2 m' (b + bCov + 2 * p) (rneDiv (65535 * sum) (16 * 245760))
    let a := b + bTmask + p / 8
    Store.write m2 a (Store.read m2 a &&& ~~~(1#8 <<< (p % 8)))) m
  putHdr m1 b (hdrOf (hdrPath h) false 0 (hdrCdep h) (hdrTang h - sel.length))

/-- `cvscan` (R290). -/
def scan (m : Memory) (b : Nat) (eo : Bool) : Memory :=
  if hdrRef (tileHdr m b) then scanRefined m b eo else scanTile m b eo

/-- `cvrefine`: the block and NSEL (R291). REF is set where a pixel was selected, and is never cleared here. -/
def refine (m : Memory) (b : Nat) : Memory × Nat :=
  let h := tileHdr m b
  let sel := ((List.range 256).filter (fun p => (Store.read m (b + bTmask + p / 8)).getLsbD (p % 8))).take 16
  let m1 := Memory.store (wipe m (b + bAw) (b + bTag)) (b + 0x10) (sel.map (fun p => BitVec.ofNat 8 p))
  (putHdr m1 b (hdrOf (hdrPath h) (hdrRef h || decide (0 < sel.length)) sel.length (hdrCdep h) (hdrTang h)), sel.length)

/-- COV of a pixel. -/
def covOf (m : Memory) (b p : Nat) : Nat := Memory.nat m (b + bCov + 2 * p) 2
/-- The top of the clip stack at a pixel (R283). -/
def clipTop (m : Memory) (b p : Nat) : Nat :=
  let d := hdrCdep (tileHdr m b)
  if d = 0 then 65535 else Memory.nat m (b + bClip + 0x200 * (d - 1) + 2 * p) 2
/-- The span value of a pixel. -/
def spanVal (m : Memory) (b p : Nat) : Nat := rneDiv (covOf m b p * clipTop m b p) 65535

/-- A push of the current coverage. -/
def clipPush (m : Memory) (b : Nat) : Memory :=
  let h := tileHdr m b
  let d := hdrCdep h
  let m1 := (List.range 256).foldl (fun m' p => put 2 m' (b + bClip + 0x200 * d + 2 * p) (spanVal m b p)) m
  putHdr m1 b (hdrOf (hdrPath h) (hdrRef h) (hdrNsel h) (d + 1) (hdrTang h))
/-- A pop. -/
def clipPop (m : Memory) (b : Nat) : Memory :=
  let h := tileHdr m b
  putHdr m b (hdrOf (hdrPath h) (hdrRef h) (hdrNsel h) (hdrCdep h - 1) (hdrTang h))

/-! ## Spans (R293) -/

/-- Pixel `i` of a quad. -/
def quadPixel (q i : Nat) : Nat := 16 * (2 * (q / 8) + i / 2) + 2 * (q % 8) + i % 2
/-- The covered quads from one on. -/
def coveredQuads (m : Memory) (b first : Nat) : List Nat :=
  (List.range 64).filter (fun q => decide (first ≤ q) && (List.range 4).any (fun i => spanVal m b (quadPixel q i) != 0))
/-- The quartets that take part. -/
def quartets (live : LaneMask) : List Nat := (List.range 8).filter (fun j => (live >>> (4 * j)) &&& 0xF == 0xF)
/-- The span word of a lane. -/
def spanWord (m : Memory) (b : Nat) (hand : List (Nat × Nat)) (l : Nat) : Word :=
  match hand.find? (fun x => x.1 == l / 4) with
  | some x => BitVec.ofNat 32 (65536 * quadPixel x.2 (l % 4) + spanVal m b (quadPixel x.2 (l % 4)))
  | none => 0x80000000

/-! ## Blending (R294) -/

/-- An extended real: a NaN, an infinity, or a fraction. -/
inductive Ext where
  | nan
  | inf (neg : Bool)
  | num (q : Q)
deriving DecidableEq, Repr

def Ext.ofHalf (x : Nat) : Ext :=
  match fp16.value false x with
  | .nan _ => .nan
  | .inf n => .inf n
  | .num n q => .num (signed n q)
def Ext.neg : Ext → Ext
  | .nan => .nan
  | .inf n => .inf (!n)
  | .num q => .num q.neg
def Ext.add (a b : Ext) : Ext :=
  match a, b with
  | .nan, _ => .nan
  | _, .nan => .nan
  | .inf x, .inf y => if x == y then .inf x else .nan
  | .inf x, .num _ => .inf x
  | .num _, .inf y => .inf y
  | .num p, .num q => .num (p.add q)
def Ext.mul (a b : Ext) : Ext :=
  match a, b with
  | .nan, _ => .nan
  | _, .nan => .nan
  | .inf x, .inf y => .inf (x != y)
  | .inf x, .num q => if q.isZero then .nan else .inf (x != q.isNeg)
  | .num p, .inf y => if p.isZero then .nan else .inf (p.isNeg != y)
  | .num p, .num q => .num (p.mul q)
/-- The lesser of 1 and a value. -/
def Ext.min1 : Ext → Ext
  | .nan => .nan
  | .inf n => if n then .inf true else .num (Q.ofInt 1)
  | .num q => if q.lt (Q.ofInt 1) then .num q else .num (Q.ofInt 1)
/-- `1 − x`. -/
def Ext.co (x : Ext) : Ext := (Ext.num (Q.ofInt 1)).add x.neg
/-- The FP16 pattern of a value; an exact zero is +0 (log 28). -/
def Ext.half : Ext → Nat
  | .nan => 0x7E00
  | .inf n => fp16.mk' n fp16.infCode
  | .num q => (fp16.round FpMode.plain false q).1

/-- A channel's operator. -/
def blendOp (op : BlendOp) (s d sa da : Ext) : Ext :=
  match op with
  | .over => s.add (sa.co.mul d)
  | .src => s
  | .dover => d.add (da.co.mul s)
  | .inn => s.mul da
  | .out => s.mul da.co
  | .atop => (s.mul da).add (d.mul sa.co)
  | .xor => (s.mul da.co).add (d.mul sa.co)
  | .plus => (s.add d).min1

/-- Blending one lane's pixel: the span word and the two colour words. -/
def blendPixel (op : BlendOp) (b : Nat) (m : Memory) (x : Word × Word × Word) : Memory :=
  let c : Q := { num := (x.1.extractLsb' 0 16).toNat, den := 65535 }
  let a := b + bColour + 8 * (x.1.extractLsb' 16 8).toNat
  let src := [x.2.1.extractLsb' 0 16, x.2.1.extractLsb' 16 16, x.2.2.extractLsb' 0 16, x.2.2.extractLsb' 16 16].map
    (fun h => Ext.ofHalf h.toNat)
  let dst := (List.range 4).map (fun i => Ext.ofHalf (Memory.nat m (a + 2 * i) 2))
  let at' := fun (l : List Ext) i => l.getD i .nan
  (List.range 4).foldl (fun m i =>
    let r := ((Ext.num c).mul (blendOp op (at' src i) (at' dst i) (at' src 3) (at' dst 3))).add
      ((Ext.num c).co.mul (at' dst i))
    put 2 m (a + 2 * i) r.half) m

/-! ## Executing a command -/

/-- The block of an open context. -/
def Core.tile (k : Core) (tc : Nat) : Option Nat := (k.ctxs.getD tc none).map (fun t => t.block)
/-- Opening or closing a context. -/
def Core.setTile (k : Core) (tc : Nat) (t : Option TileCtx) : Core := { k with ctxs := k.ctxs.set tc t }
/-- Changing a core's scratchpad. -/
def State.modSp (s : State) (c : Nat) (f : Memory → Memory) : State := s.modCore c (fun k => k.modSp f)

/-- A scalar result, or none for `c0`. -/
def covScalar (d : Option Nat) (v : Word) : List (Nat × Word) := d.toList.map (fun n => (n, v))

/-- The helper mask of the group that issued a command, at the level it was issued at (R293). A mask of a level that
has been left stays with that level's saved state. -/
def State.setHelper (s : State) (c : Nat) (x : CovCmd) (m : LaneMask) : State :=
  s.modOwner c x.slot x.uid (fun g =>
    if x.atH = g.atH then { g with helper := m &&& g.live }
    else if g.atH then { g with frame := { g.frame with helper := m } } else g)

/-- The words of a team's open contexts (R296). -/
def Core.openMask (k : Core) (j : Nat) : Word :=
  BitVec.ofNat 32 ((List.range 4).foldl (fun n i =>
    if (k.ctxs.getD i none).any (fun t => t.team == j) then n + 2 ^ i else n) 0)

/-- What a coverage command leaves to be done at its end: the results it returns, the helper mask it sets, and whether it ended
without a fault. -/
def covOut (sdata : List (Nat × Word)) : Begun := { engine := .coverage, ok := true, vdata := [], sdata := sdata, helper := none }
/-- A mask that ends (R293). -/
def Begun.clearing (b : Begun) : Begun := { b with helper := some 0 }
/-- A tile fault (R295). -/
def Begun.failing (b : Begun) : Begun := { b with ok := false }

/-- A command's effect on its tile, and what it leaves to be done. A command whose context is not open has none and returns
zeros. One that closes its context does so at its end: until then the block stays protected (R274, R295). The token of a `cvspan`
in which no quartet takes part, and which hands out no quad, is the first covered quad from A on, to which R293 gives no value: the
model's choice (log 74). -/
def State.runCov (s : State) (c : Nat) (x : CovCmd) : State × Begun :=
  let k := s.core c
  let out := fun (d : Option Nat) (v : Nat) => covOut (covScalar d (BitVec.ofNat 32 v))
  let on := fun (d : Option Nat) (f : Nat → State × Begun) => match k.tile x.tc with
    | some b => f b
    | none => (s, out d 0)
  match x.kind with
  | .begTile b tile =>
    ((s.modCore c (fun k => k.setTile x.tc (some { team := x.team, block := b }))).modSp c (fun m => tileReset m b tile),
      (out none 0).clearing)
  | .begPath seq => on none (fun b => (s.modSp c (fun m => pathReset m b seq), (out none 0).clearing))
  | .dep r first workers d => on d (fun b =>
      let o := deposit k.sp b r first workers
      let next := first + workers
      let more := decide (next < (tileSubs k.sp b (recPoints r)).length)
      ((s.modSp c (fun _ => o.1)).modCore c (fun k => { k with tangc := BitVec.ofNat 16 (min 0xFFFF (k.tangc.toNat + o.2)) }),
        out d (if more then next else 0)))
  | .scan eo => on none (fun b => (s.modSp c (fun m => scan m b eo), out none 0))
  | .refine d => on d (fun b =>
      let r := refine k.sp b
      (s.modSp c (fun _ => r.1), out d r.2))
  | .push => on none (fun b => (s.modSp c (fun m => clipPush m b), out none 0))
  | .pop => on none (fun b => (s.modSp c (fun m => clipPop m b), out none 0))
  | .span d first live tok => on tok (fun b =>
      let qs := coveredQuads k.sp b first
      let ts := quartets live
      let w := spanWord k.sp b (ts.zip qs)
      (s, { out tok (qs.getD ts.length 0) with
        vdata := (LaneMask.toList live).map (fun l => (d, l, w l))
        helper := some (LaneMask.ofFn (fun l => (w l).extractLsb' 0 16 == 0)) }))
  | .blend op px => on none (fun b => (s.modSp c (fun m => px.foldl (blendPixel op b) m), out none 0))
  | .save off d => on d (fun b =>
      let r := s.engineWrite c x.team .vt off (Memory.bytes k.sp b tileBytes) false
      (r.1, if r.2 then (out d 0).clearing else (out d 1).clearing.failing))
  | .load off b d =>
    let r := s.engineRead .coverage c x.team .vt off (tileBytes / 4)
    let s1 := r.1.modSp c (fun m => Memory.store m b r.2)
    if r.2.length = tileBytes && !tileMalformed (s1.core c).sp b then
      (s1.modCore c (fun k => k.setTile x.tc (some { team := x.team, block := b })), out d 0)
    else (s1, (out d 1).failing)
  | .query sel d =>
    match sel with
    | .recd =>
      match k.recq with
      | [] => (s, covOut [(d, 0xFFFFFFFF), (d + 1, 0xFFFFFFFF)])
      | r :: t => (s.modCore c (fun k => { k with recq := t }), covOut [(d, r.2.1), (d + 1, r.2.2)])
    | .openMask => (s, covOut [(d, k.openMask x.team)])
    | .tang => on (some d) (fun b => (s, out (some d) (hdrTang (tileHdr k.sp b))))
    | .clip => on (some d) (fun b => (s, out (some d) (hdrCdep (tileHdr k.sp b))))
    | .seq => on (some d) (fun b =>
        (s, out (some d) (if hdrPath (tileHdr k.sp b) then (tileSeq k.sp b).toNat else 0xFFFFFFFF)))
  | .close d => (s, (out d 0).clearing)

/-- A command that closes its context when it ends without a fault (R295, R298). -/
def CovKind.closes : CovKind → Bool
  | .save _ _ | .close _ => true
  | _ => false

/-- The end of a command: its context closes where it closes one, its results return, its helper mask is set, and a tile fault is
due. -/
def State.endCov (s : State) (c : Nat) (x : CovCmd) (b : Begun) : State :=
  let s := if x.kind.closes && b.ok then s.modCore c (fun k => k.setTile x.tc none) else s
  let s1 := (s.fillFlight c x.slot x.inflight (fun f => { f with vdata := b.vdata, sdata := b.sdata, ready := true })).deliver c
    x.slot x.inflight
  let s2 := if b.ok then s1 else s1.dueOwner c x.slot x.uid Causes.tileFault 0
  b.helper.elim s2 (s2.setHelper c x)

/-- A command takes effect, or what of it is not done. -/
def State.stepCov (s : State) (c : Nat) (x : CovCmd) : State :=
  let r := match (s.core c).begunBy .coverage with
    | some b => (s.landCmd x.acqId, b)
    | none => (s.acquire c x.slot x.acq x.acqId).runCov c x
  (r.1.endCov c x r.2).modCore c (fun k => k.endHead .coverage)

/-- Whether a command can execute: a `cvq.rec` waits for a record while a run is in progress (R297). -/
def Core.covReady (k : Core) (x : CovCmd) : Bool :=
  match x.kind with
  | .query .recd _ => !k.recq.isEmpty || k.run.isNone
  | _ => true

/-- The command at the queue's head begins (R274). -/
def State.beginCov (s : State) (c : Nat) : State :=
  let k := s.core c
  match k.cq with
  | [] => s
  | x :: _ =>
    if k.covReady x && (k.begunBy .coverage).isNone then
      let s1 := s.acquire c x.slot x.acq x.acqId
      let r := s1.runCov c x
      s1.beginHead r.1 c (lateTag x.acqId (s.teamGrid c x.team) x.uid [] false) r.2
    else s

/-- The unit executes the command at its queue's head. -/
def execCoverageCommandExecute (core : Fin 256) (s : State) : Host.Outcome State Fault Refusal :=
  let c := core.val
  match (s.core c).cq with
  | [] => .next s
  | x :: t =>
    if (s.core c).covReady x then
      .next (((s.stepCov c x).modCore c (fun k => { k with cq := t })).tryEndTeam c x.team)
    else .next s

/-! ## Checks at issue (R286) -/

/-- The core as the queued commands will leave it. -/
def Env.ahead (e : Env) (s : State) : Core :=
  { ((s.core e.core).cq.foldl (fun s x => s.stepCov e.core x) s).core e.core with cq := [] }

/-- The helper mask that the queued commands will leave the issuing group. -/
def Env.helperAhead (e : Env) (k : Core) : LaneMask := ((k.group e.slot).map (fun g => g.helper)).getD e.g.helper

/-- An open context of the issuing team: its block. -/
def Env.openTile (e : Env) (k : Core) (tc : Fin 4) : Except Trap Nat :=
  match k.ctxs.getD tc.val none with
  | none => .error (trapOf Causes.tileState)
  | some t =>
    if t.team != e.g.team then .error (trapOf Causes.tileOwner)
    else if tileMalformed k.sp t.block then .error (trapOf Causes.tileState)
    else .ok t.block

/-- A closed context. -/
def Env.closedTile (e : Env) (k : Core) (tc : Fin 4) : Except Trap Unit :=
  match k.ctxs.getD tc.val none with
  | none => .ok ()
  | some t => .error (trapOf (if t.team != e.g.team then Causes.tileOwner else Causes.tileState))

/-- An open context on a path that has begun. -/
def Env.onPath (e : Env) (k : Core) (tc : Fin 4) : Except Trap Nat := do
  let b ← e.openTile k tc
  trapIf (!hdrPath (tileHdr k.sp b)) Causes.tileState
  .ok b

/-- The placing of a block (R272): its core scratchpad offset. -/
def Env.placeTile (e : Env) (k : Core) (off : Nat) : Except Trap Nat := do
  let b := e.t.spb + off
  trapIf (off % 256 != 0 || decide (e.t.scratch < off + tileBytes) || k.meetsTile b tileBytes) Causes.tileState
  .ok b

/-- A vault range of a tile (R295). -/
def Env.tileSpan (e : Env) (off : Nat) : Except Trap Unit := do
  trapIf (off % 256 != 0) Causes.misalignedAccess
  trapIf (decide (e.t.vault < off + tileBytes)) Causes.vaultRange

/-- A scalar destination's number; none for `c0`. -/
def scalarOf (r : Reg) : Option Nat :=
  match r with
  | .s n => some n.val
  | _ => none

/-- A command enters the queue, its results pending. -/
def Env.pushCov (e : Env) (tc : Fin 4) (kind : CovKind) (acq : Bool) (vregs sregs : List Nat) (s : State) : State :=
  let id := s.nextId
  let s1 := if vregs.isEmpty && sregs.isEmpty then s
    else s.addInflight e.core e.slot (fun id =>
      { id := id, kind := .coverage, vregs := vregs, sregs := sregs, vdata := [], sdata := [], flags := 0, ready := false })
  { (s1.modCore e.core (fun k => { k with cq := k.cq ++ [{
      slot := e.slot, uid := e.g.uid, team := e.g.team, atH := e.g.atH, tc := tc.val, kind := kind, inflight := id, acq := acq,
      acqId := id }] })) with nextId := id + 1 }

/-- A command with at most a scalar result. -/
def Env.pushS (e : Env) (tc : Fin 4) (kind : CovKind) (d : Option Nat) (s : State) : Except Trap Eff :=
  .ok (.done (e.pushCov tc kind false [] d.toList s))

/-- A record's eight words. -/
def Env.record (e : Env) (a : Reg) : List Word := (List.range 8).map (fun j => e.sc (regPlus a j))

/-! ## The words (R287-R298) -/

/-- The tile form of `cvbeg` (R287). -/
def execCvbegTile (g : Guard) (a b : Reg) (tc : Fin 4) (s : State) :=
  runGroup (engineForm g [] [a, b]) (fun e s => do
    let k := e.ahead s
    e.closedTile k tc
    let blk ← e.placeTile k (e.sc a).toNat
    e.pushS tc (.begTile blk (e.sc b)) none s) s

/-- The path form of `cvbeg` (R287). -/
def execCvbegPath (g : Guard) (a : Reg) (tc : Fin 4) (s : State) :=
  runGroup (engineForm g [] [a]) (fun e s => do
    let k := e.ahead s
    let b ← e.openTile k tc
    trapIf (hdrPath (tileHdr k.sp b) && decide ((e.sc a).toNat ≤ (tileSeq k.sp b).toNat)) Causes.pathOrder
    e.pushS tc (.begPath (e.sc a)) none s) s

/-- The registers that `cvmono` writes lie below the affine registers (R284). -/
def monoRoom (d : Reg) (e : Env) : Option Trap :=
  if decide (e.affBase 0 < e.vnum d 0 + 5) then some (trapOf Causes.reservedRegister) else none

/-- The words of piece `k` of `n`, or of a lane past the last. -/
def monoWords (r : List Word) (ps : List (List (Int × Int))) (l : Nat) : List Word :=
  let n := ps.length
  match ps[l]? with
  | some p =>
    let kw := (recKind r &&& 0xF0FF00EF) ||| BitVec.ofNat 32 (0x10 + 256 * l + 2 ^ 24 * n)
    kw :: (List.range 4).map (fun j => (p[j]?.map wordOfPoint).getD 0)
  | none => [BitVec.ofNat 32 (2 ^ 24 * n), 0, 0, 0, 0]

/-- `cvmono` (R288), on the transform pipe. -/
def execCvmono (g : Guard) (d a : Reg) (s : State) :=
  runGroup { engineForm g [(d, 5)] [] with srcs := [(a, 8)], pre := monoRoom d } (fun e s => do
    let r := e.record a
    trapIf (recMalformed false r) Causes.coverageForm
    if 4 ≤ (e.k.pipe (e.slot / 4)).length then .ok (.hold (e.waitFor .stalled s))
    else
      let ps := monoPieces (recPoints r)
      .ok (.done (e.queueTransform (d, 5) ((List.range 32).flatMap (fun l =>
        (List.range 5).map (fun j => (e.vnum d l + j, l, (monoWords r ps l).getD j 0)))) 0 s))) s

/-- `cvdep` (R289). -/
def execCvdep (g : Guard) (d a b : Reg) (tc : Fin 4) (s : State) :=
  runGroup { engineForm g [(d, 1)] [b] with srcs := [(a, 8), (b, 1)] } (fun e s => do
    let k := e.ahead s
    let blk ← e.onPath k tc
    let r := e.record a
    trapIf (recMalformed true r) Causes.coverageForm
    trapIf (r.getD 1 0 != tileId k.sp blk) Causes.tileMismatch
    trapIf (r.getD 0 0 != tileSeq k.sp blk) Causes.pathOrder
    let first := (e.sc b).toNat
    trapIf (first != 0 && decide ((tileSubs k.sp blk (recPoints r)).length ≤ first)) Causes.coverageForm
    let workers := (LaneMask.toList (e.g.live &&& ~~~e.helperAhead k)).length
    trapIf (workers == 0) Causes.coverageForm
    e.pushS tc (.dep r first workers (scalarOf d)) (scalarOf d) s) s

/-- `cvscan` (R290). -/
def execCvscan (g : Guard) (eo : Bool) (tc : Fin 4) (s : State) :=
  runGroup (engineForm g [] []) (fun e s => do
    let _ ← e.onPath (e.ahead s) tc
    e.pushS tc (.scan eo) none s) s

/-- `cvrefine` (R291). -/
def execCvrefine (g : Guard) (d : Reg) (tc : Fin 4) (s : State) :=
  runGroup (engineForm g [(d, 1)] []) (fun e s => do
    let _ ← e.onPath (e.ahead s) tc
    e.pushS tc (.refine (scalarOf d)) (scalarOf d) s) s

/-- `cvpush` (R283, R292). -/
def execCvpush (g : Guard) (tc : Fin 4) (s : State) :=
  runGroup (engineForm g [] []) (fun e s => do
    let k := e.ahead s
    let b ← e.openTile k tc
    trapIf (hdrCdep (tileHdr k.sp b) == 8) Causes.clipOverflow
    e.pushS tc .push none s) s

/-- `cvpop` (R283, R292). -/
def execCvpop (g : Guard) (tc : Fin 4) (s : State) :=
  runGroup (engineForm g [] []) (fun e s => do
    let k := e.ahead s
    let b ← e.openTile k tc
    trapIf (hdrCdep (tileHdr k.sp b) == 0) Causes.clipUnderflow
    e.pushS tc .pop none s) s

/-- `cvspan` (R293). The lanes that have exited are those at its issue, where R293 names no time and the command executes later: the
model's choice (log 74). -/
def execCvspan (g : Guard) (d a c : Reg) (tc : Fin 4) (s : State) :=
  runGroup (engineForm g [(d, 1), (c, 1)] [a]) (fun e s => do
    let _ ← e.openTile (e.ahead s) tc
    trapIf (decide (64 ≤ (e.sc a).toNat)) Causes.coverageForm
    .ok (.done (e.pushCov tc (.span (e.vnum d 0) (e.sc a).toNat e.g.live (scalarOf c)) false (e.vregs (d, 1))
      (scalarOf c).toList s))) s

/-- `cvblend` (R294): legal while the group is diverged. The helper lanes are those that the queued commands leave (R286, R293). -/
def execCvblend (g : Guard) (a b : Reg) (opr : BlendOp) (tc : Fin 4) (s : State) :=
  runWord { engineForm g [] [] with srcs := [(a, 2), (b, 1)] } (fun e s =>
    if e.act = 0 then .ok (.done s)
    else do
      let k := e.ahead s
      let _ ← e.openTile k tc
      let px := ((LaneMask.toList (e.act &&& ~~~e.helperAhead k)).map (fun l =>
        (e.rd b l, e.rd a l, e.rd (regPlus a 1) l))).filter (fun x => !x.1.msb)
      e.pushS tc (.blend opr px) none s) s

/-- `tsave` (R295). -/
def execTsave (g : Guard) (d a : Reg) (scope : Scope) (rel : Bool) (tc : Fin 4) (s : State) :=
  runGroup (engineForm g [(d, 1)] [a]) (fun e s => do
    let _ ← e.openTile (e.ahead s) tc
    e.tileSpan (e.sc a).toNat
    let dem ← e.demote (sysRelease scope rel)
    e.pushS tc (.save (e.sc a).toNat (scalarOf d)) (scalarOf d) (dem s)) s

/-- `tload` (R295). -/
def execTload (g : Guard) (d a b : Reg) (_scope : Scope) (acq : Bool) (tc : Fin 4) (s : State) :=
  runGroup (engineForm g [(d, 1)] [a, b]) (fun e s => do
    let k := e.ahead s
    e.closedTile k tc
    let blk ← e.placeTile k (e.sc b).toNat
    e.tileSpan (e.sc a).toNat
    .ok (.done (e.pushCov tc (.load (e.sc a).toNat blk (scalarOf d)) acq [] (scalarOf d).toList s))) s

/-- `cvq` (R296, R297). -/
def execCvq (g : Guard) (d : Reg) (sel : CvqSel) (tc : Fin 4) (s : State) :=
  let n := if sel = .recd then 2 else 1
  runGroup (engineForm g [(d, n)] []) (fun e s => do
    match sel with
    | .recd | .openMask => pure ()
    | .tang | .clip | .seq => let _ ← e.openTile (e.ahead s) tc
    let r := (scalarOf d).getD 0
    .ok (.done (e.pushCov tc (.query sel r) false [] ((List.range n).map (fun j => r + j)) s))) s

/-- `cvend` (R298). -/
def execCvend (g : Guard) (d : Reg) (tc : Fin 4) (s : State) :=
  runGroup (engineForm g [(d, 1)] []) (fun e s => do
    let _ ← e.openTile (e.ahead s) tc
    e.pushS tc (.close (scalarOf d)) (scalarOf d) s) s

end Sys2Proof.Machine
end

