-- ==== Sys2Proof/Machine/Host.lean ====
section
/-! DEFINITION. The host's and the management controller's side: register blocks (R354, R378), queues, partitions (R25,
R353, R375) and the debug window (R354, R356). -/

namespace Sys2Proof.Machine

open Sys2Proof

/-! ## Registers with no behaviour of their own (R5, R6) -/

/-- A write to a queue register of a partition. A write of QTAIL is a new launch, which a save's stop gives way to
(R348). -/
def State.queueWrite (s : State) (part q off : Nat) (v : Dword) : State :=
  if !(s.part part).qmask.getLsbD q then s
  else if off = 0x00 then s.modQueue q (fun x => { x with base := v })
  else if off = 0x08 then s.modQueue q (fun x => { x with qclass := v.extractLsb' 8 4, size := v.extractLsb' 0 4 })
  else if off = 0x18 then
    (s.modQueue q (fun x => { x with tail := v.setWidth 32 })).modPart part (fun p => { p with held := false })
  else s

/-- A write to a partition's register block. -/
def State.partWrite (s : State) (part addr : Nat) (v : Dword) : State :=
  let set := fun (f : Partition → Partition) => s.modPart part f
  if addr = 0x00 then
    set (fun p => { p with restoreReq := p.restoreReq && v.getLsbD 3, preemptReq := p.preemptReq && v.getLsbD 2,
                           removeReq := p.removeReq && v.getLsbD 1 })
  else if addr = 0x10 then set (fun p => { p with ptroot := v &&& 0x000FFFFFFFFFF000 })
  else if addr = 0x18 then set (fun p => { p with ctxtier := v.extractLsb' 62 2, ctxbase := v &&& 0x0000FFFFFFE00000 })
  else if addr = 0x20 then set (fun p => { p with phtmo := v.setWidth 32 })
  else if addr = 0x30 then
    set (fun p => { p with dcore := v.extractLsb' 32 8, dslot := v.extractLsb' 28 4, dkind := v.extractLsb' 26 2,
                           didx := v.extractLsb' 0 26 })
  else if 0x1000 ≤ addr && decide (addr < 0x2000) then s.queueWrite part ((addr - 0x1000) / 0x40) ((addr - 0x1000) % 0x40) v
  else s

/-- A flag as bit `n` of a register. -/
def flagBit (b : Bool) (n : Nat) : Dword := if b then 1#64 <<< n else 0

/-- What a queue register reads as; one of a queue outside QMASK reads zero. -/
def State.queueRead (s : State) (part q off : Nat) : Dword :=
  let x := s.queue q
  if !(s.part part).qmask.getLsbD q then 0
  else if off = 0x00 then x.base
  else if off = 0x08 then (x.qclass.setWidth 64 <<< 8) ||| x.size.setWidth 64
  else if off = 0x10 then x.head.setWidth 64
  else if off = 0x18 then x.tail.setWidth 64
  else if off = 0x20 then flagBit x.stop 1 ||| flagBit x.en 0
  else 0

/-- What a partition's register block reads as (R354); a reserved field reads as zero (R6). DDATA holds what the last access
through the window left. -/
def State.partRead (s : State) (part addr : Nat) : Dword :=
  let p := s.part part
  if addr = 0x00 then flagBit p.restoreReq 3 ||| flagBit p.preemptReq 2 ||| flagBit p.removeReq 1
  else if addr = 0x08 then
    flagBit p.closed 5 ||| flagBit (s.anyFrozen p) 4 ||| flagBit p.hasImage 3 ||| flagBit (s.partIdle part) 2
  else if addr = 0x10 then p.ptroot
  else if addr = 0x18 then (p.ctxtier.setWidth 64 <<< 62) ||| p.ctxbase
  else if addr = 0x20 then p.phtmo.setWidth 64
  else if addr = 0x28 then p.qmask
  else if addr = 0x30 then
    (p.dcore.setWidth 64 <<< 32) ||| (p.dslot.setWidth 64 <<< 28) ||| (p.dkind.setWidth 64 <<< 26) ||| p.didx.setWidth 64
  else if addr = 0x38 then p.ddata
  else if 0x1000 ≤ addr && decide (addr < 0x2000) then s.queueRead part ((addr - 0x1000) / 0x40) ((addr - 0x1000) % 0x40)
  else 0

/-- What the device register block reads as (R378). -/
def State.deviceRead (s : State) (addr : Nat) : Dword :=
  if addr = 0x00 then flagBit s.recov 0
  else if addr = 0x08 then s.pkgnum.setWidth 64
  else if addr = 0x10 then s.fenced.setWidth 64
  else if addr = 0x100 then s.vce ++ s.sce
  else if addr = 0x108 then s.retry ++ s.ue
  else if addr = 0x110 then s.ueKind ++ s.ueCore ++ s.ueAddr
  else if 0x200 ≤ addr && decide (addr < 0x260) && decide (addr % 8 = 0) then
    let l := s.link ((addr - 0x200) / 8)
    flagBit l.up 8 ||| l.peer.setWidth 64
  else if 0x300 ≤ addr && decide (addr < 0x500) && decide (addr % 2 = 0) then (Store.read s.route ((addr - 0x300) / 2)).setWidth 64
  else if 0x1000 ≤ addr && decide (addr < 0x2000) then (Store.read s.pair (addr - 0x1000)).setWidth 64
  else 0

/-- A write to the device register block; `ROUTE` entries are two bytes wide, pairing entries one. In recovery only a new
firmware image may be written (R375). -/
def State.deviceWrite (s : State) (addr : Nat) (v : Dword) : State :=
  let lo : Word := v.setWidth 32
  let hi : Word := v.extractLsb' 32 32
  if s.recov then s
  else if addr = 0x100 then { s with vce := hi, sce := lo }
  else if addr = 0x108 then { s with retry := hi, ue := lo }
  else if 0x300 ≤ addr && decide (addr < 0x500) && decide (addr % 2 = 0) then
    { s with route := Store.write s.route ((addr - 0x300) / 2) (v.setWidth 12) }
  else if 0x1000 ≤ addr && decide (addr < 0x2000) then
    { s with pair := Store.write s.pair (addr - 0x1000) (v.setWidth 8 &&& 0x8F) }
  else s

/-- A write to a register with no behaviour of its own. A partition's block answers while the partition is open, or
closed by a fenced cluster (R380). -/
def execRegisterWrite (blk : RegBlock) (addr : BitVec 16) (val : BitVec 64) (s : State) : Host.Outcome State Fault Refusal :=
  match blk with
  | .partition p =>
    .next (if (s.part p.val).opened || (s.part p.val).closed then s.partWrite p.val addr.toNat val else s)
  | .device => .next (if s.power then s.deviceWrite addr.toNat val else s)

/-- EN is written; written 1 it clears QSTOP (R354). -/
def execQueueEnable (part : Fin 16) (queue : Fin 64) (en : Bool) (s : State) : Host.Outcome State Fault Refusal :=
  let p := s.part part.val
  .next (if (p.opened || p.closed) && p.qmask.getLsbD queue.val then
    s.modQueue queue.val (fun q => { q with en := en, stop := q.stop && !en }) else s)

/-! ## Partitions (R25, R353, R375) -/

/-- The clusters FIRST to FIRST + NCL - 1 as a mask. -/
def clusterMask (first ncl : Nat) : BitVec 32 := BitVec.ofNat 32 ((2 ^ ncl - 1) * 2 ^ first)

/-- The clusters of the open partitions. -/
def State.takenClusters (s : State) : BitVec 32 :=
  s.parts.foldl (fun m p => if p.opened then m ||| clusterMask p.first p.ncl else m) 0

/-- The queues of the open partitions, and of those that a fenced cluster closed, whose register blocks still answer (R380); but
not of partition `part`, which is to be opened. -/
def State.takenQueues (s : State) (part : Nat) : BitVec 64 :=
  (List.range 16).foldl (fun m i =>
    let p := s.part i
    if i ≠ part ∧ (p.opened || p.closed) then m ||| p.qmask else m) 0

/-- A partition may be opened: bring-up is complete, and its clusters and queues are free and not fenced. -/
def State.canOpen (s : State) (part first ncl : Nat) (queues : BitVec 64) : Bool :=
  let m := clusterMask first ncl
  s.power && s.vfs && !(s.part part).opened && decide (0 < ncl) && decide (first + ncl ≤ 32) && m &&& s.fenced == 0 &&
    m &&& s.takenClusters == 0 && queues &&& s.takenQueues part == 0

/-- Opening a partition: a new key, the next generation, registers at their reset values and storage zero. -/
def State.openPart (s : State) (part first ncl : Nat) (queues : BitVec 64) (tenant : Bool) : State :=
  let old := s.part part
  let f := s.fresh
  let p : Partition := { Partition.reset with
    opened := true, first := first, ncl := ncl, qmask := queues, tenantScope := tenant, gen := old.gen + 1,
    key := some (Config.freeKey f.1), cpImage := old.cpImage }
  let s1 := (f.2.modPart part (fun _ => p)).zeroPart p
  { s1 with queues := (List.range 64).map (fun q => if queues.getLsbD q then Queue.reset else s1.queue q) }

/-- The management controller opens a partition. -/
def execPartitionOpen (part : Fin 16) (first : Fin 32) (ncl : Fin 33) (queues : BitVec 64) (tenantScope : Bool) (s : State) :
    Host.Outcome State Fault Refusal :=
  .next (if s.canOpen part.val first.val ncl.val queues then s.openPart part.val first.val ncl.val queues tenantScope else s)

/-- The management controller closes a partition: its key is discarded and its saved image with it. -/
def execPartitionClose (part : Fin 16) (s : State) : Host.Outcome State Fault Refusal :=
  .next (if (s.part part.val).opened then
    (s.removeNow part.val).modPart part.val (fun p =>
      { p.close with image := none, hasImage := false, apLeaves := [] }) else s)

/-- A verified command-processor image is loaded into an idle partition; another is refused (R353, R375). -/
def execPartitionUpdate (part : Fin 16) (version : Nat) (sigOk : Bool) (s : State) : Host.Outcome State Fault Refusal :=
  .next (if (s.part part.val).opened && s.partIdle part.val && sigOk then
    s.modPart part.val (fun p => { p with cpImage := version }) else s)

/-! ## Freezing and stepping (R356) -/

/-- FRZ is written 1. -/
def execDebugFreeze (core : Fin 256) (s : State) : Host.Outcome State Fault Refusal :=
  .next (s.freeze (core.val / 8))

/-- FRZ is written 0. -/
def execDebugThaw (core : Fin 256) (s : State) : Host.Outcome State Fault Refusal :=
  .next (s.thaw (core.val / 8))

/-- SGRP and STEP take what is written (R5): while the cluster is frozen and STEP is 1, the group issues one word at the
scheduler's next chance, and STEP then clears. Written 1 with no freeze in force, it stays until one begins or a thaw clears it
(log 22). -/
def State.stepGroup (s : State) (c : Nat) (slot : BitVec 4) (on : Bool) : State :=
  s.modCore c (fun k => { k with sgrp := slot, step := on })

/-- SGRP and STEP are written. -/
def execDebugStep (core : Fin 256) (slot : Fin 16) (s : State) : Host.Outcome State Fault Refusal :=
  .next (s.stepGroup core.val (BitVec.ofNat 4 slot.val) true)

/-! ## The debug window (R354) -/

/-- A write of `DBGCTL`. -/
def State.putDbgctl (s : State) (c : Nat) (v : Dword) : State :=
  let cl := c / 8
  let s1 := s.modCore c (fun k => { k with brkf := v.getLsbD 2, wpact := v.getLsbD 1 })
  let s2 := if v.getLsbD 0 then s1.freeze cl else s1.thaw cl
  s2.stepGroup c (v.extractLsb' 5 4) (v.getLsbD 4)

/-- The target core of the window; none when DCORE names no core of the partition. -/
def Partition.debugCore (p : Partition) : Option Nat :=
  if p.dcore.toNat < 8 * p.ncl then some (8 * p.first + p.dcore.toNat) else none

/-- A selection that is open at any time: a debug register of a core. -/
def Partition.debugOpen (p : Partition) : Bool :=
  p.dkind == 0 && decide (0x091 ≤ p.didx.toNat) && decide (p.didx.toNat ≤ 0x096)

/-- The state that the window selects; none when there is no such thing. -/
def State.debugRead (s : State) (p : Partition) (c : Nat) : Option Dword :=
  let i := p.didx.toNat
  let slot := p.dslot.toNat
  let k := s.core c
  match p.dkind.toNat with
  | 0 => if (csrWidth (BitVec.ofNat 12 i)).isSome && decide (i < 4096) then some (s.csr c slot i) else none
  | 1 => (k.group slot).bind (fun g =>
      if i / 32 % 256 < g.nregs then some ((k.readV slot g (i / 32 % 256) (i % 32)).setWidth 64) else none)
  | 2 => (k.group slot).bind (fun g => if i < 24 then some ((g.scalar i).setWidth 64) else none)
  | _ => if 4 * i < Config.scratchBytes then some ((Memory.word k.sp (4 * i)).setWidth 64) else none

/-- A read of DDATA returns the selected state, or all ones where the window is shut. -/
def execDebugWindowRead (part : Fin 16) (s : State) : Host.Outcome State Fault Refusal :=
  let p := s.part part.val
  let put := fun (v : Dword) (s : State) => s.modPart part.val (fun p => { p with ddata := v })
  let free := put (Config.freeData s.free) { s with free := s.free + 1 }
  if !p.opened then .next s
  else match p.debugCore with
    | none => .next free
    | some c =>
      if !p.debugOpen && !(s.cluster (c / 8)).frozen then .next (put 0xFFFFFFFFFFFFFFFF s)
      else match s.debugRead p c with
        | some v => .next (put v s)
        | none => .next free

/-- What a write through the window changes. -/
def State.debugWrite (s : State) (p : Partition) (c : Nat) (v : Dword) : State :=
  let i := p.didx.toNat
  let slot := p.dslot.toNat
  match p.dkind.toNat with
  | 0 => if i = 0x096 then s.putDbgctl c v else s.putCsr c slot i .write v 0xFFFFFFFFFFFFFFFF
  | 1 =>
    match s.group c slot with
    | some g => if i / 32 % 256 < g.nregs then s.writeV c slot [(i / 32 % 256, i % 32, v.setWidth 32)] else s
    | none => s
  | 2 => if i < 24 then s.modGroup c slot (fun g => g.setScalar i (v.setWidth 32)) else s
  | _ =>
    if 4 * i < Config.scratchBytes then
      s.modCore c (fun k => k.modSp (fun m => Memory.store m (4 * i) (leBytes 4 (v.toNat % 2 ^ 32))))
    else s

/-- A write of DDATA writes the selected state; where the window is shut it is ignored. -/
def execDebugWindowWrite (part : Fin 16) (val : BitVec 64) (s : State) : Host.Outcome State Fault Refusal :=
  let p := s.part part.val
  if !p.opened then .next s
  else match p.debugCore with
    | none => .next s
    | some c =>
      if p.debugOpen || (s.cluster (c / 8)).frozen then
        .next ((s.modPart part.val (fun p => { p with ddata := val })).debugWrite p c val)
      else .next s

end Sys2Proof.Machine
end

