-- ==== Sys2Proof/Machine/Device.lean ====
section
/-! DEFINITION. The package: power, bring-up and throttling (R370, R371, R375), scrubbing and uncorrectable errors
(R377-R382), and attestation (R376). -/

namespace Sys2Proof.Machine

open Sys2Proof

/-! ## Power (R370, R375) -/

/-- The device with every domain down: what survives is outside it, in the fuses and in flash, or the model's own. -/
def State.unpowered (s : State) : State :=
  { State.reset with
    clock := s.clock, agenda := s.agenda, free := s.free, nextId := s.nextId, host := s.host, tier := s.tier,
    rollback := s.rollback, fwVersion := s.fwVersion, fwGood := s.fwGood, power := false, vfs := false, tried := 0,
    cpGood := false, tierSize := 0, spares := [] }

/-- Power is removed. -/
def execPowerOff (s : State) : Host.Outcome State Fault Refusal := .next (if s.power then s.unpowered else s)

/-- The failed cores of a cluster at bring-up: its nine cores have the numbers 9 × k to 9 × k + 8. -/
def failedCores (failed : List (Fin 288)) (k : Nat) : Nat := (failed.eraseDups.filter (fun f => f.val / 9 == k)).length

/-- The clusters with more failed cores than their one spare. -/
def fencedAt (failed : List (Fin 288)) : BitVec 32 :=
  (List.range 32).foldl (fun m k => if 1 < failedCores failed k then m ||| (1#32 <<< k) else m) 0

/-- The size of the second tier with expanders of these capacities, in GB, on the ports that train: 1, 2, 4 or 8 of equal
capacity of at most 128 GB; 0, and so disabled, for any other population (R373). -/
def tierFrom (ports : List Nat) : Nat :=
  let n := ports.length
  match ports with
  | [] => 0
  | c :: t => if (n = 1 || n = 2 || n = 4 || n = 8) && t.all (fun x => x == c) && decide (c ≤ 128) then n * c * 2 ^ 30 else 0

/-- Steps 1 to 6 of bring-up (R375) but for the Pyrfort links, which train by their own rows. `flash` is a firmware image
that the host has put into flash while the device was off. A firmware that fails its checks leaves the device in recovery; a
command-processor image that fails leaves it without virtual functions. -/
def execPowerOn (flash : Option (Nat × Bool)) (cpSigOk : Bool) (pkgnum : BitVec 8) (failed : List (Fin 288)) (ports : List Nat)
    (s : State) : Host.Outcome State Fault Refusal :=
  if s.power then .next s
  else
    let fw := flash.getD (s.fwVersion, s.fwGood)
    let up : State := { s.unpowered with power := true, fwVersion := fw.1, fwGood := fw.2 }
    if !fw.2 || decide (fw.1 < s.rollback) then .next { up with recov := true }
    else .next { up with
      fenced := fencedAt failed, spares := (List.range 32).filter (fun k => failedCores failed k == 0), pkgnum := pkgnum,
      failMap := failed.eraseDups.map (fun f => f.val), tierSize := tierFrom ports, cpGood := cpSigOk }

/-- In recovery a new firmware image is written; the next bring-up checks it (R375). -/
def execRecoveryImageWrite (version : Nat) (sigOk : Bool) (s : State) : Host.Outcome State Fault Refusal :=
  .next (if s.power && s.recov then { s with fwVersion := version, fwGood := sigOk } else s)

/-- The clock steps by 1/16 (R371): no value, trap or count of clocks changes. -/
def execThermalThrottle (up : Bool) (s : State) : Host.Outcome State Fault Refusal :=
  .next (if s.power then { s with throttle := if up then s.throttle - 1 else min 15 (s.throttle + 1) } else s)

/-- At the shutdown point every grid is removed as a host removal, then power is removed (R371). -/
def execThermalShutdown (s : State) : Host.Outcome State Fault Refusal :=
  .next (if s.power then ((List.range 16).foldl State.removeNow s).unpowered else s)

/-! ## Errors (R377-R382) -/

/-- UEKIND of a place. -/
def placeKind : DataPlace → BitVec 8
  | .vault _ _ => 1
  | .tier _ => 3
  | _ => 2

/-- The core of a victim. -/
def victimCore : ErrorVictim → Nat
  | .word c _ _ _ _ _ => c.val
  | .engine c _ => c.val
  | .saved _ => 0

/-- UECORE: the core that holds a place, or, for a place that no core holds, the one that met the error. -/
def placeCore (place : DataPlace) (victim : ErrorVictim) : Nat :=
  match place with
  | .vault c _ => c.val
  | .scratch c _ => c.val
  | .register c _ => c.val
  | .accum c _ => c.val
  | .plane c _ => c.val
  | .slice _ _ => victimCore victim
  | .tier _ => victimCore victim

/-- UEADDR of a place: its address or offset. -/
def placeAddr : DataPlace → Nat
  | .vault _ o => o.toNat
  | .scratch _ o => o.toNat
  | .register _ i => 4 * i.toNat
  | .accum _ i => 4 * i.toNat
  | .plane _ i => 4 * i.toNat
  | .slice _ o => o.toNat
  | .tier a => a.toNat

/-- A scrub (R382) changes no value that a program could see; a corrected error counts (R377). -/
def execScrub (place : DataPlace) (correctable : Bool) (s : State) : Host.Outcome State Fault Refusal :=
  .next (if s.power && correctable then
    match place with
    | .vault _ _ => { s with vce := satAdd s.vce 1 }
    | .tier _ => s
    | _ => { s with sce := satAdd s.sce 1 }
  else s)

/-- Zeros over a checked unit of `n` bytes of a byte memory. -/
def zeroUnit (m : Memory) (a n : Nat) : Memory := Store.clear m (fun x => x / n == a / n)

/-- The packets of a call queue with zeros in the payload words of the eight bytes at offset `o` (R311): a packet's payload
follows its header of 16 bytes, and the packets follow each other (log 33). -/
def zeroCall : List CallPkt → Nat → List CallPkt
  | [], _ => []
  | p :: t, o =>
    if o < p.bytes then
      { p with payload := (List.range p.payload.length).map (fun n => if (16 + 4 * n) / 8 = o / 8 then 0 else p.payload.getD n 0) } :: t
    else p :: zeroCall t (o - p.bytes)

/-- An atomic whose operands are zero. -/
def AtomEntry.zeroed (a : AtomEntry) : AtomEntry := { a with data := 0, cmp := 0 }

/-- A staged put of a link with zeros in its bytes for the `n` addresses from `a` on of a partition. -/
def LinkPut.zeroed (x : LinkPut) (part a n : Nat) : LinkPut :=
  if x.part = part ∧ x.rsp = .vt then
    { x with bytes := (List.range x.bytes.length).map (fun j =>
        if a ≤ (x.addr + j) % 2 ^ 48 ∧ (x.addr + j) % 2 ^ 48 < a + n then 0 else x.bytes.getD j 0) }
  else x

/-- Zeros in eight bytes of a line of the bounce pool: in the bytes stored there, and in the atomics and staged puts that wait for
the line (R230, R325). -/
def Cluster.zeroLine (q : Cluster) (i unit : Nat) : Cluster :=
  match q.bounce[i]? with
  | none => q
  | some b =>
    let a := 128 * b.line + 8 * unit
    { q with
      bounce := q.bounce.set i { b with bytes := b.bytes.map (fun e => if e.1 / 8 % 16 = unit then (e.1, 0x100) else e) }
      held := q.held.map (fun x => if x.place.inPages a 8 then x.zeroed else x)
      linkPuts := q.linkPuts.map (fun x => x.zeroed b.part a 8) }

/-- Zeros in the half of a slice that the device holds (R304): a line of the bounce pool, a staged row, an entry of the
remote-atomic buffer, or a call packet's payload; what else lies there holds no data that a program wrote as such (log 33). -/
def Cluster.zeroHeld (q : Cluster) (o : Nat) : Cluster :=
  if o < 0x500000 then q.zeroLine ((o - 0x400000) / 128) (o / 8 % 16)
  else if o < 0x700000 then
    let i := (o - 0x500000) / 256
    { q with staged := (List.range q.staged.length).zip q.staged |>.map (fun x =>
        if x.1 = i then { x.2 with vals := (List.range x.2.vals.length).map (fun n =>
          if n / 2 = o / 8 % 32 then 0 else x.2.vals.getD n 0) } else x.2) }
  else if o < 0x780000 then
    { q with ratoms := q.ratoms.modify ((o - 0x700000) / 32) AtomEntry.zeroed }
  else if o < 0x7C0000 then
    { q with calls := q.calls.modify ((o - 0x780000) / 0x8000) (fun l => zeroCall l ((o - 0x780000) % 0x8000)) }
  else q

/-- The data of a place is zero from now on, unit by unit of its check: 32 bytes of a vault, 64 bits of SRAM, a 64-byte
line of the second tier (R377, R381, log 33). -/
def State.zeroPlace (s : State) (place : DataPlace) : State :=
  match place with
  | .vault c o => s.modCore c.val (fun k => { k with vault := zeroUnit k.vault o.toNat 32 })
  | .scratch c o => s.modCore c.val (fun k => k.modSp (fun m => zeroUnit m o.toNat 8))
  | .register c i => s.modCore c.val (fun k => k.modRegs (fun m => Store.clear m (fun x => x / 2 == i.toNat / 2)))
  | .accum c i => s.modCore c.val (fun k => { k with acc := Store.clear k.acc (fun x => x / 2 == i.toNat / 2) })
  | .plane c i => s.modCore c.val (fun k => { k with planes := Store.clear k.planes (fun x => x / 2 == i.toNat / 2) })
  | .slice k o => s.modCluster k.val (fun q =>
      if o.toNat < 0x400000 then { q with prog := zeroUnit q.prog o.toNat 8 } else q.zeroHeld o.toNat)
  | .tier a => { s with tier := zeroUnit s.tier a.toNat 64 }

/-- UE, UEKIND, UECORE and UEADDR record an error. -/
def State.logError (s : State) (place : DataPlace) (victim : ErrorVictim) : State :=
  { s with ue := satAdd s.ue 1, ueKind := placeKind place, ueCore := BitVec.ofNat 8 (placeCore place victim),
           ueAddr := BitVec.ofNat 48 (placeAddr place) }

/-- A second error in a core's registers, scratchpad or accumulators since its partition's reset marks it failed
(R379); a core marked so joins the failed-core map (R376). -/
def State.countError (s : State) (place : DataPlace) : State :=
  let hit := fun (c : Nat) =>
    let n := (Store.read s.coreErrs c).toNat + 1
    let mark := decide (1 < n) && !s.failed.contains c
    { s with coreErrs := Store.write s.coreErrs c (BitVec.ofNat 8 (min n 255)),
             failed := if mark then s.failed ++ [c] else s.failed,
             failMap := if mark then s.failMap ++ [288 + c] else s.failMap }
  match place with
  | .scratch c _ => hit c.val
  | .register c _ => hit c.val
  | .accum c _ => hit c.val
  | _ => s

/-- One destination of a word that read damaged data, in the lanes that read it: the register is zero, and so is a result still
on its way to it (R341, R381). -/
def State.zeroDst (s : State) (c slot : Nat) (lanes : LaneMask) (d : Reg) : State :=
  match s.group c slot with
  | none => s
  | some g =>
    let regOf := fun (l : Nat) => match d with
      | .v n => some n.val
      | .vi k => some (g.idxReg k.val l).toNat
      | _ => none
    let cells := (LaneMask.toList lanes).filterMap (fun l => (regOf l).map (fun r => (r, l)))
    let sreg := match d with
      | .s n => some n.val
      | _ => none
    (s.writeV c slot (cells.map (fun x => (x.1, x.2, 0)))).modGroup c slot (fun g =>
      { (sreg.elim g (fun n => g.setScalar n 0)) with
        inflight := g.inflight.map (fun f => { f with
          vdata := f.vdata.map (fun e => if cells.contains (e.1, e.2.1) then (e.1, e.2.1, 0) else e)
          sdata := f.sdata.map (fun e => if sreg = some e.1 then (e.1, 0) else e) }) })

/-- The destinations of a word that read damaged data (R341, R381). -/
def State.zeroWord (s : State) (c slot : Nat) (dsts : List Reg) (preds idxs : List (Fin 8)) (lanes : LaneMask) : State :=
  (dsts.foldl (fun s d => s.zeroDst c slot lanes d) s).modGroup c slot (fun g =>
    idxs.foldl (fun g i => g.setIdx i.val lanes (fun _ => 0)) (preds.foldl (fun g p => g.setPred p.val lanes 0) g))

/-- An uncorrectable error (R381); the trap of a word names the lowest lane that read the data (R339). -/
def execUncorrectableError (place : DataPlace) (victim : ErrorVictim) (s : State) : Host.Outcome State Fault Refusal :=
  if !s.power then .next s
  else
    let s1 := ((s.logError place victim).countError place).zeroPlace place
    let due := fun (lane : Nat) (g : Group) => g.makeDue {
      cause := Causes.uncorrectableData, info := BitVec.ofNat 64 (placeAddr place / 0x10000), lane := lane }
    match victim with
    | .word c i dsts preds idxs lanes =>
      .next ((s1.zeroWord c.val i.val dsts preds idxs lanes).modGroup c.val i.val (due (LaneMask.lowest lanes)))
    | .engine c i => .next (s1.modGroup c.val i.val (due 0))
    | .saved id => .next (s1.removeGrid id 4 Causes.uncorrectableData)

/-! ## Attestation (R376) -/

/-- Answering a request at a stage of the connection; an earlier one is an error. -/
def State.answer (s : State) (need : Nat) (f : State → State) : State :=
  if !s.power then s
  else if s.spdm.stage < need then { s with spdm := { s.spdm with answer := .error } }
  else f s

/-- The answer in the mailbox and the stage reached. -/
def State.reply (s : State) (stage : Nat) (a : SpdmAnswer) : State := { s with spdm := { stage := stage, answer := a } }

/-- GET_VERSION: SPDM 1.2. -/
def execGetVersion (s : State) : Host.Outcome State Fault Refusal :=
  .next (s.answer 0 (fun s => s.reply 1 (.version 1 2)))

/-- GET_CAPABILITIES: no secure sessions. -/
def execGetCapabilities (s : State) : Host.Outcome State Fault Refusal :=
  .next (s.answer 1 (fun s => s.reply 2 (.capabilities false)))

/-- NEGOTIATE_ALGORITHMS: only ECDSA P-256 and SHA-256. -/
def execNegotiateAlgorithms (ecdsaP256 sha256 : Bool) (s : State) : Host.Outcome State Fault Refusal :=
  .next (s.answer 2 (fun s => if ecdsaP256 && sha256 then s.reply 3 (.algorithms true true) else s.reply 2 .error))

/-- A digest's bytes as a value, byte 0 first. -/
def digestOf (bs : List Byte) : BitVec 256 := BitVec.ofNat 256 (leNat (sha256 bs))

/-- GET_DIGESTS: slot 0 holds the chain. -/
def execGetDigests (s : State) : Host.Outcome State Fault Refusal :=
  .next (s.answer 3 (fun s => s.reply 3 (.digests [digestOf Config.certChain])))

/-- GET_CERTIFICATE: a portion of slot 0's chain. -/
def execGetCertificate (slot : Fin 8) (offset length : BitVec 16) (s : State) : Host.Outcome State Fault Refusal :=
  .next (s.answer 3 (fun s =>
    if slot.val = 0 then
      s.reply 3 (.certificate 0 offset.toNat ((Config.certChain.drop offset.toNat).take length.toNat))
    else s.reply 3 .error))

/-- A signature with the device identity key over what an answer covers. -/
def State.signature (s : State) : BitVec 512 := Config.sign (Config.freeDigest s.free)

/-- CHALLENGE: an answer signed with the identity key, with the responder's nonce. -/
def execChallenge (slot : Fin 8) (_nonce : BitVec 256) (s : State) : Host.Outcome State Fault Refusal :=
  .next (s.answer 3 (fun s =>
    if slot.val = 0 then
      { s.reply 3 (.challengeAuth 0 (Config.freeNonce s.free) s.signature) with free := s.free + 1 }
    else s.reply 3 .error))

/-- What a measurement block covers, as numbers: the firmware's version; each partition's command-processor image; the
fuses with the failed cores and the fenced clusters; the partitions' layout. -/
def State.measured (s : State) (i : Nat) : List Nat :=
  match i with
  | 2 => [s.fwVersion]
  | 3 => s.parts.map (fun p => p.cpImage)
  | 4 => [s.rollback, s.fenced.toNat] ++ s.failMap
  | 5 => s.parts.flatMap (fun p => if p.opened then [1, p.first, p.ncl] else [0, 0, 0])
  | _ => []

/-- A measurement block: index and digest. -/
def State.block (s : State) (i : Nat) : Nat × BitVec 256 := (i, Config.measure i (s.measured i))

/-- The blocks that a request names: one of 1 to 5, or all for 0xFF; none for index 0 asks for their number. -/
def State.blocks (s : State) (index : Nat) : Option (List (Nat × BitVec 256)) :=
  if index = 0 then some []
  else if index ≤ 5 then some [s.block index]
  else if index = 0xFF then some ((List.range 5).map (fun i => s.block (i + 1)))
  else none

/-- GET_MEASUREMENTS. -/
def execGetMeasurements (index : BitVec 8) (sign : Bool) (_nonce : BitVec 256) (s : State) : Host.Outcome State Fault Refusal :=
  .next (s.answer 3 (fun s =>
    match s.blocks index.toNat with
    | none => s.reply 3 .error
    | some bs =>
      { s.reply 3 (.measurements bs (Config.freeNonce s.free) (if sign then some s.signature else none)) with
        free := s.free + 1 }))

end Sys2Proof.Machine
end

