-- ==== Sys2Proof/Machine/Pair.lean ====
section
/-! DEFINITION. Pair words (R67-R69): two restricted halves that read before either writes. -/

namespace Sys2Proof.Machine

open Sys2Proof

/-- Whether a half reads its D (R67). -/
def HalfOp.readsD : HalfOp → Bool
  | .mov | .ineg | .iabs => false
  | _ => true

/-- Whether a half is a row 0x3 operation, illegal in X-phases (R101). -/
def HalfOp.isFp : HalfOp → Bool
  | .fadd _ | .fsub _ | .fmul _ | .fmin | .fmax | .hadd2 _ | .hmul2 _ => true
  | _ => false

/-- What a half computes from the old D and B, as its full form does (R69). -/
def halfVal (fpctl : Word) (op : HalfOp) (d b : Word) : FpRes :=
  let int := fun (x : Word) => ((x.toNat, 0) : FpRes)
  let fp := fun (r : Rnd) (f : FpMode → Fv → Fv → FpRes) =>
    let m := fpMode fpctl r
    f m (fp32.value m.fzi d.toNat) (fp32.value m.fzi b.toNat)
  match op with
  | .mov => int b
  | .iadd ty => int (addVal false ty d b)
  | .isub ty => int (subVal false ty d b)
  | .imin ty => int (minVal ty d b)
  | .imax ty => int (maxVal ty d b)
  | .and => int (d &&& b)
  | .or => int (d ||| b)
  | .xor => int (d ^^^ b)
  | .shl => int (shlVal d b)
  | .shr => int (shrVal d b)
  | .sar => int (sarVal d b)
  | .fadd r => fp r faddOp
  | .fsub r => fp r fsubOp
  | .fmul r => fp r fmulOp
  | .fmin => fp32.minMax (fpctl.getLsbD 2) false d.toNat b.toNat
  | .fmax => fp32.minMax (fpctl.getLsbD 2) true d.toNat b.toNat
  | .hadd2 r => half2 .f16 (fpMode fpctl r) Fmt.addV d b
  | .hmul2 r => half2 .f16 (fpMode fpctl r) Fmt.mulV d b
  | .ineg => int (negVal false b)
  | .iabs => int (absVal false b)

/-- The counted reads of a half (R68): direct vector registers that are not latch-served. -/
def Env.counted (e : Env) (h : PairHalf) : List Nat :=
  let rs := (if HalfOp.readsD h.op then [h.r.d.val] else []) ++ (match h.r.b with
    | .v n => [n.val]
    | _ => [])
  rs.filter (fun r => (e.sp.latched r).isNone)

/-- Two of the registers fall in one bank (R66, R68). -/
def bankClash : List Nat → Bool
  | [] => false
  | r :: t => t.any (fun q => q % 4 == r % 4) || bankClash t

/-- The pair-bank check (R68). -/
def pairBank (x y : PairHalf) (e : Env) : Option Trap :=
  if x.r.d == y.r.d || (bankClash (e.counted x ++ e.counted y) && decide (2 ≤ e.sp.since)) then
    some (trapOf Causes.pairBank)
  else none

/-- The lanes a half writes (R69). -/
def Env.halfLanes (e : Env) (h : PairHalf) : List Nat := LaneMask.toList (e.sp.mask &&& e.g.passing h.r.g.val false)

/-- The form of a pair. -/
def pairForm (st : Bool) (x y : PairHalf) : Form :=
  let held := fun (h : PairHalf) => if h.r.hb then heldReg .b none (some h.r.b) none else []
  let idle := fun (e : Env) (h : PairHalf) => if (e.halfLanes h).isEmpty then [h.r.d.val] else []
  { Form.plain { settle := st, pg := 0, pn := false } with
    held := held x ++ held y
    dsts := [(.v x.r.d, 1), (.v y.r.d, 1)]
    srcs := [(x.r.b, 1), (y.r.b, 1)]
    inX := !(HalfOp.isFp x.op || HalfOp.isFp y.op)
    pre := pairBank x y
    unwritten := fun e => idle e x ++ idle e y }

/-- A half's result in a lane. -/
def Env.halfRes (e : Env) (h : PairHalf) (l : Nat) : FpRes :=
  halfVal e.g.fpctl h.op (e.rdV h.r.d.val l) (e.rd h.r.b l)

/-- A half's writes. -/
def Env.halfWrites (e : Env) (h : PairHalf) : List (Nat × Nat × Word) :=
  (e.halfLanes h).map (fun l => (h.r.d.val, l, BitVec.ofNat 32 (e.halfRes h l).1))

/-- Executing a pair (R69). -/
def runPair (st : Bool) (x y : PairHalf) (s : State) : Host.Outcome State Fault Refusal :=
  runWord (pairForm st x y) (fun e s =>
    let fl := fun h => unionFlags (e.halfLanes h) (fun l => (e.halfRes h l).2)
    .ok (e.fpEnd (fl x ||| fl y) 0x3F (fun s => s.writeV e.core e.slot (e.halfWrites x ++ e.halfWrites y)) s)) s

def execMovPair (st : Bool) (x : HalfRegs) (y : PairHalf) (s : State) := runPair st { op := .mov, r := x } y s
def execIaddPair (st : Bool) (ty : IntTy) (x : HalfRegs) (y : PairHalf) (s : State) := runPair st { op := .iadd ty, r := x } y s
def execIsubPair (st : Bool) (ty : IntTy) (x : HalfRegs) (y : PairHalf) (s : State) := runPair st { op := .isub ty, r := x } y s
def execIminPair (st : Bool) (ty : IntTy) (x : HalfRegs) (y : PairHalf) (s : State) := runPair st { op := .imin ty, r := x } y s
def execImaxPair (st : Bool) (ty : IntTy) (x : HalfRegs) (y : PairHalf) (s : State) := runPair st { op := .imax ty, r := x } y s
def execIabsPair (st : Bool) (x : HalfRegs) (y : PairHalf) (s : State) := runPair st { op := .iabs, r := x } y s
def execInegPair (st : Bool) (x : HalfRegs) (y : PairHalf) (s : State) := runPair st { op := .ineg, r := x } y s
def execAndPair (st : Bool) (x : HalfRegs) (y : PairHalf) (s : State) := runPair st { op := .and, r := x } y s
def execOrPair (st : Bool) (x : HalfRegs) (y : PairHalf) (s : State) := runPair st { op := .or, r := x } y s
def execXorPair (st : Bool) (x : HalfRegs) (y : PairHalf) (s : State) := runPair st { op := .xor, r := x } y s
def execShlPair (st : Bool) (x : HalfRegs) (y : PairHalf) (s : State) := runPair st { op := .shl, r := x } y s
def execShrPair (st : Bool) (x : HalfRegs) (y : PairHalf) (s : State) := runPair st { op := .shr, r := x } y s
def execSarPair (st : Bool) (x : HalfRegs) (y : PairHalf) (s : State) := runPair st { op := .sar, r := x } y s
def execFaddPair (st : Bool) (rnd : Rnd) (x : HalfRegs) (y : PairHalf) (s : State) := runPair st { op := .fadd rnd, r := x } y s
def execFsubPair (st : Bool) (rnd : Rnd) (x : HalfRegs) (y : PairHalf) (s : State) := runPair st { op := .fsub rnd, r := x } y s
def execFmulPair (st : Bool) (rnd : Rnd) (x : HalfRegs) (y : PairHalf) (s : State) := runPair st { op := .fmul rnd, r := x } y s
def execFminPair (st : Bool) (x : HalfRegs) (y : PairHalf) (s : State) := runPair st { op := .fmin, r := x } y s
def execFmaxPair (st : Bool) (x : HalfRegs) (y : PairHalf) (s : State) := runPair st { op := .fmax, r := x } y s
def execHadd2Pair (st : Bool) (rnd : Rnd) (x : HalfRegs) (y : PairHalf) (s : State) := runPair st { op := .hadd2 rnd, r := x } y s
def execHmul2Pair (st : Bool) (rnd : Rnd) (x : HalfRegs) (y : PairHalf) (s : State) := runPair st { op := .hmul2 rnd, r := x } y s

end Sys2Proof.Machine
end

