-- ==== Sys2Proof/Machine/Dispatch.lean ====
section
/-! DEFINITION. The meaning of each instruction, one arm per constructor of `Instr`. -/

namespace Sys2Proof.Machine

open Sys2Proof

/-- Executing one instruction in one state. -/
def exec (i : Instr) (s : State) : Host.Outcome State Fault Refusal :=
  match i with
  | .nop g => Sys2Proof.Machine.execNop g s
  | .bra g disp rdisp => Sys2Proof.Machine.execBra g disp rdisp s
  | .brx g h a rdisp => Sys2Proof.Machine.execBrx g h a rdisp s
  | .call g d disp rdisp => Sys2Proof.Machine.execCall g d disp rdisp s
  | .ret g h a rdisp => Sys2Proof.Machine.execRet g h a rdisp s
  | .bar g => Sys2Proof.Machine.execBar g s
  | .barr g => Sys2Proof.Machine.execBarr g s
  | .barw g => Sys2Proof.Machine.execBarw g s
  | .barrierRelease core team => Sys2Proof.Machine.execBarrierRelease core team s
  | .yield g d disp => Sys2Proof.Machine.execYield g d disp s
  | .exit g => Sys2Proof.Machine.execExit g s
  | .groupEnd core slot => Sys2Proof.Machine.execGroupEnd core slot s
  | .matrixUnitClear core => Sys2Proof.Machine.execMatrixUnitClear core s
  | .launch g d a => Sys2Proof.Machine.execLaunch g d a s
  | .chwait g d a st => Sys2Proof.Machine.execChwait g d a st s
  | .phase g => Sys2Proof.Machine.execPhase g s
  | .post g a => Sys2Proof.Machine.execPost g a s
  | .regrow g n => Sys2Proof.Machine.execRegrow g n s
  | .regrowGrant core sched => Sys2Proof.Machine.execRegrowGrant core sched s
  | .groupSpill core sched => Sys2Proof.Machine.execGroupSpill core sched s
  | .groupSpillRestore core sched => Sys2Proof.Machine.execGroupSpillRestore core sched s
  | .regshrink g n => Sys2Proof.Machine.execRegshrink g n s
  | .splitq g d sel => Sys2Proof.Machine.execSplitq g d sel s
  | .brk hi lo => Sys2Proof.Machine.execBrk hi lo s
  | .mov g h d a => Sys2Proof.Machine.execMov g h d a s
  | .movPair st x y => Sys2Proof.Machine.execMovPair st x y s
  | .movi g d imm => Sys2Proof.Machine.execMovi g d imm s
  | .iadd g h d a b sat ty => Sys2Proof.Machine.execIadd g h d a b sat ty s
  | .iaddImm g d a imm => Sys2Proof.Machine.execIaddImm g d a imm s
  | .iaddPair st ty x y => Sys2Proof.Machine.execIaddPair st ty x y s
  | .isub g h d a b sat ty => Sys2Proof.Machine.execIsub g h d a b sat ty s
  | .isubImm g d a imm => Sys2Proof.Machine.execIsubImm g d a imm s
  | .isubPair st ty x y => Sys2Proof.Machine.execIsubPair st ty x y s
  | .imul g h d a b sat ty => Sys2Proof.Machine.execImul g h d a b sat ty s
  | .imulImm g d a imm => Sys2Proof.Machine.execImulImm g d a imm s
  | .imulh g h d a b ty => Sys2Proof.Machine.execImulh g h d a b ty s
  | .imad g h d a b c sat ty => Sys2Proof.Machine.execImad g h d a b c sat ty s
  | .iaddc g h d a b ci co => Sys2Proof.Machine.execIaddc g h d a b ci co s
  | .isubb g h d a b ci co => Sys2Proof.Machine.execIsubb g h d a b ci co s
  | .imin g h d a b ty => Sys2Proof.Machine.execImin g h d a b ty s
  | .iminImm g d a imm => Sys2Proof.Machine.execIminImm g d a imm s
  | .iminPair st ty x y => Sys2Proof.Machine.execIminPair st ty x y s
  | .imax g h d a b ty => Sys2Proof.Machine.execImax g h d a b ty s
  | .imaxImm g d a imm => Sys2Proof.Machine.execImaxImm g d a imm s
  | .imaxPair st ty x y => Sys2Proof.Machine.execImaxPair st ty x y s
  | .iabs g h d a sat => Sys2Proof.Machine.execIabs g h d a sat s
  | .iabsPair st x y => Sys2Proof.Machine.execIabsPair st x y s
  | .ineg g h d a sat => Sys2Proof.Machine.execIneg g h d a sat s
  | .inegPair st x y => Sys2Proof.Machine.execInegPair st x y s
  | .icmp g h p a b cnd ty => Sys2Proof.Machine.execIcmp g h p a b cnd ty s
  | .isel g h d a b p => Sys2Proof.Machine.execIsel g h d a b p s
  | .lea g h d a b sh => Sys2Proof.Machine.execLea g h d a b sh s
  | .and g h d a b => Sys2Proof.Machine.execAnd g h d a b s
  | .andImm g d a imm => Sys2Proof.Machine.execAndImm g d a imm s
  | .andPair st x y => Sys2Proof.Machine.execAndPair st x y s
  | .or g h d a b => Sys2Proof.Machine.execOr g h d a b s
  | .orImm g d a imm => Sys2Proof.Machine.execOrImm g d a imm s
  | .orPair st x y => Sys2Proof.Machine.execOrPair st x y s
  | .xor g h d a b => Sys2Proof.Machine.execXor g h d a b s
  | .xorImm g d a imm => Sys2Proof.Machine.execXorImm g d a imm s
  | .xorPair st x y => Sys2Proof.Machine.execXorPair st x y s
  | .not g h d a => Sys2Proof.Machine.execNot g h d a s
  | .andn g h d a b => Sys2Proof.Machine.execAndn g h d a b s
  | .andnImm g d a imm => Sys2Proof.Machine.execAndnImm g d a imm s
  | .shl g h d a b => Sys2Proof.Machine.execShl g h d a b s
  | .shlImm g d a imm => Sys2Proof.Machine.execShlImm g d a imm s
  | .shlPair st x y => Sys2Proof.Machine.execShlPair st x y s
  | .shr g h d a b => Sys2Proof.Machine.execShr g h d a b s
  | .shrImm g d a imm => Sys2Proof.Machine.execShrImm g d a imm s
  | .shrPair st x y => Sys2Proof.Machine.execShrPair st x y s
  | .sar g h d a b => Sys2Proof.Machine.execSar g h d a b s
  | .sarImm g d a imm => Sys2Proof.Machine.execSarImm g d a imm s
  | .sarPair st x y => Sys2Proof.Machine.execSarPair st x y s
  | .rot g h d a b right => Sys2Proof.Machine.execRot g h d a b right s
  | .rotImm g d a imm => Sys2Proof.Machine.execRotImm g d a imm s
  | .fsh g h d a b c left => Sys2Proof.Machine.execFsh g h d a b c left s
  | .bfx g h d a f ty => Sys2Proof.Machine.execBfx g h d a f ty s
  | .bfi g h d a b f => Sys2Proof.Machine.execBfi g h d a b f s
  | .popc g h d a => Sys2Proof.Machine.execPopc g h d a s
  | .clz g h d a => Sys2Proof.Machine.execClz g h d a s
  | .brev g h d a => Sys2Proof.Machine.execBrev g h d a s
  | .prmt g h d a b c => Sys2Proof.Machine.execPrmt g h d a b c s
  | .ixset g h ix a => Sys2Proof.Machine.execIxset g h ix a s
  | .ixsetImm g ix imm => Sys2Proof.Machine.execIxsetImm g ix imm s
  | .ixsetGet g d ix => Sys2Proof.Machine.execIxsetGet g d ix s
  | .ixadd g h ix j b => Sys2Proof.Machine.execIxadd g h ix j b s
  | .ixaddImm g ix j imm => Sys2Proof.Machine.execIxaddImm g ix j imm s
  | .ixbnd g a b => Sys2Proof.Machine.execIxbnd g a b s
  | .pset g p a b tt => Sys2Proof.Machine.execPset g p a b tt s
  | .pmov g h f => Sys2Proof.Machine.execPmov g h f s
  | .shfl g h d a b wid mode => Sys2Proof.Machine.execShfl g h d a b wid mode s
  | .shflx g h d a b wid mode => Sys2Proof.Machine.execShflx g h d a b wid mode s
  | .bcast g h d a b => Sys2Proof.Machine.execBcast g h d a b s
  | .vote g f p => Sys2Proof.Machine.execVote g f p s
  | .rdsp g d sel => Sys2Proof.Machine.execRdsp g d sel s
  | .fadd g h d a b rnd => Sys2Proof.Machine.execFadd g h d a b rnd s
  | .faddImm g d a imm => Sys2Proof.Machine.execFaddImm g d a imm s
  | .faddPair st rnd x y => Sys2Proof.Machine.execFaddPair st rnd x y s
  | .fsub g h d a b rnd => Sys2Proof.Machine.execFsub g h d a b rnd s
  | .fsubImm g d a imm => Sys2Proof.Machine.execFsubImm g d a imm s
  | .fsubPair st rnd x y => Sys2Proof.Machine.execFsubPair st rnd x y s
  | .fmul g h d a b rnd => Sys2Proof.Machine.execFmul g h d a b rnd s
  | .fmulImm g d a imm => Sys2Proof.Machine.execFmulImm g d a imm s
  | .fmulPair st rnd x y => Sys2Proof.Machine.execFmulPair st rnd x y s
  | .ffma g h d a b c np nc rnd => Sys2Proof.Machine.execFfma g h d a b c np nc rnd s
  | .fmin g h d a b => Sys2Proof.Machine.execFmin g h d a b s
  | .fminImm g d a imm => Sys2Proof.Machine.execFminImm g d a imm s
  | .fminPair st x y => Sys2Proof.Machine.execFminPair st x y s
  | .fmax g h d a b => Sys2Proof.Machine.execFmax g h d a b s
  | .fmaxImm g d a imm => Sys2Proof.Machine.execFmaxImm g d a imm s
  | .fmaxPair st x y => Sys2Proof.Machine.execFmaxPair st x y s
  | .fcmp g h p a b cnd => Sys2Proof.Machine.execFcmp g h p a b cnd s
  | .fclass g h d a => Sys2Proof.Machine.execFclass g h d a s
  | .frnd g h d a rnd => Sys2Proof.Machine.execFrnd g h d a rnd s
  | .hadd2 g h d a b ty rnd => Sys2Proof.Machine.execHadd2 g h d a b ty rnd s
  | .hadd2Imm g d a imm => Sys2Proof.Machine.execHadd2Imm g d a imm s
  | .hadd2Pair st rnd x y => Sys2Proof.Machine.execHadd2Pair st rnd x y s
  | .hmul2 g h d a b ty rnd => Sys2Proof.Machine.execHmul2 g h d a b ty rnd s
  | .hmul2Imm g d a imm => Sys2Proof.Machine.execHmul2Imm g d a imm s
  | .hmul2Pair st rnd x y => Sys2Proof.Machine.execHmul2Pair st rnd x y s
  | .hfma2 g h d a b c ty rnd => Sys2Proof.Machine.execHfma2 g h d a b c ty rnd s
  | .cvt g h d a f rnd => Sys2Proof.Machine.execCvt g h d a f rnd s
  | .f2i g h d a ft ty rnd => Sys2Proof.Machine.execF2i g h d a ft ty rnd s
  | .i2f g h d a ft ty rnd => Sys2Proof.Machine.execI2f g h d a ft ty rnd s
  | .kpack g h d a slot => Sys2Proof.Machine.execKpack g h d a slot s
  | .kunpk g h d a slot => Sys2Proof.Machine.execKunpk g h d a slot s
  | .rqz g h d a b slot => Sys2Proof.Machine.execRqz g h d a b slot s
  | .frcp g h d a rnd => Sys2Proof.Machine.execFrcp g h d a rnd s
  | .frsq g h d a rnd => Sys2Proof.Machine.execFrsq g h d a rnd s
  | .fsqrt g h d a rnd => Sys2Proof.Machine.execFsqrt g h d a rnd s
  | .fex2 g h d a rnd => Sys2Proof.Machine.execFex2 g h d a rnd s
  | .flg2 g h d a rnd => Sys2Proof.Machine.execFlg2 g h d a rnd s
  | .fsin g h d a rnd => Sys2Proof.Machine.execFsin g h d a rnd s
  | .fcos g h d a rnd => Sys2Proof.Machine.execFcos g h d a rnd s
  | .ftanh g h d a rnd => Sys2Proof.Machine.execFtanh g h d a rnd s
  | .transformResultReturn core sched => Sys2Proof.Machine.execTransformResultReturn core sched s
  | .afset g h d a b sym => Sys2Proof.Machine.execAfset g h d a b sym s
  | .afint g h d a b => Sys2Proof.Machine.execAfint g h d a b s
  | .afmov g d a => Sys2Proof.Machine.execAfmov g d a s
  | .afadd g d a b => Sys2Proof.Machine.execAfadd g d a b s
  | .afsub g d a b => Sys2Proof.Machine.execAfsub g d a b s
  | .afscl g h d a b => Sys2Proof.Machine.execAfscl g h d a b s
  | .afaddc g h d a b => Sys2Proof.Machine.execAfaddc g h d a b s
  | .afmul g d a b => Sys2Proof.Machine.execAfmul g d a b s
  | .afsqr g d a => Sys2Proof.Machine.execAfsqr g d a s
  | .afrcp g d a => Sys2Proof.Machine.execAfrcp g d a s
  | .afdiv g d a b => Sys2Proof.Machine.execAfdiv g d a b s
  | .afsqrt g d a => Sys2Proof.Machine.execAfsqrt g d a s
  | .afcond g h d a mode => Sys2Proof.Machine.execAfcond g h d a mode s
  | .afctr g d a => Sys2Proof.Machine.execAfctr g d a s
  | .afrad g d a => Sys2Proof.Machine.execAfrad g d a s
  | .aflo g d a => Sys2Proof.Machine.execAflo g d a s
  | .afhi g d a => Sys2Proof.Machine.execAfhi g d a s
  | .afcmp g pt a b pf cnd => Sys2Proof.Machine.execAfcmp g pt a b pf cnd s
  | .afrel g a b => Sys2Proof.Machine.execAfrel g a b s
  | .afrelAll g => Sys2Proof.Machine.execAfrelAll g s
  | .afsymq g d sel => Sys2Proof.Machine.execAfsymq g d sel s
  | .afterm g h d a sel => Sys2Proof.Machine.execAfterm g h d a sel s
  | .ld g h d base disp space size rp => Sys2Proof.Machine.execLd g h d base disp space size rp s
  | .ldg g h d base disp space size rp => Sys2Proof.Machine.execLdg g h d base disp space size rp s
  | .ldgf g h d base disp space size => Sys2Proof.Machine.execLdgf g h d base disp space size s
  | .loadDataReturn core slot idx => Sys2Proof.Machine.execLoadDataReturn core slot idx s
  | .st g h d base disp space size col => Sys2Proof.Machine.execSt g h d base disp space size col s
  | .stg g h d base disp space size col => Sys2Proof.Machine.execStg g h d base disp space size col s
  | .writeQueueDrain core slot col => Sys2Proof.Machine.execWriteQueueDrain core slot col s
  | .atom g h d base disp space w64 col op => Sys2Proof.Machine.execAtom g h d base disp space w64 col op s
  | .atomb g h d base disp space w64 op => Sys2Proof.Machine.execAtomb g h d base disp space w64 op s
  | .fence g scope skip => Sys2Proof.Machine.execFence g scope skip s
  | .resq g h p a wide => Sys2Proof.Machine.execResq g h p a wide s
  | .pgreq g h base disp space rp wide => Sys2Proof.Machine.execPgreq g h base disp space rp wide s
  | .prf g h base disp space wide => Sys2Proof.Machine.execPrf g h base disp space wide s
  | .pageWalkComplete core idx => Sys2Proof.Machine.execPageWalkComplete core idx s
  | .cpy g d a b c scope rel acq dsp ssp => Sys2Proof.Machine.execCpy g d a b c scope rel acq dsp ssp s
  | .copyComplete core idx => Sys2Proof.Machine.execCopyComplete core idx s
  | .cpyw g a => Sys2Proof.Machine.execCpyw g a s
  | .dectab g a b scope acq slot => Sys2Proof.Machine.execDectab g a b scope acq slot s
  | .decv g d a b scope acq space slot => Sys2Proof.Machine.execDecv g d a b scope acq space slot s
  | .decodeResultReturn core => Sys2Proof.Machine.execDecodeResultReturn core s
  | .lscfg g a => Sys2Proof.Machine.execLscfg g a s
  | .lsgo g a => Sys2Proof.Machine.execLsgo g a s
  | .cruiserEmit core => Sys2Proof.Machine.execCruiserEmit core s
  | .lswait g d => Sys2Proof.Machine.execLswait g d s
  | .ldstw g a b c scope acq space slot => Sys2Proof.Machine.execLdstw g a b c scope acq space slot s
  | .cbtab g a b scope acq space => Sys2Proof.Machine.execCbtab g a b scope acq space s
  | .swpl g => Sys2Proof.Machine.execSwpl g s
  | .mma g a c row z slot => Sys2Proof.Machine.execMma g a c row z slot s
  | .mmas g a b c z slot => Sys2Proof.Machine.execMmas g a b c z slot s
  | .acz g a b => Sys2Proof.Machine.execAcz g a b s
  | .acld g a b c scope acq space slot => Sys2Proof.Machine.execAcld g a b c scope acq space slot s
  | .drain g a b c z scope rel space slot => Sys2Proof.Machine.execDrain g a b c z scope rel space slot s
  | .mfence g d => Sys2Proof.Machine.execMfence g d s
  | .mwait g a => Sys2Proof.Machine.execMwait g a s
  | .matrixCommandExecute core => Sys2Proof.Machine.execMatrixCommandExecute core s
  | .batchComplete core => Sys2Proof.Machine.execBatchComplete core s
  | .cvbegTile g a b tc => Sys2Proof.Machine.execCvbegTile g a b tc s
  | .cvbegPath g a tc => Sys2Proof.Machine.execCvbegPath g a tc s
  | .cvmono g d a => Sys2Proof.Machine.execCvmono g d a s
  | .cvdep g d a b tc => Sys2Proof.Machine.execCvdep g d a b tc s
  | .cvscan g eo tc => Sys2Proof.Machine.execCvscan g eo tc s
  | .cvrefine g d tc => Sys2Proof.Machine.execCvrefine g d tc s
  | .cvpush g tc => Sys2Proof.Machine.execCvpush g tc s
  | .cvpop g tc => Sys2Proof.Machine.execCvpop g tc s
  | .cvspan g d a c tc => Sys2Proof.Machine.execCvspan g d a c tc s
  | .cvblend g a b opr tc => Sys2Proof.Machine.execCvblend g a b opr tc s
  | .tsave g d a scope rel tc => Sys2Proof.Machine.execTsave g d a scope rel tc s
  | .tload g d a b scope acq tc => Sys2Proof.Machine.execTload g d a b scope acq tc s
  | .cvq g d sel tc => Sys2Proof.Machine.execCvq g d sel tc s
  | .cvend g d tc => Sys2Proof.Machine.execCvend g d tc s
  | .coverageCommandExecute core => Sys2Proof.Machine.execCoverageCommandExecute core s
  | .xpull g a b c tg rel acq scope rsp lsp => Sys2Proof.Machine.execXpull g a b c tg rel acq scope rsp lsp s
  | .xpush g a b c tg rel acq scope rsp lsp => Sys2Proof.Machine.execXpush g a b c tg rel acq scope rsp lsp s
  | .xdrain g a b c tg z => Sys2Proof.Machine.execXdrain g a b c tg z s
  | .xatom g a b c tg cl w64 op => Sys2Proof.Machine.execXatom g a b c tg cl w64 op s
  | .xcall g a b c tg words => Sys2Proof.Machine.execXcall g a b c tg words s
  | .xpageList g d a b tg => Sys2Proof.Machine.execXpageList g d a b tg s
  | .xpageMap g d a b tg => Sys2Proof.Machine.execXpageMap g d a b tg s
  | .xpageEvict g d a b tg host => Sys2Proof.Machine.execXpageEvict g d a b tg host s
  | .xhost g a b c tg rel acq scope lsp get => Sys2Proof.Machine.execXhost g a b c tg rel acq scope lsp get s
  | .xtier g a b c tg rel acq scope lsp get => Sys2Proof.Machine.execXtier g a b c tg rel acq scope lsp get s
  | .xlink g d a b c tg rel acq scope rsp lsp get => Sys2Proof.Machine.execXlink g d a b c tg rel acq scope rsp lsp get s
  | .xwait g d tg all => Sys2Proof.Machine.execXwait g d tg all s
  | .transferComplete core idx => Sys2Proof.Machine.execTransferComplete core idx s
  | .packetDeliver core idx late => Sys2Proof.Machine.execPacketDeliver core idx late s
  | .trap g k => Sys2Proof.Machine.execTrap g k s
  | .tret g => Sys2Proof.Machine.execTret g s
  | .csrr g d hi csr => Sys2Proof.Machine.execCsrr g d hi csr s
  | .csrw g d a hi csr => Sys2Proof.Machine.execCsrw g d a hi csr s
  | .csrs g d a hi csr => Sys2Proof.Machine.execCsrs g d a hi csr s
  | .csrc g d a hi csr => Sys2Proof.Machine.execCsrc g d a hi csr s
  | .lpinv g => Sys2Proof.Machine.execLpinv g s
  | .halt g a => Sys2Proof.Machine.execHalt g a s
  | .trapEntry core slot => Sys2Proof.Machine.execTrapEntry core slot s
  | .stragglerTimeout part => Sys2Proof.Machine.execStragglerTimeout part s
  | .engineLandingAck core engine => Sys2Proof.Machine.execEngineLandingAck core engine s
  | .landing part => Sys2Proof.Machine.execLanding part s
  | .nodeTake queue => Sys2Proof.Machine.execNodeTake queue s
  | .nodeLaunch queue idx => Sys2Proof.Machine.execNodeLaunch queue idx s
  | .repsigHashComplete grid => Sys2Proof.Machine.execRepsigHashComplete grid s
  | .gridRetire grid => Sys2Proof.Machine.execGridRetire grid s
  | .preempt part => Sys2Proof.Machine.execPreempt part s
  | .restore part => Sys2Proof.Machine.execRestore part s
  | .remove part => Sys2Proof.Machine.execRemove part s
  | .contextRemovalComplete grid => Sys2Proof.Machine.execContextRemovalComplete grid s
  | .reset part => Sys2Proof.Machine.execReset part s
  | .queueEnable part queue en => Sys2Proof.Machine.execQueueEnable part queue en s
  | .registerWrite blk addr val => Sys2Proof.Machine.execRegisterWrite blk addr val s
  | .partitionOpen part first ncl queues tenantScope => Sys2Proof.Machine.execPartitionOpen part first ncl queues tenantScope s
  | .partitionClose part => Sys2Proof.Machine.execPartitionClose part s
  | .partitionUpdate part version sigOk => Sys2Proof.Machine.execPartitionUpdate part version sigOk s
  | .debugFreeze core => Sys2Proof.Machine.execDebugFreeze core s
  | .debugThaw core => Sys2Proof.Machine.execDebugThaw core s
  | .debugStep core slot => Sys2Proof.Machine.execDebugStep core slot s
  | .debugWindowRead part => Sys2Proof.Machine.execDebugWindowRead part s
  | .debugWindowWrite part val => Sys2Proof.Machine.execDebugWindowWrite part val s
  | .flitReceive link flit => Sys2Proof.Machine.execFlitReceive link flit s
  | .retryRequest link seq => Sys2Proof.Machine.execRetryRequest link seq s
  | .linkTraining link trained peer => Sys2Proof.Machine.execLinkTraining link trained peer s
  | .pairingExchange pkg q p pen => Sys2Proof.Machine.execPairingExchange pkg q p pen s
  | .powerOn flash cpSigOk pkgnum failed ports => Sys2Proof.Machine.execPowerOn flash cpSigOk pkgnum failed ports s
  | .thermalThrottle up => Sys2Proof.Machine.execThermalThrottle up s
  | .thermalShutdown => Sys2Proof.Machine.execThermalShutdown s
  | .scrub place correctable => Sys2Proof.Machine.execScrub place correctable s
  | .uncorrectableError place victim => Sys2Proof.Machine.execUncorrectableError place victim s
  | .getVersion => Sys2Proof.Machine.execGetVersion s
  | .getCapabilities => Sys2Proof.Machine.execGetCapabilities s
  | .negotiateAlgorithms ecdsaP256 sha256 => Sys2Proof.Machine.execNegotiateAlgorithms ecdsaP256 sha256 s
  | .getDigests => Sys2Proof.Machine.execGetDigests s
  | .getCertificate slot offset length => Sys2Proof.Machine.execGetCertificate slot offset length s
  | .challenge slot nonce => Sys2Proof.Machine.execChallenge slot nonce s
  | .getMeasurements index sign nonce => Sys2Proof.Machine.execGetMeasurements index sign nonce s
  | .powerOff => Sys2Proof.Machine.execPowerOff s
  | .decodeTableLoadComplete core => Sys2Proof.Machine.execDecodeTableLoadComplete core s
  | .recoveryImageWrite version sigOk => Sys2Proof.Machine.execRecoveryImageWrite version sigOk s

end Sys2Proof.Machine
end

