-- ==== Sys2Proof/Machine/Sched.lean ====
section
/-! DEFINITION. The schedulers: the clock, fetch (R215), what comes before a word's own meaning (R72, R342), the choice of
group and split (R80), the freeze (R356), and what happens when the agenda is empty (log 3). -/

namespace Sys2Proof.Machine

open Sys2Proof

/-! ## The clock (log 2) -/

/-- A partition whose straggler count runs (R102, R356). -/
def State.counts (s : State) (p : Partition) : Bool := p.opened && p.stragOn && !s.anyFrozen p

/-- `n` clocks pass: the straggler counts go on, and the weight paths count their stalls. -/
def State.tick (s : State) (n : Nat) : State :=
  { s with
    clock := s.clock + n
    cores := if s.cores.any (fun k => k.pathLoad.isSome) then s.cores.map (fun k => k.tickPath s.clock n) else s.cores
    parts := s.parts.map (fun p => if s.counts p then { p with strag := p.strag + n } else p) }

/-! ## Fetch (R215) -/

/-- The words of a core's instruction cache. -/
abbrev icacheCap : Nat := 8192

/-- A word lies in a grid's mapped code. -/
def Grid.mapped (gr : Grid) (pc : Word) : Bool :=
  decide (pc.toNat + 8 ≤ gr.codesz) ||
    (decide (gr.lrec.xentry.toNat ≤ pc.toNat) && decide (pc.toNat + 8 ≤ gr.lrec.xentry.toNat + gr.xsz))

/-- The address of a word of a grid's code. -/
def Grid.codeAt (gr : Grid) (pc : Word) : Nat := (gr.lrec.code.toNat + pc.toNat) % 2 ^ 48

/-- The word at an address as memory now holds it; none on an invalid page. -/
def State.codeWord (s : State) (p a : Nat) : Option Dword :=
  (s.bytesAt p a 8).map (fun bs => BitVec.ofNat 64 (leNat bs))

/-- A fetched word joins the instruction cache. -/
def Core.cacheWord (k : Core) (w : CodeWord) : Core :=
  { k with icache := (w :: k.icache.filter (fun e => !(e.grid == w.grid && e.addr == w.addr))).take icacheCap }

/-- Reading a word of a grid's code, which joins the cache. None is a fetch that faults. -/
def State.loadCode (s : State) (c : Nat) (gr : Grid) (a : Nat) : State × Option Dword :=
  let r := s.codeRead c gr.part a
  match r.2 with
  | some x => (r.1.modCore c (fun k => k.cacheWord { grid := gr.id, addr := a, leaf := x.1.pte, big := x.1.big, word := x.2 }), some x.2)
  | none => (r.1, none)

/-- Fetching a word: what memory holds, or, a free choice, what the core has read for the grid while it was resident, where the
code or its translation has changed since (R214, R215). None is a code fetch that faults. -/
def State.fetch (s : State) (c : Nat) (gr : Grid) (pc : Word) : State × Option Dword :=
  if !gr.mapped pc then (s, none)
  else
    let a := gr.codeAt pc
    match (s.core c).icache.find? (fun e => e.grid == gr.id && e.addr == a) with
    | none => s.loadCode c gr a
    | some e =>
      if s.codeWord gr.part a = some e.word then (s, some e.word)
      else
        let f := s.fresh
        if Config.freeBit f.1 then (f.2, some e.word) else f.2.loadCode c gr a

/-- A core reads a word of the code that a resident group executes before any group fetches it, on a page from which it has
fetched (R215, log 41). -/
def State.fetchAhead (s : State) (c slot : Nat) (pc : Word) : State :=
  match s.group c slot with
  | none => s
  | some g =>
    let gr := s.grid g.grid
    let a := gr.codeAt pc
    let mine := (s.core c).icache.filter (fun e => e.grid == gr.id)
    match walk s.host (s.part gr.part) a, s.codeWord gr.part a with
    | some l, some w =>
      if gr.mapped pc && !mine.any (fun e => e.addr == a) && mine.any (fun e => sameMap l.pte e.leaf && l.big == e.big) then
        s.modCore c (fun k => k.cacheWord { grid := gr.id, addr := a, leaf := l.pte, big := l.big, word := w })
      else s
    | _, _ => s

/-! ## Before a word (R72, R102, R342) -/

/-- What a split does in its turn: something that comes before its next word, or that word. -/
inductive Turn where
  | stop (s : State)
  | run (i : Instr) (s : State)

/-- Whether a due trap is taken before the word is looked at. A firm gather's waits for a word that R225 names, and the
traps of higher codes wait with it for the word (R342). -/
def Group.dueBefore (g : Group) : Bool :=
  if g.atH then g.stragglerDue
  else g.due.any (fun d => !g.gatherDue || decide (d.cause.toNat < Causes.firmGather.toNat))

/-- Some trap is still due before a word that R225 does not name. -/
def Group.dueAfterGather (g : Group) : Bool := g.gatherDue && !g.atH && !g.due.isEmpty

/-- A trap that the word at `pc` raises by itself: every due trap is handled first (R342). -/
def State.wordTrap (s : State) (c slot split : Nat) (g : Group) (t : Trap) (pc : Word) : State :=
  if g.dueAfterGather then s.takeDue c slot split pc
  else if g.gatherDue && !g.atH then s.takeGather c slot split pc
  else s.raiseTrap c slot split t pc

/-- A fetched word: the settle wait, then the decoding (R72). -/
def State.wordTurn (s : State) (c slot split : Nat) (g : Group) (pc : Word) (ver : Nat) (w : Dword) : Turn :=
  if isBrk w then
    if g.dueAfterGather then .stop (s.takeDue c slot split pc)
    else match decode ver w with
      | .ok i => .run i s
      | .error c' => .stop (s.wordTrap c slot split g (trapOf c') pc)
  else if w.getLsbD 63 && g.gatherDue && !g.atH then .stop (s.takeGather c slot split pc)
  else if w.getLsbD 63 && g.anyPending then .stop (s.modGroup c slot (fun g => { g with wait := .settle }))
  else match decode ver w with
    | .ok i => .run i s
    | .error c' => .stop (s.wordTrap c slot split g (trapOf c') pc)

/-- The turn of a split. -/
def State.turn (s : State) (c slot split : Nat) : Turn :=
  match s.group c slot with
  | none => .stop s
  | some g =>
    match g.split split with
    | none => .stop s
    | some sp =>
      if g.dueBefore then .stop (s.takeDue c slot split sp.pc)
      else
        let gr := s.grid g.grid
        let f := s.fetch c gr sp.pc
        match f.2 with
        | none => .stop (f.1.wordTrap c slot split g { cause := Causes.codeFetch, info := sp.pc.setWidth 64, lane := 0 } sp.pc)
        | some w => f.1.wordTurn c slot split g sp.pc gr.lrec.ver.toNat w

/-- The row of an instruction's opcode, and its opcode (R57); none for one that is no word. -/
def opcodeOf (i : Instr) : Option (Nat × Nat) := (encode i).map (fun w => ((w.extractLsb' 58 5).toNat, (w.extractLsb' 53 10).toNat))

/-- The opcodes of the words of rows 0x6 to 0xA that touch no queue of theirs, vault port or scratchpad: `fence`, `resq`, `pgreq`, `prf`,
`cpyw`, `lswait`, `mwait`, `cvmono`, which runs on the transform pipe, and `xwait`. -/
abbrev idleOps : List Nat := [0x0C7, 0x0C8, 0x0C9, 0x0CA, 0x0E1, 0x0E6, 0x109, 0x121, 0x149]

/-- Some lane passes a word's guard, PG in bits [52:50] and N in bit [49] (R56). -/
def State.anyPasses (s : State) (i : Instr) : Bool :=
  (encode i).any (fun w => (s.env (w.extractLsb' 50 3).toNat (w.getLsbD 49)).any (fun e => e.act != 0))

/-- A word has not issued: it waits for a settle, for a result or for a free entry (R82, R84, R85). -/
def Wait.before : Wait → Bool
  | .settle | .results | .stalled => true
  | _ => false

/-- A group waits in a word that has issued (log 36). -/
def Wait.within : Wait → Bool
  | .ready => false
  | w => !w.before

/-- A word of the group in a slot, executed in `s`, has trapped in `t`, or a trap has been taken in its place. -/
def State.trapped (s t : State) (c slot : Nat) : Bool :=
  match s.group c slot, t.group c slot with
  | some g, some g' => g'.raised.isSome || g'.atH != g.atH || (t.grid g.grid).phase == .removing
  | _, _ => true

/-- A word of rows 0x6 to 0xA that some lane passes in `s` and that has acted in `t` uses its core's queues, vault port or scratchpad,
one of another engine than the copy engine and the matrix unit that engine too (R266). -/
def State.noteUse (s t : State) (c slot : Nat) (i : Instr) : State :=
  match opcodeOf i, t.group c slot with
  | some (row, op), some g =>
    if 6 ≤ row && decide (row ≤ 10) && !idleOps.contains op && s.anyPasses i && !s.trapped t c slot && !g.wait.before then
      t.modCore c (fun k => { k with
        uses := ((g.uid, s.clock) :: k.uses.filter (fun x => x.1 != g.uid)).take 2
        otherUse := if 9 ≤ row || (row == 7 && decide (0x0E2 ≤ op)) then some s.clock else k.otherUse })
    else t
  | _, _ => t

/-- A word executes, and the times of R266 take note of it. -/
def State.runNoted (s : State) (c slot : Nat) (i : Instr) : Host.Outcome State Fault Refusal :=
  match exec i s with
  | .next t => .next (s.noteUse t c slot i)
  | o => o

/-- A split takes its turn. -/
def State.attempt (s : State) (c slot split : Nat) : Host.Outcome State Fault Refusal :=
  match State.turn { s with cur := { core := c, slot := slot, split := split } } c slot split with
  | .stop s' => .next s'
  | .run i s' => s'.runNoted c slot i

/-! ## The choice (R80) -/

/-- The splits of a group that are not held, lowest PC first, ties to the lowest entry. -/
def Group.splitOrder (g : Group) : List Nat :=
  (sortBy (fun (x y : Nat × Nat) => decide (x.1 ≤ y.1))
    ((List.range 4).filterMap (fun i => (g.split i).bind (fun sp => if sp.held then none else some (sp.pc.toNat, i))))).map
      (fun x => x.2)

/-- The split stalls: its word waits for a result or for a free entry, and another split may issue. -/
def stalls (c slot : Nat) : Host.Outcome State Fault Refusal → Bool
  | .next s => (s.group c slot).any (fun g => g.wait == .results || g.wait == .stalled)
  | _ => false

/-- A settle parks the group before a word (R82, R85). -/
def parks (c slot : Nat) : Host.Outcome State Fault Refusal → Bool
  | .next s => (s.group c slot).any (fun g => g.wait == .settle)
  | _ => false

/-- The split of a group that issues next: of those that wait neither for an interlocked result nor for a bank, the first whose
word does not stall. -/
def State.nextSplit (s : State) (c slot : Nat) (stalled : BitVec 16) (g : Group) : Option Nat :=
  g.splitOrder.find? (fun i => !stalled.getLsbD (4 * (slot % 4) + i) && !stalls c slot (s.attempt c slot i))

/-- A group in `mwait` issues in the clock after its batch completed, where that kept the times of R266. -/
def Core.rested (k : Core) (g : Group) (now : Nat) : Bool :=
  match g.wait with
  | .mwait _ => k.times.batchAt.all (fun t => decide (t < now))
  | _ => true

/-- A group that no wait keeps from issuing (R80, R90, R99, R102, R266, R344). -/
def State.mayIssue (s : State) (c slot : Nat) (g : Group) : Bool :=
  let gr := s.grid g.grid
  g.spill.isNone && g.raised.isNone && g.live != 0 && !g.arrived && gr.phase == .resident &&
    g.eligible (s.part gr.part).isX && (((s.core c).waitOver slot g && (s.core c).rested g s.clock) || g.stragglerDue)

/-- The ready groups of a scheduler, oldest first, each with the split that would issue. -/
def State.readyGroups (s : State) (c sched : Nat) (stalled : BitVec 16) : List (Nat × Group × Nat) :=
  ((s.core c).schedGroups sched).filterMap (fun x =>
    if s.mayIssue c x.1 x.2 then (s.nextSplit c x.1 stalled x.2).map (fun i => (x.1, x.2, i)) else none)

/-- The groups of a scheduler whose next word waits for a settle are parked before it and are not ready (R80, R82). -/
def State.parkGroups (s : State) (c sched : Nat) (stalled : BitVec 16) : State :=
  ((s.core c).schedGroups sched).foldl (fun s x =>
    if x.2.anyPending && s.mayIssue c x.1 x.2 then
      match (s.nextSplit c x.1 stalled x.2).map (s.attempt c x.1) with
      | some (.next s') => if parks c x.1 (.next s') then s' else s
      | _ => s
    else s) s

/-- The group that issues: the oldest of those passed over 64 times, or the oldest. -/
def chosen (l : List (Nat × Group × Nat)) : Option (Nat × Group × Nat) :=
  (l.find? (fun x => decide (64 ≤ x.2.1.skip))).orElse (fun _ => l.head?)

/-- The skip counts of a clock in which the group of a slot issues. -/
def State.countSkips (s : State) (c slot : Nat) (ready : List (Nat × Group × Nat)) : State :=
  s.modCore c (fun k => ready.foldl (fun k x =>
    match k.group x.1 with
    | some g => k.setGroup x.1 (some { g with skip := if x.1 = slot then 0 else g.skip + 1 })
    | none => k) k)

/-! ## The freeze (R356) -/

/-- A group may still issue after a freeze: at most 16 words within 16 clocks. -/
def State.mayCoast (s : State) (c : Nat) (g : Group) : Bool :=
  decide (s.clock < (s.cluster (c / 8)).skidUntil) && decide (g.gskSkid < 16)

/-- The group of a slot issues in a frozen cluster, as `GSKID` counts. -/
def State.countSkid (s : State) (c slot : Nat) : State := s.modGroup c slot (fun g => { g with gskSkid := g.gskSkid + 1 })

/-- The turn of a split issues its word: no trap is taken and no settle parks the group before it, it does not wait for a result or an
entry, and it is not the word that the group has been waiting in, which issued before (log 36). -/
def State.issues (s : State) (c slot split : Nat) : Bool :=
  match s.group c slot, State.turn { s with cur := { core := c, slot := slot, split := split } } c slot split with
  | some g, .run i s' =>
    !g.wait.within && (match exec i s' with
      | .next t => !(t.group c slot).any (fun g => g.wait.before)
      | _ => true)
  | _, _ => false

/-- The turn of a split ends the wait of a word that issued before (log 36), which a freeze does not hold back. -/
def State.resumes (s : State) (c slot split : Nat) : Bool :=
  (s.group c slot).any (fun g => g.wait.within) &&
    match State.turn { s with cur := { core := c, slot := slot, split := split } } c slot split with
    | .run _ _ => true
    | .stop _ => false

/-- A step leaves its group blocked. -/
def blocked (c slot : Nat) : Host.Outcome State Fault Refusal → Bool
  | .next s => (s.group c slot).any (fun g => g.wait != .ready || g.arrived || g.raised.isSome)
  | _ => false

/-- The split that a STEP would let issue: of the group of slot SGRP, where its core is frozen and the group may issue. -/
def State.stepChoice (s : State) (c sched : Nat) : Option (Nat × Nat) :=
  let k := s.core c
  if (s.cluster (c / 8)).frozen && k.step && k.sgrp.toNat / 4 == sched then
    ((s.readyGroups c sched 0).find? (fun x => x.1 == k.sgrp.toNat)).map (fun x => (x.1, x.2.2))
  else none

/-- STEP: the group of slot SGRP issues one word, and STEP clears; STEPB says whether the group ended blocked. What comes before the
word (a trap that is taken, a settle that parks the group, the end of a wait) leaves STEP set (log 22). -/
def State.stepOne (s : State) (c slot split : Nat) : Host.Outcome State Fault Refusal :=
  if s.issues c slot split then
    (s.modCore c (fun k => { k with step := false, stepb := blocked c slot (s.attempt c slot split) })).attempt c slot split
  else s.attempt c slot split

/-! ## A clock of a scheduler -/

/-- The group that issues, with its split, once settles have parked the others. -/
def State.choose (s : State) (c sched : Nat) (stalled : BitVec 16) : Option (Nat × Nat × State) :=
  let s := s.parkGroups c sched stalled
  let frozen := (s.cluster (c / 8)).frozen
  let ready := (s.readyGroups c sched stalled).filter (fun x => !frozen || s.mayCoast c x.2.1 || s.resumes c x.1 x.2.2)
  (chosen ready).map (fun x =>
    let s1 := s.countSkips c x.1 ready
    (x.1, x.2.2, if frozen && s.issues c x.1 x.2.2 then s1.countSkid c x.1 else s1))

/-- One clock of a scheduler: at most one word issues (R80). -/
def State.issue (s : State) (c sched : Nat) (stalled : BitVec 16) : Host.Outcome State Fault Refusal :=
  match s.stepChoice c sched with
  | some x => s.stepOne c x.1 x.2
  | none =>
    match s.choose c sched stalled with
    | some x => x.2.2.attempt c x.1 x.2.1
    | none => .next (s.parkGroups c sched stalled)

/-! ## The agenda (log 3) -/

/-- A write of host memory by the host: ignored beyond the 64-bit address space. -/
def State.hostWrite (s : State) (addr : Dword) (bytes : List Byte) : State :=
  if addr.toNat + bytes.length ≤ 2 ^ 64 then { s with host := Memory.store s.host addr.toNat bytes } else s

/-- An engine moves one piece of a command of several; a word of a queued store is named by its slot and place (R329). -/
def State.pieceMove (s : State) (c : Nat) (e : Engine) (idx : Nat) : State :=
  match e with
  | .copy => s.copyPiece c idx
  | .exchange => s.xferPiece c idx
  | .writeQueues => s.drainPiece c (idx % 16) (idx / 16)
  | _ => s

/-- A unit begins the command at the head of its queue (R329). -/
def State.beginMove (s : State) (c : Nat) (e : Engine) : State :=
  match e with
  | .matrix => s.beginMatrix c
  | .coverage => s.beginCov c
  | _ => s

/-- The team of the command at the head of an engine's queue, if that command may read memory now: what it acquires is visible,
and nothing else holds it back. -/
def State.readerOf (s : State) (c : Nat) (e : Engine) : Option Nat :=
  let k := s.core c
  let seen := fun (slot : Nat) (acq : Bool) (id : Nat) =>
    !acq || ((k.group slot).map (fun g => g.wq.all (fun q => decide (id ≤ q.id)))).getD true
  match e with
  | .decode => k.decq.head?.bind (fun x => if seen x.slot x.acq x.acqId then some x.team else none)
  | .matrix => k.mq.head?.bind (fun x => if k.matrixReady x && seen x.slot x.acq x.acqId then some x.team else none)
  | .coverage => k.cq.head?.bind (fun x => if k.covReady x && seen x.slot x.acq x.acqId then some x.team else none)
  | _ => none

/-- An engine reads a word ahead for the command at its head (R256, R332). -/
def State.aheadMove (s : State) (c : Nat) (e : Engine) (spc : Space) (off : Nat) : State :=
  match s.readerOf c e with
  | some j => s.readEarly c j e spc off
  | none => s

/-- One move. An event row happens as its meaning says; the meaning of a word runs only when a group issues it. -/
def State.move (s : State) (m : Move) : Host.Outcome State Fault Refusal :=
  match m with
  | .issue c sched stalled => s.issue c.val sched.val stalled
  | .event i => if (encode i).isNone then exec i s else .next s
  | .hostWrite a bs => .next (s.hostWrite a bs)
  | .tick n => .next (s.tick n)
  | .piece c e idx => .next (s.pieceMove c.val e idx)
  | .begin c e => .next (s.beginMove c.val e)
  | .ahead c e spc off => .next (s.aheadMove c.val e spc off)
  | .arrive idx => .next (s.arrive idx)
  | .fetchAhead c slot pc => .next (s.fetchAhead c.val slot.val pc)
  | .take c sched => .next (s.takeTransform c.val sched.val)
  | .resend _ => .next (if s.power then { s with retry := satAdd s.retry 1 } else s)

/-- The events that a core's own state may call for. -/
def State.coreEvents (s : State) (c : Fin 256) : List Instr :=
  let k := s.core c.val
  let quiet := k.groupList.isEmpty && k.teamList.isEmpty && k.walks.isEmpty && k.xfers.isEmpty && k.copies.isEmpty &&
    k.decq.isEmpty && k.mq.isEmpty && k.cq.isEmpty && k.run.isNone && k.mowner.isNone
  if quiet then []
  else
    k.groupList.flatMap (fun x =>
      let j := Fin.ofNat 16 x.1
      Instr.trapEntry c j :: (List.range x.2.inflight.length).map (fun i => Instr.loadDataReturn c j i) ++
        (List.range 8).map (fun i => Instr.writeQueueDrain c j (Fin.ofNat 8 i)) ++ [Instr.groupEnd c j]) ++
    (List.range 4).flatMap (fun i =>
      let d := Fin.ofNat 4 i
      [Instr.transformResultReturn c d, .regrowGrant c d, .groupSpill c d, .groupSpillRestore c d]) ++
    (List.range k.walks.length).map (fun i => Instr.pageWalkComplete c i) ++
    (k.copies.take 1).map (fun _ => Instr.copyComplete c 0) ++
    [.decodeResultReturn c, .decodeTableLoadComplete c, .cruiserEmit c, .matrixCommandExecute c, .batchComplete c,
     .coverageCommandExecute c] ++
    (List.range k.xfers.length).flatMap (fun i => [Instr.transferComplete c i, .packetDeliver c i false]) ++
    (List.range 16).map (fun j => Instr.barrierRelease c (Fin.ofNat 16 j)) ++ [.matrixUnitClear c] ++
    allEngines.map (fun e => Instr.engineLandingAck c e)

/-- The events that partitions, queues and grids may call for. -/
def State.deviceEvents (s : State) : List Instr :=
  (List.range 16).flatMap (fun p =>
    if (s.part p).opened then [Instr.stragglerTimeout (Fin.ofNat 16 p), .landing (Fin.ofNat 16 p)] else []) ++
  s.grids.flatMap (fun g => [Instr.contextRemovalComplete g.id, .repsigHashComplete g.id, .gridRetire g.id]) ++
  (List.range 64).flatMap (fun q =>
    (List.range (s.queue q).ready.length).map (fun i => Instr.nodeLaunch (Fin.ofNat 64 q) i) ++ [Instr.nodeTake (Fin.ofNat 64 q)])

/-- The first of some events that changes the state. -/
def State.firstEvent (s : State) : List Instr → Option State
  | [] => none
  | i :: t =>
    match exec i s with
    | .next s' => if s' = s then s.firstEvent t else some s'
    | _ => s.firstEvent t

/-- The schedulers of the cores with resident groups. -/
def State.schedulers (s : State) : List (Nat × Nat) :=
  (List.range 256).flatMap (fun c => if (s.core c).groupList.isEmpty then [] else (List.range 4).map (fun i => (c, i)))

/-- A scheduler has a group to issue. -/
def State.hasIssue (s : State) (x : Nat × Nat) : Bool := (s.stepChoice x.1 x.2).isSome || (s.choose x.1 x.2 0).isSome

/-- The next scheduler with a group to issue in the present clock: one after the last that issued. -/
def State.nextIssuer (s : State) : Option (Nat × Nat) :=
  (s.schedulers.filter (fun x => !lexLe [x.1, x.2] [s.cur.core, s.cur.slot / 4])).find? s.hasIssue

/-- The first late word that may arrive. -/
def State.nextArrival (s : State) : Option Nat :=
  s.late.findIdx? (fun w => !s.late.any (fun x => w.after.contains x.cmd))

/-- A step with nothing on the agenda: a late word arrives, else an event that the state calls for, else a word issues on the next
scheduler of the present clock, else a clock passes, in which the first scheduler issues. -/
def State.idleStep (s : State) : Host.Outcome State Fault Refusal :=
  match s.nextArrival with
  | some i => .next (s.arrive i)
  | none =>
  match s.firstEvent ((List.range 256).flatMap (fun c => s.coreEvents (Fin.ofNat 256 c)) ++ s.deviceEvents) with
  | some s' => .next s'
  | none =>
    match s.nextIssuer with
    | some x => s.issue x.1 x.2 0
    | none =>
      let t := s.tick 1
      match t.schedulers.find? t.hasIssue with
      | some x => t.issue x.1 x.2 0
      | none => .next t

end Sys2Proof.Machine
end

