-- ==== Sys2Proof/Machine/Step.lean ====
section
/-! DEFINITION. One step of the machine: the next move of the agenda, or, with none left, what the state calls for
(log 3); and a state whose next step fetches and runs a given word. -/

namespace Sys2Proof.Machine

open Sys2Proof

/-- One step. -/
def step (s : State) : Host.Outcome State Fault Refusal :=
  match s.agenda with
  | [] => s.idleStep
  | m :: t => State.move { s with agenda := t } m

/-! ## A word placed for the next fetch -/

/-- The launch record of the placed word's grid: version 3, all registers, FP32 format slots, its code at 0. -/
def placedRecord : LaunchRec :=
  { LaunchRec.zero with
    ver := 3, teams := 1, gpt := 1, blk := 12, aff := 8, idx := 8, scratch := 0x10000,
    slots := List.replicate 8 { kind := 1, bsc := 0, d := 0, ro := 0, off := 0 } }

/-- Its grid, of one word. -/
def placedGrid (id : Nat) : Grid :=
  { Grid.zero with id := id, lrec := placedRecord, codesz := 8, nextTeam := 1, teamsLeft := 1, phase := .resident }

/-- Its team. -/
def placedTeam (id : Nat) : Team :=
  { Team.zero with grid := id, scratch := 0x10000, children := List.replicate 8 none }

/-- Host memory with the page tables that map address 0 to a 2 MiB host page, and the word at its start. -/
def placedHost (host : Memory) (w : Nat) : Memory :=
  Store.writeAll host ((List.range 8).map (fun i => (0x200000 + i, (leBytes 8 w).getD i 0)) ++
    [(0x1000, 0x01), (0x1001, 0x20), (0x2000, 0x01), (0x2001, 0x30), (0x3000, 0x83), (0x3001, 0x00), (0x3002, 0x20)])

/-- The state in which a group of core 0, alone in its clock, is about to fetch the word `w` (log 34). -/
def State.withFetchWord (s : State) (nbits w : Nat) : State :=
  let id := s.nextId
  let g := Group.start (placedGrid id) id 0 0 (s.part 0).isX 0 (List.range 12) 0
  let s1 : State := { s with
    agenda := .issue 0 0 0xFFF0 :: s.agenda
    host := placedHost s.host (w % 2 ^ nbits)
    grids := placedGrid id :: s.grids
    nextId := id + 1 }
  let s2 := s1.modPart 0 (fun p => { p with opened := true, first := 0, ncl := 1, ptroot := 0x1000 })
  let s3 := s2.modCluster 0 (fun k => { k with frozen := false })
  s3.modCore 0 (fun k => { ((k.setTeam 0 (some (placedTeam id))).setGroup 0 (some g)) with icache := [], itlb := [] })

end Sys2Proof.Machine
end

