-- ==== Sys2Proof/WellFormed.lean ====
section
/-! DEFINITION. Which instructions the encoding admits: operand classes, even and aligned register numbers,
holds and modifier values, as the field tables of the chapters give them (R57-R67, R104, R127, R141, R164,
R180, R194, R210, R211, R242, R284, R305, R346). The bounds that the launch record sets are checked when the
word issues. -/

namespace Sys2Proof

/-- A hold names a direct vector register among the sources that a hold may name (R64). -/
def holdWf (h : Hold) (a b c : Option Reg) : Bool :=
  match h with
  | .none => true
  | .a => a.any RegClass.vecd.has
  | .b => b.any RegClass.vecd.has
  | .c => c.any RegClass.vecd.has

/-- A destination of class `dc` and sources `a`, `b`, `c` of any class. -/
def srcWf (dc : RegClass) (h : Hold) (d : Reg) (a : Reg) (b c : Option Reg) : Bool :=
  dc.has d && holdWf h (some a) b c

/-- A pair half (R67): B is not `v[ik]`, and a held B is a direct vector register. -/
def HalfRegs.wf (x : HalfRegs) : Bool :=
  match x.b with
  | .vi _ => false
  | .v _ => true
  | _ => !x.hb

/-- The pair halves are well formed. -/
def pairWf (x : HalfRegs) (y : PairHalf) : Bool := x.wf && y.r.wf

/-- A descriptor register of `bfx` and `bfi`, when there is one. -/
def FieldDesc.reg? : FieldDesc → Option Reg
  | .imm _ _ => none
  | .reg r => some r

/-- The mode and conversion types of `cvt` (R172). -/
def CvtForm.wf : CvtForm → Bool
  | .one st dt => st.fmt != dt
  | .two _ _ => true

/-- The second source of `cvt`, in its packing forms. -/
def CvtForm.reg? : CvtForm → Option Reg
  | .one _ _ => none
  | .two _ b => some b

/-- `pmov`'s operands (R145). -/
def PmovForm.wf (h : Hold) : PmovForm → Bool
  | .tov d _ => RegClass.vs.has d && h == .none
  | .fromv _ a => holdWf h (some a) none none
  | .pack d => RegClass.vs.has d && h == .none
  | .unpack a => holdWf h (some a) none none

/-- `vote`'s destination (R148). -/
def VoteForm.wf : VoteForm → Bool
  | .ballot d | .cnt d => RegClass.vs.has d
  | .any _ | .all _ | .eq _ => true

/-- `afcond`'s mode (R200). -/
def CondMode.wf (h : Hold) : CondMode → Bool
  | .detach => h == .none
  | .cnt k rad => h == .none && k.toNat ≤ 8 && (rad || k.toNat != 0)
  | .thr _ t => holdWf h none (some t) none

/-- `afterm`'s selector (R205). -/
def TermSel.wf (h : Hold) : TermSel → Bool
  | .coef j | .sym j => holdWf h none (some j) none
  | .cnt | .flags => h == .none

/-- A memory-form word without D read: BASE alone may be held. -/
def baseWf (bc : RegClass) (h : Hold) (base : Reg) : Bool :=
  bc.has base && holdWf h (some base) none none

/-- A load (R210). -/
def loadWf (bc : RegClass) (h : Hold) (d base : Reg) (size : MSize) : Bool :=
  RegClass.vec.has d && baseWf bc h base && regsOk d size.regs

/-- A store (R210). -/
def storeWf (bc : RegClass) (h : Hold) (d base : Reg) (space : Space) (size : MSize) (col : Fin 8) : Bool :=
  bc.has base && holdWf h (some base) (some d) none && regsOk d size.regs && size.isStore &&
    (col.val == 0 || space == .vt)

/-- The operands of `xatom` (R305). -/
def xatomWf (a b : Reg) (c : Option Reg) (w64 : Bool) (op : AtomOp) : Bool :=
  let dc : RegClass := if w64 then .evenVS else .vds
  RegClass.evenVS.has a && dc.has b && (c.isSome == (op == .cas)) && c.all dc.has

/-- Whether an instruction is one that the encoding admits. -/
def Instr.wf : Instr → Bool
  | .nop .. => true
  | .bra .. => true
  | .brx _ h a _ => RegClass.vs.has a && holdWf h (some a) none none
  | .call _ d _ _ => RegClass.vsc0.has d
  | .ret _ h a _ => RegClass.vs.has a && holdWf h (some a) none none
  | .bar .. => true
  | .barr .. => true
  | .barw .. => true
  | .barrierRelease .. => true
  | .yield _ d _ => RegClass.s0.has d
  | .exit .. => true
  | .groupEnd .. => true
  | .matrixUnitClear .. => true
  | .launch _ d a => RegClass.s0.has d && RegClass.evenS.has a
  | .chwait _ d a _ => RegClass.s0.has d && RegClass.s0.has a
  | .phase .. => true
  | .post _ a => RegClass.sc.has a
  | .regrow _ n => 1 ≤ n.toNat && n.toNat ≤ 11
  | .regrowGrant .. => true
  | .groupSpill .. => true
  | .groupSpillRestore .. => true
  | .regshrink _ n => 1 ≤ n.toNat && n.toNat ≤ 11
  | .splitq _ d _ => RegClass.vec.has d
  | .brk .. => true
  | .mov _ h d a => srcWf .vs h d a none none
  | .movPair _ x y => pairWf x y
  | .movi _ d _ => RegClass.vs.has d
  | .iadd _ h d a b _ _ => srcWf .vs h d a (some b) none
  | .iaddImm _ d _ _ => RegClass.vs.has d
  | .iaddPair _ _ x y => pairWf x y
  | .isub _ h d a b _ _ => srcWf .vs h d a (some b) none
  | .isubImm _ d _ _ => RegClass.vs.has d
  | .isubPair _ _ x y => pairWf x y
  | .imul _ h d a b _ _ => srcWf .vs h d a (some b) none
  | .imulImm _ d _ _ => RegClass.vs.has d
  | .imulh _ h d a b _ => srcWf .vs h d a (some b) none
  | .imad _ h d a b c sat ty => srcWf .vs h d a (some b) (some c) && !(sat && ty == .n32)
  | .iaddc _ h d a b _ _ => srcWf .vs h d a (some b) none
  | .isubb _ h d a b _ _ => srcWf .vs h d a (some b) none
  | .imin _ h d a b _ => srcWf .vs h d a (some b) none
  | .iminImm _ d _ _ => RegClass.vs.has d
  | .iminPair _ _ x y => pairWf x y
  | .imax _ h d a b _ => srcWf .vs h d a (some b) none
  | .imaxImm _ d _ _ => RegClass.vs.has d
  | .imaxPair _ _ x y => pairWf x y
  | .iabs _ h d a _ => srcWf .vs h d a none none
  | .iabsPair _ x y => pairWf x y
  | .ineg _ h d a _ => srcWf .vs h d a none none
  | .inegPair _ x y => pairWf x y
  | .icmp _ h _ a b _ _ => holdWf h (some a) (some b) none
  | .isel _ h d a b _ => srcWf .vs h d a (some b) none
  | .lea _ h d a b _ => srcWf .vs h d a (some b) none
  | .and _ h d a b => srcWf .vs h d a (some b) none
  | .andImm _ d _ _ => RegClass.vs.has d
  | .andPair _ x y => pairWf x y
  | .or _ h d a b => srcWf .vs h d a (some b) none
  | .orImm _ d _ _ => RegClass.vs.has d
  | .orPair _ x y => pairWf x y
  | .xor _ h d a b => srcWf .vs h d a (some b) none
  | .xorImm _ d _ _ => RegClass.vs.has d
  | .xorPair _ x y => pairWf x y
  | .not _ h d a => srcWf .vs h d a none none
  | .andn _ h d a b => srcWf .vs h d a (some b) none
  | .andnImm _ d _ _ => RegClass.vs.has d
  | .shl _ h d a b => srcWf .vs h d a (some b) none
  | .shlImm _ d _ _ => RegClass.vs.has d
  | .shlPair _ x y => pairWf x y
  | .shr _ h d a b => srcWf .vs h d a (some b) none
  | .shrImm _ d _ _ => RegClass.vs.has d
  | .shrPair _ x y => pairWf x y
  | .sar _ h d a b => srcWf .vs h d a (some b) none
  | .sarImm _ d _ _ => RegClass.vs.has d
  | .sarPair _ x y => pairWf x y
  | .rot _ h d a b _ => srcWf .vs h d a (some b) none
  | .rotImm _ d _ _ => RegClass.vs.has d
  | .fsh _ h d a b c _ => srcWf .vs h d a (some b) (some c)
  | .bfx _ h d a f _ => srcWf .vs h d a f.reg? none
  | .bfi _ h d a b f => srcWf .vs h d a (some b) f.reg?
  | .popc _ h d a => srcWf .vs h d a none none
  | .clz _ h d a => srcWf .vs h d a none none
  | .brev _ h d a => srcWf .vs h d a none none
  | .prmt _ h d a b c => srcWf .vs h d a (some b) (some c)
  | .ixset _ h _ a => holdWf h (some a) none none
  | .ixsetImm .. => true
  | .ixsetGet _ d _ => RegClass.vs.has d
  | .ixadd _ h _ _ b => holdWf h none (some b) none
  | .ixaddImm .. => true
  | .ixbnd _ a b => RegClass.sc.has a && RegClass.sc.has b
  | .pset .. => true
  | .pmov _ h f => f.wf h
  | .shfl _ h d a b _ _ => RegClass.vec.has a && RegClass.sc.has b && srcWf .vec h d a none none
  | .shflx _ h d a b _ _ => RegClass.vec.has a && RegClass.vec.has b && srcWf .vec h d a (some b) none
  | .bcast _ h d a b => RegClass.vec.has a && RegClass.sc.has b && srcWf .s h d a none none
  | .vote _ f _ => f.wf
  | .rdsp _ d _ => RegClass.vs.has d
  | .fadd _ h d a b _ => srcWf .vec h d a (some b) none
  | .faddImm _ d _ _ => RegClass.vec.has d
  | .faddPair _ _ x y => pairWf x y
  | .fsub _ h d a b _ => srcWf .vec h d a (some b) none
  | .fsubImm _ d _ _ => RegClass.vec.has d
  | .fsubPair _ _ x y => pairWf x y
  | .fmul _ h d a b _ => srcWf .vec h d a (some b) none
  | .fmulImm _ d _ _ => RegClass.vec.has d
  | .fmulPair _ _ x y => pairWf x y
  | .ffma _ h d a b c _ _ _ => srcWf .vec h d a (some b) (some c)
  | .fmin _ h d a b => srcWf .vec h d a (some b) none
  | .fminImm _ d _ _ => RegClass.vec.has d
  | .fminPair _ x y => pairWf x y
  | .fmax _ h d a b => srcWf .vec h d a (some b) none
  | .fmaxImm _ d _ _ => RegClass.vec.has d
  | .fmaxPair _ x y => pairWf x y
  | .fcmp _ h _ a b _ => holdWf h (some a) (some b) none
  | .fclass _ h d a => srcWf .vec h d a none none
  | .frnd _ h d a _ => srcWf .vec h d a none none
  | .hadd2 _ h d a b _ _ => srcWf .vec h d a (some b) none
  | .hadd2Imm _ d _ _ => RegClass.vec.has d
  | .hadd2Pair _ _ x y => pairWf x y
  | .hmul2 _ h d a b _ _ => srcWf .vec h d a (some b) none
  | .hmul2Imm _ d _ _ => RegClass.vec.has d
  | .hmul2Pair _ _ x y => pairWf x y
  | .hfma2 _ h d a b c _ _ => srcWf .vec h d a (some b) (some c)
  | .cvt _ h d a f _ => srcWf .vec h d a f.reg? none && f.wf
  | .f2i _ h d a _ _ _ => srcWf .vec h d a none none
  | .i2f _ h d a _ _ _ => srcWf .vec h d a none none
  | .kpack _ h d a _ => RegClass.vec.has a && srcWf .vec h d a none none
  | .kunpk _ h d a _ => RegClass.vec.has a && srcWf .vec h d a none none
  | .rqz _ h d a b _ => RegClass.vec.has a && RegClass.sc.has b && srcWf .vec h d a none none
  | .frcp _ h d a _ => srcWf .vec h d a none none
  | .frsq _ h d a _ => srcWf .vec h d a none none
  | .fsqrt _ h d a _ => srcWf .vec h d a none none
  | .fex2 _ h d a _ => srcWf .vec h d a none none
  | .flg2 _ h d a _ => srcWf .vec h d a none none
  | .fsin _ h d a _ => srcWf .vec h d a none none
  | .fcos _ h d a _ => srcWf .vec h d a none none
  | .ftanh _ h d a _ => srcWf .vec h d a none none
  | .transformResultReturn .. => true
  | .afset _ h _ a b _ => holdWf h (some a) (some b) none
  | .afint _ h _ a b => holdWf h (some a) (some b) none
  | .afmov .. => true
  | .afadd .. => true
  | .afsub .. => true
  | .afscl _ h _ _ b => holdWf h none (some b) none
  | .afaddc _ h _ _ b => holdWf h none (some b) none
  | .afmul .. => true
  | .afsqr .. => true
  | .afrcp .. => true
  | .afdiv .. => true
  | .afsqrt .. => true
  | .afcond _ h _ _ mode => mode.wf h
  | .afctr _ d _ => RegClass.vs.has d
  | .afrad _ d _ => RegClass.vs.has d
  | .aflo _ d _ => RegClass.vs.has d
  | .afhi _ d _ => RegClass.vs.has d
  | .afcmp _ pt _ _ pf _ => pt != pf || pt == 0
  | .afrel _ a b => RegClass.sc.has a && RegClass.sc.has b
  | .afrelAll .. => true
  | .afsymq _ d _ => RegClass.vs.has d
  | .afterm _ h d _ sel => RegClass.vs.has d && sel.wf h
  | .ld _ h d base _ _ size _ => loadWf .vs h d base size
  | .ldg _ h d base _ _ size _ => loadWf .evenVS h d base size
  | .ldgf _ h d base _ _ size => loadWf .evenVS h d base size
  | .loadDataReturn .. => true
  | .st _ h d base _ space size col => storeWf .vs h d base space size col
  | .stg _ h d base _ space size col => storeWf .evenVS h d base space size col
  | .writeQueueDrain .. => true
  | .atom _ h d base _ space w64 col op => RegClass.vecd.has d && RegClass.vs.has base && holdWf h (some base) (some d) none && regsOk d (atomRegs w64 op) && (col.val == 0 || space == .vt)
  | .atomb _ h d base _ _ w64 op => RegClass.vds.has d && RegClass.vs.has base && holdWf h (some base) (some d) none && regsOk d (atomRegs w64 op)
  | .fence _ _ skip => skip != 0xFF
  | .resq _ h _ a wide => baseWf (if wide then .evenVS else .vs) h a
  | .pgreq _ h base _ _ _ wide => baseWf (if wide then .evenVS else .vs) h base
  | .prf _ h base _ _ wide => baseWf (if wide then .evenVS else .vs) h base
  | .pageWalkComplete .. => true
  | .cpy _ d a b c scope rel acq _ _ => scope.okWith (acq || rel) && RegClass.s0.has d && RegClass.sc.has a && RegClass.sc.has b && RegClass.sc.has c
  | .copyComplete .. => true
  | .cpyw _ a => RegClass.s0.has a
  | .dectab _ a b scope acq _ => scope.okWith acq && RegClass.sc.has a && RegClass.sc.has b
  | .decv _ d a b scope acq _ _ => scope.okWith acq && RegClass.vecd.has d && RegClass.sc.has a && RegClass.sc.has b
  | .decodeResultReturn .. => true
  | .lscfg _ a => RegClass.sc.has a
  | .lsgo _ a => RegClass.s.has a
  | .cruiserEmit .. => true
  | .lswait _ d => RegClass.s0.has d
  | .ldstw _ a b c scope acq _ _ => scope.okWith acq && RegClass.sc.has a && RegClass.sc.has b && RegClass.sc.has c
  | .cbtab _ a b scope acq _ => scope.okWith acq && RegClass.sc.has a && RegClass.s0.has b
  | .swpl .. => true
  | .mma _ a c _ _ _ => RegClass.vecd.has a && RegClass.s0.has c
  | .mmas _ a b c _ _ => RegClass.sc.has a && RegClass.sc.has b && RegClass.sc.has c
  | .acz _ a b => RegClass.sc.has a && RegClass.sc.has b
  | .acld _ a b c scope acq _ _ => scope.okWith acq && RegClass.sc.has a && RegClass.sc.has b && RegClass.sc.has c
  | .drain _ a b c _ scope rel _ _ => scope.okWith rel && RegClass.sc.has a && RegClass.sc.has b && RegClass.sc.has c
  | .mfence _ d => RegClass.s0.has d
  | .mwait _ a => RegClass.s0.has a
  | .matrixCommandExecute .. => true
  | .batchComplete .. => true
  | .cvbegTile _ a b _ => RegClass.sc.has a && RegClass.sc.has b
  | .cvbegPath _ a _ => RegClass.sc.has a
  | .cvmono _ d a => RegClass.vecd.has d && RegClass.recS.has a
  | .cvdep _ d a b _ => RegClass.s0.has d && RegClass.recS.has a && RegClass.sc.has b
  | .cvscan .. => true
  | .cvrefine _ d _ => RegClass.s0.has d
  | .cvpush .. => true
  | .cvpop .. => true
  | .cvspan _ d a c _ => RegClass.vecd.has d && RegClass.sc.has a && RegClass.s0.has c
  | .cvblend _ a b _ _ => RegClass.evenV.has a && RegClass.vec.has b
  | .tsave _ d a scope rel _ => scope.okWith rel && RegClass.s0.has d && RegClass.sc.has a
  | .tload _ d a b scope acq _ => scope.okWith acq && RegClass.s0.has d && RegClass.sc.has a && RegClass.sc.has b
  | .cvq _ d sel tc => (if sel == .recd then RegClass.evenS.has d else RegClass.s.has d) && (tc.val == 0 || !(sel == .recd || sel == .openMask))
  | .cvend _ d _ => RegClass.s0.has d
  | .coverageCommandExecute .. => true
  | .xpull _ a b c _ rel acq scope rsp _ => scope.okWith (acq || rel) && (if rsp == .reg then RegClass.sc.has a else RegClass.evenS.has a) && RegClass.sc.has b && RegClass.sc.has c
  | .xpush _ a b c _ rel acq scope rsp _ => scope.okWith (acq || rel) && (if rsp == .reg then RegClass.sc.has a else RegClass.evenS.has a) && RegClass.sc.has b && RegClass.sc.has c
  | .xdrain _ a b c _ _ => RegClass.sc.has a && RegClass.sc.has b && RegClass.sc.has c
  | .xatom _ a b c _ _ w64 op => xatomWf a b c w64 op
  | .xcall _ a b c _ _ => RegClass.sc.has a && RegClass.sc.has b && RegClass.sc.has c
  | .xpageList _ d a b _ => RegClass.s0.has d && RegClass.sc.has a && RegClass.sc.has b
  | .xpageMap _ d a b _ => RegClass.s0.has d && RegClass.evenS.has a && RegClass.sc.has b
  | .xpageEvict _ d a b _ _ => RegClass.s0.has d && RegClass.evenS.has a && RegClass.evenS.has b
  | .xhost _ a b c _ rel acq scope _ _ => scope.okWith (acq || rel) && RegClass.evenS.has a && RegClass.sc.has b && RegClass.sc.has c
  | .xtier _ a b c _ rel acq scope _ _ => scope.okWith (acq || rel) && RegClass.evenS.has a && RegClass.sc.has b && RegClass.sc.has c
  | .xlink _ d a b c _ rel acq scope rsp _ _ => scope.okWith (acq || rel) && rsp != .reg && RegClass.sc.has d && RegClass.evenS.has a && RegClass.sc.has b && RegClass.sc.has c
  | .xwait _ d _ _ => RegClass.s0.has d
  | .transferComplete .. => true
  | .packetDeliver .. => true
  | .trap .. => true
  | .tret .. => true
  | .csrr _ d hi csr => csrOk hi csr && RegClass.vs.has d
  | .csrw _ d a hi csr => csrOk hi csr && RegClass.vsc0.has d && RegClass.sc.has a
  | .csrs _ d a hi csr => csrOk hi csr && RegClass.vsc0.has d && RegClass.sc.has a
  | .csrc _ d a hi csr => csrOk hi csr && RegClass.vsc0.has d && RegClass.sc.has a
  | .lpinv .. => true
  | .halt _ a => RegClass.sc.has a
  | .trapEntry .. => true
  | .stragglerTimeout .. => true
  | .engineLandingAck .. => true
  | .landing .. => true
  | .nodeTake .. => true
  | .nodeLaunch .. => true
  | .repsigHashComplete .. => true
  | .gridRetire .. => true
  | .preempt .. => true
  | .restore .. => true
  | .remove .. => true
  | .contextRemovalComplete .. => true
  | .reset .. => true
  | .queueEnable .. => true
  | .registerWrite .. => true
  | .partitionOpen .. => true
  | .partitionClose .. => true
  | .partitionUpdate .. => true
  | .debugFreeze .. => true
  | .debugThaw .. => true
  | .debugStep .. => true
  | .debugWindowRead .. => true
  | .debugWindowWrite .. => true
  | .flitReceive .. => true
  | .retryRequest .. => true
  | .linkTraining .. => true
  | .pairingExchange .. => true
  | .powerOn .. => true
  | .thermalThrottle .. => true
  | .thermalShutdown => true
  | .scrub .. => true
  | .uncorrectableError .. => true
  | .getVersion => true
  | .getCapabilities => true
  | .negotiateAlgorithms .. => true
  | .getDigests => true
  | .getCertificate .. => true
  | .challenge .. => true
  | .getMeasurements .. => true
  | .powerOff => true
  | .decodeTableLoadComplete .. => true
  | .recoveryImageWrite .. => true

end Sys2Proof
end

