-- ==== Sys2Proof/Safety.lean ====
section
/-! DEFINITION. The terms in which claims about runs are stated: when a word executes with nothing before it, what a word
may leave changed, and the invariants of the device's storage. -/

namespace Sys2Proof.Machine

open Sys2Proof

/-! ## Invariants -/

/-- The lists of a group that stand for its register files and tables have their sizes (R61-R63, R75, R223, R314). -/
def Group.shaped (g : Group) : Bool :=
  g.s.length == 24 && g.p.length == 8 && g.splits.length == 4 && g.frame.splits.length == 4 && g.logs.length == 2 &&
    g.tg.length == 8

/-- The lists of a core have their sizes (R11, R86, R182, R272, R355), and so have those of its groups. -/
def Core.shaped (k : Core) : Bool :=
  k.groups.length == 16 && k.teams.length == 16 && k.xpipe.length == 4 && k.ctxs.length == 4 && k.wpa.length == 4 &&
    k.groups.all (fun o => o.all Group.shaped)

/-- The lists of the device have their sizes (R9, R10, R25, R92), and so have those of its cores and saved images. -/
def State.shaped (s : State) : Bool :=
  s.cores.length == 256 && s.clusters.length == 32 && s.parts.length == 16 && s.queues.length == 64 &&
    s.cores.all Core.shaped && s.parts.all (fun p => p.image.all (fun i => i.cores.all (fun x => x.2.shaped)))

/-- The stores of a core are in their canonical form. -/
def Core.canonical (k : Core) : Bool :=
  Store.wf k.regs && Store.wf k.sp && Store.wf k.vault && Store.wf k.acc && Store.wf k.planes &&
    k.shownSp.all Store.wf && k.shownRegs.all Store.wf

/-- Every byte memory and register file of the device is in its canonical form: host memory, the second tier, what each
core and each cluster slice holds, and what saved images hold. -/
def State.canonical (s : State) : Bool :=
  Memory.wf s.host && Memory.wf s.tier && s.cores.all Core.canonical && s.clusters.all (fun k => Memory.wf k.prog) &&
    s.parts.all (fun p => p.image.all (fun i => i.cores.all (fun x => x.2.canonical)))

/-! ## When a word executes -/

/-- A word of form `f` executes in state `s`, in environment `e`: a group of the device issues it; no trap is due before
it; its settle wait is over; and every check of R72 passes. The group is resident, as a group that issues is (R90). -/
structure Form.Ready (f : Form) (e : Env) (s : State) : Prop where
  env : s.env f.g.pg.val f.g.pn = some e
  due : f.dueFirst e s = none
  settled : (f.g.settle && e.g.anyPending) = false
  checked : f.check e = .ok false
  shaped : e.g.shaped = true
  resident : e.g.spill = none

/-- The group-level form of a form (R105). -/
def Form.grouped (f : Form) : Form := { f with group := true }

/-- `Form.Ready` with a further condition, as a computation: for witnesses. -/
def Form.meets (f : Form) (s : State) (cond : Env → Bool) : Bool :=
  match s.env f.g.pg.val f.g.pn with
  | none => false
  | some e =>
    (f.dueFirst e s).isNone && !(f.g.settle && e.g.anyPending) && e.g.shaped && e.g.spill.isNone &&
      (match f.check e with
       | .ok b => !b
       | .error _ => false) && cond e

/-! ## What a word leaves unchanged -/

/-- Nothing outside core `c` differs between two states. -/
def SameBeyond (c : Nat) (s t : State) : Prop := { t with cores := s.cores } = s ∧ ∀ d, d ≠ c → t.core d = s.core d

/-- No memory outside core `c` differs between two states: not what other cores hold, not what the slices do, and neither host memory
nor the second tier. -/
structure SameMemories (c : Nat) (s t : State) : Prop where
  cores : ∀ d, d ≠ c → (t.core d).sp = (s.core d).sp ∧ (t.core d).vault = (s.core d).vault ∧ (t.core d).regs = (s.core d).regs ∧
    (t.core d).acc = (s.core d).acc ∧ (t.core d).planes = (s.core d).planes
  slices : ∀ i, (t.cluster i).prog = (s.cluster i).prog ∧ (t.cluster i).bounce = (s.cluster i).bounce ∧
    (t.cluster i).staged = (s.cluster i).staged ∧ (t.cluster i).ratoms = (s.cluster i).ratoms ∧
    (t.cluster i).linkPuts = (s.cluster i).linkPuts
  host : t.host = s.host
  tier : t.tier = s.tier

/-- A word changed nothing but its core's register file and its own group, which is now `g`. -/
structure OnlyGroup (e : Env) (s t : State) (g : Group) : Prop where
  beyond : SameBeyond e.core s t
  core : { t.core e.core with regs := e.k.regs, groups := e.k.groups } = e.k
  others : ∀ j, j ≠ e.slot → (t.core e.core).group j = e.k.group j
  group : t.group e.core e.slot = some g

/-- An operand is a vector register, named directly or by an index register. -/
def Reg.isVec : Reg → Bool
  | .v _ | .vi _ => true
  | _ => false

/-- A cell of the register file belongs to a destination in a passing lane. -/
def Env.owns (e : Env) (d : Reg) (a : Nat) : Prop :=
  Reg.isVec d = true ∧ ∃ l ∈ e.lanes, a = e.g.cell e.slot (e.vnum d l) l

/-- A word wrote `v` to its destination `d` in the passing lanes (R61, R121-R123), raised the flags `fl`, and changed
nothing else but its split's program counter, its latch records and its group's readiness: a vector destination takes each
lane's value; a scalar one takes the value of the lowest passing lane; a constant discards it. -/
structure Wrote (e : Env) (d : Reg) (v : Nat → Word) (fl : Flags) (s t : State) (g : Group) : Prop where
  only : OnlyGroup e s t g
  rest : { g with splits := e.g.splits, wait := e.g.wait, s := e.g.s, fpflg := e.g.fpflg } = e.g
  flags : g.fpflg = e.g.fpflg ||| fl
  vector : Reg.isVec d = true → ∀ l ∈ e.lanes, (t.core e.core).readV e.slot g (e.vnum d l) l = v l
  scalar : ∀ n, d = .s n → e.act ≠ 0 → g.scalar n.val = v (LaneMask.lowest e.act)
  scalars : ∀ n : Nat, ¬ (e.act ≠ 0 ∧ ∃ m : Fin 24, d = .s m ∧ m.val = n) → g.scalar n = e.g.scalar n
  cells : ∀ a, ¬ e.owns d a → Store.read (t.core e.core).regs a = Store.read e.k.regs a

/-- A word wrote the predicate `p` in the passing lanes, raised the flags `fl`, and changed nothing else but its split's
program counter, its latch records and its group's readiness; `p0` stays true (R63). -/
structure WrotePred (e : Env) (p : Fin 8) (v : Nat → Bool) (fl : Flags) (s t : State) (g : Group) : Prop where
  only : OnlyGroup e s t g
  regs : (t.core e.core).regs = e.k.regs
  rest : { g with splits := e.g.splits, wait := e.g.wait, p := e.g.p, fpflg := e.g.fpflg } = e.g
  flags : g.fpflg = e.g.fpflg ||| fl
  pred : ∀ l, l < 32 → p.val ≠ 0 → (g.pred p.val).getLsbD l = if e.act.getLsbD l then v l else (e.g.pred p.val).getLsbD l
  others : ∀ q, q ≠ p.val ∨ q = 0 → g.pred q = e.g.pred q

/-- A word changed nothing but its split's program counter, its latch records and its group's readiness. -/
structure WroteNothing (e : Env) (s t : State) (g : Group) : Prop where
  only : OnlyGroup e s t g
  regs : (t.core e.core).regs = e.k.regs
  rest : { g with splits := e.g.splits, wait := e.g.wait } = e.g

/-! ## The shapes of statements about words -/

/-- An instruction of form `f` completes, writes `v` to `d` and nothing else. -/
def Results (i : Instr) (f : Form) (d : Reg) (v : Env → Nat → Word) : Prop :=
  ∀ (s : State) (e : Env), f.Ready e s → ∃ t g, exec i s = .next t ∧ Wrote e d (v e) 0 s t g

/-- A floating-point instruction of form `f` whose lanes give the patterns and flags `r`: where no flag that it raises has
its trap enabled, it completes, writes the patterns to `d`, raises the flags, and does nothing else; where one has, the
flags stand, nothing is written, and it traps (R155). -/
def FpResults (i : Instr) (f : Form) (d : Reg) (r : Env → Nat → FpRes) : Prop :=
  ∀ (s : State) (e : Env), f.Ready e s →
    let fl := unionFlags e.lanes (fun l => (r e l).2)
    (fl &&& trapEnables e.g.fpctl = 0 →
      ∃ t g, exec i s = .next t ∧ Wrote e d (fun l => BitVec.ofNat 32 (r e l).1) fl s t g) ∧
    (fl &&& trapEnables e.g.fpctl ≠ 0 →
      exec i s = .next (e.trapAt s (s.modGroup e.core e.slot (fun g => { g with fpflg := g.fpflg ||| fl }))
        { cause := Causes.fpException, info := fl.setWidth 64, lane := 0 } e.sp.pc))

/-- An instruction of form `f` completes, writes the predicate `p` and nothing else. -/
def PredResults (i : Instr) (f : Form) (p : Fin 8) (v : Env → Nat → Bool) : Prop :=
  ∀ (s : State) (e : Env), f.Ready e s → ∃ t g, exec i s = .next t ∧ WrotePred e p (v e) 0 s t g

/-- An instruction of form `f` completes under a condition with the effect `eff`; its split goes on at the next word. -/
def Ends (i : Instr) (f : Form) (cond : Env → State → Prop) (eff : Env → State → State) : Prop :=
  ∀ (s : State) (e : Env), f.Ready e s → cond e s → exec i s = .next (e.advance (e.latch f (eff e s)))

/-- An instruction of form `f` completes under a condition in the state `t`, which says where its split goes on. -/
def Leads (i : Instr) (f : Form) (cond : Env → State → Prop) (t : Env → State → State) : Prop :=
  ∀ (s : State) (e : Env), f.Ready e s → cond e s → exec i s = .next (t e s)

/-- An instruction of form `f` takes a precise trap under a condition: nothing of its own effect happens. -/
def Traps (i : Instr) (f : Form) (cond : Env → State → Prop) (trap : Env → Trap) : Prop :=
  ∀ (s : State) (e : Env), f.Ready e s → cond e s → exec i s = .next (e.trapAt s s (trap e) e.sp.pc)

/-- A step of the device outside a word: it has the effect `eff` where `cond` holds, and changes nothing elsewhere. -/
def Happens (i : Instr) (cond : State → Prop) (eff : State → State) : Prop :=
  ∀ s : State, (cond s → exec i s = .next (eff s)) ∧ (¬ cond s → exec i s = .next s)

end Sys2Proof.Machine
end

