-- ==== Sys2Proof/Certificates/Slice0/Obligations.lean ====
section
/-! DEFINITION. The statements about the device: what its rules say an instruction or the machine does, each as a proposition.
An operand's value in a lane is `e.rd r l`, as the word's environment `e` reads it through its latch records (R61, R64). -/

open Sys2Proof Sys2Proof.Machine

/-! ## Encoding -/

/-- The words that the chapters print decode to the instructions they stand for (R56-R69, R305, and the worked words of
spec/03_encoding.md, spec/10_exchange.md and spec/15_prog_paths.md). -/
def Obligations.SpecWordsDecode : Prop :=
  let g : Guard := { settle := false, pg := 0, pn := false }
  decode 3 0x0000000000000000 = .ok (.nop g) ∧
  decode 3 0x0440080000010000 = .ok (.iadd g .b (.v 4) (.v 0) (.v 0) false .s32) ∧
  decode 3 0x04400E0FFFFFFFFD = .ok (.iaddImm g (.v 7) (.v 7) 0xFFFFFFFD) ∧
  decode 3 0x4002000000060800 = .ok (.movPair false { d := 2, b := .v 0, g := 0, hb := false }
    { op := .mov, r := { d := 3, b := .v 4, g := 0, hb := false } }) ∧
  decode 3 0x00240000000A0006 = .ok (.bra { g with pg := 1 } 5 6) ∧
  decode 3 0x9800120400301010 = .ok (.ld { g with settle := true } .none (.v 9) (.v 2) 24 .vt .n32 2) ∧
  decode 3 0x280001A9B1B20800 = .ok (.xpull g (.s 4) (.s 8) (.s 9) 1 false false .core .win .sp) ∧
  decode 3 0x2500003C3A000000 = .ok (.cvblend g (.v 30) (.v 29) .over 0)

/-- Decoding the word of a well-formed instruction gives it back: no bit of an encoding is dropped (R56-R69, and the
field tables of the chapters). -/
def Obligations.DecodeOfEncode : Prop :=
  ∀ (i : Instr) (w : BitVec 64), i.wf = true → encode i = some w → decode 3 w = .ok i

/-- A full-form word of an unassigned row is no instruction of any version (R70, R71): rows 0xC to 0xE are wholly
unassigned, and in row 0xF only column 31 is an instruction, `brk`. A full-form word with all of bits [61:53] set is `brk`
whatever its other bits hold (R55). -/
def Obligations.UnassignedRowsRefused : Prop :=
  ∀ (ver : Nat) (w : BitVec 64),
    (w.getLsbD 62 = false → 0x180 ≤ (w.extractLsb' 53 9).toNat → (w.extractLsb' 53 9).toNat < 0x1FF →
      decode ver w = .error Causes.illegalOpcode) ∧
    ((w.extractLsb' 53 9).toNat = 0x1FF → decode ver w = .ok (.brk (w.extractLsb' 62 2) (w.extractLsb' 0 53)))

/-! ## Steps -/

/-- A step whose next move is a clock of a scheduler executes the word that the chosen group fetches (R72, R80): when the
cluster is not frozen, the group chosen has no trap due, its program counter's word is fetched, is not `brk`, waits for nothing
under its settle bit, and decodes to `i`, the step is `exec i` with that group, slot and split current; of its next state the
core's record of what uses it is brought up to date (R266, log 62), and nothing else. A step with an event on the agenda is that
event's meaning; a word of the instruction rows never stands there (the model's own agenda, log 3). A word is fetched from the
grid's mapped code at its offset from CODE (R215): with nothing of it in the instruction cache for the grid and nothing of its
page in the instruction TLB, it is the eight bytes that the partition's translation now reaches, least significant first (R2),
and the fetch sets A in the page's leaf (R320). -/
def Obligations.StepRunsDecoded : Prop :=
  ((∀ (s s1 : State) (c : Fin 256) (sched : Fin 4) (stalled : BitVec 16) (t : List Move) (slot split : Nat) (g : Group)
    (sp : Split) (w : Dword) (i : Instr),
    s.agenda = .issue c sched stalled :: t →
    (s.cluster (c.val / 8)).frozen = false →
    State.choose { s with agenda := t } c.val sched.val stalled = some (slot, split, s1) →
    s1.group c.val slot = some g → g.split split = some sp → g.dueBefore = false → g.gatherDue = false →
    (State.fetch { s1 with cur := { core := c.val, slot := slot, split := split } } c.val (s1.grid g.grid) sp.pc).2 = some w →
    isBrk w = false → (w.getLsbD 63 && g.anyPending) = false → decode (s1.grid g.grid).lrec.ver.toNat w = .ok i →
    let u := (State.fetch { s1 with cur := { core := c.val, slot := slot, split := split } } c.val (s1.grid g.grid) sp.pc).1
    step s = match exec i u with
      | .next v => .next (u.noteUse v c.val slot i)
      | o => o) ∧
  (∀ (s t : State) (c slot : Nat) (i : Instr), ∃ u o,
    s.noteUse t c slot i = t.modCore c (fun k => { k with uses := u, otherUse := o })) ∧
  (∀ (s : State) (i : Instr) (t : List Move), s.agenda = .event i :: t →
    step s = if encode i = none then exec i { s with agenda := t } else .next { s with agenda := t })) ∧
  (∀ (s : State) (c : Nat) (gr : Grid) (pc : Word) (bs : List Byte), gr.mapped pc = true →
    let a := (gr.lrec.code.toNat + pc.toNat) % 2 ^ 48
    a % 8 = 0 → (∀ w ∈ (s.core c).icache, ¬ (w.grid = gr.id ∧ w.addr = a)) → (∀ x ∈ (s.core c).itlb, x.covers a = false) →
    s.bytesAt gr.part a 8 = some bs →
    (s.fetch c gr pc).2 = some (BitVec.ofNat 64 (leNat bs)) ∧
    (∀ l x, walk s.host (s.part gr.part) a = some l → l.ref = .host x →
      Memory.dword (s.fetch c gr pc).1.host x = l.pte ||| 0x10))

/-! ## Integer instructions -/

/-- Rows 0x1 and 0x2, one destination: each passing lane of D takes the rule's value, and nothing else changes. -/
def Obligations.IntegerResults : Prop :=
  ∀ (g : Guard) (h : Hold) (d a b c : Reg) (imm : BitVec 32) (sat right left : Bool) (ty : IntTy) (p : Fin 8) (sh : BitVec 5),
    let f1 := aluForm g h d (some a) none none
    let f2 := aluForm g h d (some a) (some b) none
    let f3 := aluForm g h d (some a) (some b) (some c)
    let fi := aluForm g .none d (some a) none none
    -- moves (R127, R128)
    Results (.mov g h d a) f1 d (fun e l => e.rd a l) ∧
    Results (.movi g d imm) (aluForm g .none d none none none) d (fun _ _ => imm) ∧
    -- sums, differences and products: exact, then narrowed, saturated first with SAT (R130-R132)
    Results (.iadd g h d a b sat ty) f2 d (fun e l => narrow sat ty (intVal ty (e.rd a l) + intVal ty (e.rd b l))) ∧
    Results (.iaddImm g d a imm) fi d (fun e l => e.rd a l + imm) ∧
    Results (.isub g h d a b sat ty) f2 d (fun e l => narrow sat ty (intVal ty (e.rd a l) - intVal ty (e.rd b l))) ∧
    Results (.isubImm g d a imm) fi d (fun e l => e.rd a l - imm) ∧
    Results (.imul g h d a b sat ty) f2 d (fun e l => narrow sat ty (intVal ty (e.rd a l) * intVal ty (e.rd b l))) ∧
    Results (.imulImm g d a imm) fi d (fun e l => e.rd a l * imm) ∧
    Results (.imulh g h d a b ty) f2 d (fun e l => BitVec.ofInt 32 (intVal ty (e.rd a l) * intVal ty (e.rd b l) / 2 ^ 32)) ∧
    Results (.imad g h d a b c sat ty) f3 d
      (fun e l => narrow sat ty (intVal ty (e.rd a l) * intVal ty (e.rd b l) + intVal ty (e.rd c l))) ∧
    -- minimum, maximum, magnitude, negation, selection, address (R133-R135)
    Results (.imin g h d a b ty) f2 d (fun e l => if intVal ty (e.rd a l) ≤ intVal ty (e.rd b l) then e.rd a l else e.rd b l) ∧
    Results (.iminImm g d a imm) fi d (fun e l => if (e.rd a l).toInt ≤ imm.toInt then e.rd a l else imm) ∧
    Results (.imax g h d a b ty) f2 d (fun e l => if intVal ty (e.rd a l) ≤ intVal ty (e.rd b l) then e.rd b l else e.rd a l) ∧
    Results (.imaxImm g d a imm) fi d (fun e l => if (e.rd a l).toInt ≤ imm.toInt then imm else e.rd a l) ∧
    Results (.iabs g h d a sat) f1 d (fun e l => narrow sat .s32 (e.rd a l).toInt.natAbs) ∧
    Results (.ineg g h d a sat) f1 d (fun e l => narrow sat .s32 (-(e.rd a l).toInt)) ∧
    Results (.isel g h d a b p) f2 d (fun e l => if (e.g.pred p.val).getLsbD l then e.rd a l else e.rd b l) ∧
    Results (.lea g h d a b sh) f2 d (fun e l => e.rd a l + (e.rd b l <<< sh.toNat)) ∧
    -- logic (R136)
    Results (.and g h d a b) f2 d (fun e l => e.rd a l &&& e.rd b l) ∧
    Results (.andImm g d a imm) fi d (fun e l => e.rd a l &&& imm) ∧
    Results (.or g h d a b) f2 d (fun e l => e.rd a l ||| e.rd b l) ∧
    Results (.orImm g d a imm) fi d (fun e l => e.rd a l ||| imm) ∧
    Results (.xor g h d a b) f2 d (fun e l => e.rd a l ^^^ e.rd b l) ∧
    Results (.xorImm g d a imm) fi d (fun e l => e.rd a l ^^^ imm) ∧
    Results (.not g h d a) f1 d (fun e l => ~~~(e.rd a l)) ∧
    Results (.andn g h d a b) f2 d (fun e l => e.rd a l &&& ~~~(e.rd b l)) ∧
    Results (.andnImm g d a imm) fi d (fun e l => e.rd a l &&& ~~~imm) ∧
    -- shifts and rotations: a count of 32 or more shifts everything out (R136, R137)
    Results (.shl g h d a b) f2 d (fun e l => e.rd a l <<< (e.rd b l).toNat) ∧
    Results (.shlImm g d a imm) fi d (fun e l => e.rd a l <<< imm.toNat) ∧
    Results (.shr g h d a b) f2 d (fun e l => e.rd a l >>> (e.rd b l).toNat) ∧
    Results (.shrImm g d a imm) fi d (fun e l => e.rd a l >>> imm.toNat) ∧
    Results (.sar g h d a b) f2 d (fun e l => (e.rd a l).sshiftRight (e.rd b l).toNat) ∧
    Results (.sarImm g d a imm) fi d (fun e l => (e.rd a l).sshiftRight imm.toNat) ∧
    Results (.rot g h d a b right) f2 d (fun e l =>
      if right then (e.rd a l).rotateRight ((e.rd b l).toNat % 32) else (e.rd a l).rotateLeft ((e.rd b l).toNat % 32)) ∧
    Results (.rotImm g d a imm) fi d (fun e l => (e.rd a l).rotateLeft (imm.toNat % 32)) ∧
    Results (.fsh g h d a b c left) f3 d (fun e l =>
      let x : BitVec 64 := e.rd a l ++ e.rd b l
      let n := (e.rd c l).toNat % 64
      if left then (x <<< n).extractLsb' 32 32 else (x >>> n).extractLsb' 0 32)

/-- Bit fields, counts and byte selection (R138-R140), bit by bit. -/
def Obligations.BitResults : Prop :=
  ∀ (g : Guard) (h : Hold) (d a b c r : Reg) (pos wm1 : BitVec 5) (ty : IntTy),
    let f1 := aluForm g h d (some a) none none
    let f2 := aluForm g h d (some a) (some b) none
    -- bits POS to POS + W - 1 of A extended by zeros or by its sign; above them zeros or copies of the field's top bit
    let extract := fun (x : Word) (p w : Nat) => LaneMask.ofFn (fun j =>
      match ty with
      | .n32 => decide (j < w) && x.getLsbD (p + j)
      | .s32 => decide (w ≠ 0) && (if p + min j (w - 1) < 32 then x.getLsbD (p + min j (w - 1)) else x.msb))
    -- A with bits POS to POS + W - 1 replaced by the low bits of B
    let insert := fun (x y : Word) (p w : Nat) => LaneMask.ofFn (fun j =>
      if p ≤ j ∧ j < p + w then y.getLsbD (j - p) else x.getLsbD j)
    let fp := fun (w : Word) => (w.extractLsb' 0 8).toNat
    let fw := fun (w : Word) => min 32 (w.extractLsb' 8 8).toNat
    Results (.bfx g h d a (.imm pos wm1) ty) f1 d (fun e l => extract (e.rd a l) pos.toNat (wm1.toNat + 1)) ∧
    Results (.bfx g h d a (.reg r) ty) (aluForm g h d (some a) (some r) none) d
      (fun e l => extract (e.rd a l) (fp (e.rd r l)) (fw (e.rd r l))) ∧
    Results (.bfi g h d a b (.imm pos wm1)) f2 d (fun e l => insert (e.rd a l) (e.rd b l) pos.toNat (wm1.toNat + 1)) ∧
    Results (.bfi g h d a b (.reg r)) (aluForm g h d (some a) (some b) (some r)) d
      (fun e l => insert (e.rd a l) (e.rd b l) (fp (e.rd r l)) (fw (e.rd r l))) ∧
    Results (.popc g h d a) f1 d (fun e l => BitVec.ofNat 32 ((List.range 32).countP (fun j => (e.rd a l).getLsbD j))) ∧
    -- the zero bits above the highest one bit; 32 for 0
    Results (.clz g h d a) f1 d (fun e l => BitVec.ofNat 32 (32 - if e.rd a l = 0 then 0 else Nat.log2 (e.rd a l).toNat + 1)) ∧
    Results (.brev g h d a) f1 d (fun e l => (e.rd a l).reverse) ∧
    Results (.prmt g h d a b c) (aluForm g h d (some a) (some b) (some c)) d (fun e l =>
      let pool : BitVec 64 := e.rd b l ++ e.rd a l
      let byte := fun (j : Nat) =>
        let k : Byte := (e.rd c l).extractLsb' (8 * j) 8
        let q : Byte := pool.extractLsb' (8 * (k.extractLsb' 0 3).toNat) 8
        if k.extractLsb' 3 2 = 0 then q
        else if k.extractLsb' 3 2 = 1 then q.reverse
        else if k.extractLsb' 3 2 = 2 then (if q.msb then 0xFF else 0)
        else 0
      byte 3 ++ byte 2 ++ byte 1 ++ byte 0)

/-- The carry forms (R131): D takes the low 32 bits of the exact sum A + B + carry or difference A - B - borrow of unsigned
values, the predicate CO its carry or borrow out, in the passing lanes; CI is the carry in, absent 0. With CO `p0` the
carry out is discarded (R63). Memory, every other register and everything outside the core stay. -/
def Obligations.CarryResults : Prop :=
  ∀ (g : Guard) (h : Hold) (d a b : Reg) (ci : Option (Fin 8)) (co : Fin 8) (s : State) (e : Env),
    (aluForm g h d (some a) (some b) none).Ready e s →
    let cin := fun (l : Nat) => match ci with
      | some k => if (e.g.pred k.val).getLsbD l then (1 : Int) else 0
      | none => 0
    let add := fun (l : Nat) => ((e.rd a l).toNat : Int) + (e.rd b l).toNat + cin l
    let sub := fun (l : Nat) => ((e.rd a l).toNat : Int) - (e.rd b l).toNat - cin l
    let did := fun (v : Nat → Int) (out : Nat → Bool) (t : State) =>
      ∃ g', OnlyGroup e s t g' ∧
        { g' with splits := e.g.splits, wait := e.g.wait, s := e.g.s, p := e.g.p } = e.g ∧
        (Reg.isVec d = true → ∀ l ∈ e.lanes, (t.core e.core).readV e.slot g' (e.vnum d l) l = BitVec.ofInt 32 (v l)) ∧
        (∀ n, d = .s n → e.act ≠ 0 → g'.scalar n.val = BitVec.ofInt 32 (v (LaneMask.lowest e.act))) ∧
        (∀ n : Nat, ¬ (e.act ≠ 0 ∧ ∃ m : Fin 24, d = .s m ∧ m.val = n) → g'.scalar n = e.g.scalar n) ∧
        (∀ x, ¬ e.owns d x → Store.read (t.core e.core).regs x = Store.read e.k.regs x) ∧
        (∀ l, l < 32 → co.val ≠ 0 →
          (g'.pred co.val).getLsbD l = if e.act.getLsbD l then out l else (e.g.pred co.val).getLsbD l) ∧
        (∀ q, q ≠ co.val ∨ q = 0 → g'.pred q = e.g.pred q)
    (∃ t, exec (.iaddc g h d a b ci co) s = .next t ∧ did add (fun l => decide (2 ^ 32 ≤ add l)) t) ∧
    (∃ t, exec (.isubb g h d a b ci co) s = .next t ∧ did sub (fun l => decide (sub l < 0)) t)

/-- The words that write one predicate: comparisons, truth tables, moves and votes (R133, R144, R145, R148). -/
def Obligations.PredicateResults : Prop :=
  ∀ (g : Guard) (h : Hold) (a b : Reg) (p pa pb q : Fin 8) (cnd : IntCond) (ty : IntTy) (tt : BitVec 4),
    PredResults (.icmp g h p a b cnd ty) { aluForm g h a (some a) (some b) none with dsts := [] } p (fun e l =>
      let x := intVal ty (e.rd a l)
      let y := intVal ty (e.rd b l)
      match cnd with
      | .eq => decide (x = y)
      | .ne => decide (x ≠ y)
      | .lt => decide (x < y)
      | .le => decide (x ≤ y)
      | .gt => decide (y < x)
      | .ge => decide (y ≤ x)) ∧
    PredResults (.pset g p pa pb tt) (Form.plain g) p (fun e l =>
      tt.getLsbD (2 * ((e.g.pred pa.val).getLsbD l).toNat + ((e.g.pred pb.val).getLsbD l).toNat)) ∧
    PredResults (.pmov g h (.fromv p a)) { Form.plain g with held := heldReg h (some a) none none, srcs := [(a, 1)] } p
      (fun e l => e.rd a l != 0) ∧
    PredResults (.vote g (.any p) q) (Form.plain g) p
      (fun e _ => e.act &&& ~~~e.g.helper &&& e.g.pred q.val != 0) ∧
    PredResults (.vote g (.all p) q) (Form.plain g) p
      (fun e _ => e.act &&& ~~~e.g.helper &&& e.g.pred q.val == e.act &&& ~~~e.g.helper) ∧
    PredResults (.vote g (.eq p) q) (Form.plain g) p
      (fun e _ => e.act &&& ~~~e.g.helper &&& e.g.pred q.val == e.act &&& ~~~e.g.helper ||
        e.act &&& ~~~e.g.helper &&& e.g.pred q.val == 0)

/-- The words that write one register from lanes, predicates and index registers (R118, R142, R145-R149). -/
def Obligations.LaneResults : Prop :=
  ∀ (g : Guard) (h : Hold) (d a b : Reg) (i p : Fin 8) (wid : Fin 5) (mode : ShflMode) (sel : SpecialVal),
    let fd : Form := { Form.plain g with dsts := [(d, 1)] }
    -- the lane that a shuffle reads: in lane L's segment and in the split, else L itself
    let src := fun (e : Env) (l : Nat) (b : Word) =>
      let w := 32 / 2 ^ wid.val
      let base := l - l % w
      let bb := b.toNat % w
      let x : Int := match mode with
        | .idx => (base : Int) + bb
        | .up => (l : Int) - b.toNat
        | .down => (l : Int) + b.toNat
        | .xor => (l ^^^ bb : Nat)
      if (base : Int) ≤ x ∧ x < base + w ∧ e.sp.mask.getLsbD x.toNat = true then x.toNat else l
    let special := fun (e : Env) (l : Nat) => match sel with
      | .lane => l
      | .group => e.g.index
      | .team => e.t.num
      | .core => e.core
      | .cluster => e.core / 8
      | .pos => e.core % 8
      | .phase => (e.pt.phcnt.getLsbD 0).toNat
      | .splits => e.g.splits.countP (fun o => o.isSome)
      | .depth => e.gr.depth
      | .grpsz => e.gr.lrec.gpt
      | .nteams => e.gr.lrec.teams
      | .sched => e.slot / 4
      | .helper => (e.g.helper.getLsbD l).toNat
      | .xgrp => e.g.xgrp.toNat
      | .spbase => e.t.spb
    Results (.ixsetGet g d i) { fd with idxs := [i] } d (fun e l => e.g.idxReg i.val l) ∧
    Results (.pmov g h (.tov d p)) fd d (fun e l => if (e.g.pred p.val).getLsbD l then 1 else 0) ∧
    Results (.pmov g h (.pack d)) fd d (fun e l =>
      LaneMask.ofFn (fun k => decide (k < 8) && (e.g.pred k).getLsbD l)) ∧
    -- the lanes read are operands too: their `v[ik]` registers are checked with the others
    Results (.shfl g h d a b wid mode) (shflForm g h d a b (fun e => e.lanes.map (fun l => src e l (e.rd b 0)))) d
      (fun e l => e.rd a (src e l (e.rd b 0))) ∧
    Results (.shflx g h d a b wid mode) (shflForm g h d a b (fun e => e.lanes.map (fun l => src e l (e.rd b l)))) d
      (fun e l => e.rd a (src e l (e.rd b l))) ∧
    Results (.bcast g h d a b) (shflForm g h d a b (fun e => [(e.rd b 0).toNat % 32])) d (fun e _ => e.rd a ((e.rd b 0).toNat % 32)) ∧
    Results (.vote g (.ballot d) p) fd d (fun e _ => e.act &&& ~~~e.g.helper &&& e.g.pred p.val) ∧
    Results (.vote g (.cnt d) p) fd d (fun e _ =>
      BitVec.ofNat 32 ((List.range 32).countP (fun j => (e.act &&& ~~~e.g.helper &&& e.g.pred p.val).getLsbD j))) ∧
    Results (.rdsp g d sel) fd d (fun e l => BitVec.ofNat 32 (special e l)) ∧
    Results (.splitq g d .mask) fd d (fun e _ => e.sp.mask) ∧
    Results (.splitq g d .count) fd d (fun e _ => BitVec.ofNat 32 (e.g.splits.countP (fun o => o.isSome))) ∧
    Results (.splitq g d .depth) fd d (fun e _ => BitVec.ofNat 32 e.sp.stack.length) ∧
    Results (.splitq g d .join) fd d (fun e _ => (e.sp.stack.head?.map (fun r => r.j)).getD 0xFFFFFFFF)

/-- The index registers, the index window and the unpacking of predicates (R142, R143, R145): `ixset` and `ixadd` write an
index register in the passing lanes; `ixbnd` sets the window of a group from `[A, B)`, within its allocation and not empty,
and otherwise traps, naming no register (the model's reading, log 18); `pmov.unpack` writes `p1` to `p7` from the low bits of A,
and `p0` stays true. -/
def Obligations.IndexResults : Prop :=
  ∀ (g : Guard) (h : Hold) (a b : Reg) (i j : Fin 8) (imm : BitVec 32),
    let idx := fun (ins : Instr) (f : Form) (v : Env → Nat → Word) => ∀ (s : State) (e : Env), f.Ready e s →
      ∃ t g', exec ins s = .next t ∧ OnlyGroup e s t g' ∧ (t.core e.core).regs = e.k.regs ∧
        { g' with splits := e.g.splits, wait := e.g.wait, i := e.g.i } = e.g ∧
        (∀ l ∈ e.lanes, g'.idxReg i.val l = v e l) ∧
        (∀ k l, l < 32 → ¬ (k = i.val ∧ e.act.getLsbD l = true) → g'.idxReg k l = e.g.idxReg k l)
    idx (.ixset g h i a) { Form.plain g with held := heldReg h (some a) none none, srcs := [(a, 1)], idxs := [i] }
      (fun e l => e.rd a l) ∧
    idx (.ixsetImm g i imm) { Form.plain g with idxs := [i] } (fun _ _ => imm) ∧
    idx (.ixadd g h i j b) { Form.plain g with held := heldReg h none (some b) none, srcs := [(b, 1)], idxs := [i, j] }
      (fun e l => e.g.idxReg j.val l + e.rd b l) ∧
    idx (.ixaddImm g i j imm) { Form.plain g with idxs := [i, j] } (fun e l => e.g.idxReg j.val l + imm) ∧
    Ends (.ixbnd g a b) (Form.grouped { Form.plain g with srcs := [(a, 1), (b, 1)] })
      (fun e _ => e.act ≠ 0 ∧ (e.rd a 0).toNat < (e.rd b 0).toNat ∧ (e.rd b 0).toNat ≤ e.g.nregs)
      (fun e s => s.modGroup e.core e.slot (fun g => { g with winLo := e.rd a 0, winHi := e.rd b 0 })) ∧
    Traps (.ixbnd g a b) (Form.grouped { Form.plain g with srcs := [(a, 1), (b, 1)] })
      (fun e _ => e.act ≠ 0 ∧ ((e.rd b 0).toNat ≤ (e.rd a 0).toNat ∨ e.g.nregs < (e.rd b 0).toNat))
      (fun _ => { cause := Causes.indexBound, info := 0, lane := 0 }) ∧
    (∀ (s : State) (e : Env), { Form.plain g with held := heldReg h (some a) none none, srcs := [(a, 1)] : Form }.Ready e s →
      ∃ t g', exec (.pmov g h (.unpack a)) s = .next t ∧ OnlyGroup e s t g' ∧ (t.core e.core).regs = e.k.regs ∧
        { g' with splits := e.g.splits, wait := e.g.wait, p := e.g.p } = e.g ∧ g'.pred 0 = allLanes ∧
        ∀ k l, 1 ≤ k → k < 8 → l < 32 →
          (g'.pred k).getLsbD l = if e.act.getLsbD l then (e.rd a l).getLsbD k else (e.g.pred k).getLsbD l)

/-! ## Floating point -/

/-- Row 0x3 but for the K family (R58, R150-R155, R166-R174): each passing lane's pattern and flags are those of the exact
operation rounded under `FPCTL` and the word's modifier; a trapped flag stands and nothing is written. That the trap names no
lane, whichever lanes raised the flag, is the model's reading (log 18). -/
def Obligations.FloatResults : Prop :=
  ∀ (g : Guard) (h : Hold) (d a b c : Reg) (imm : BitVec 32) (p : Fin 8) (np nc : Bool) (rnd : Rnd) (ty : HalfTy)
    (st : CvtSrc) (dt ft : FpTy) (it : IntTy) (cnd : FpCond),
    let f1 := fpForm g h d (some a) none none
    let f2 := fpForm g h d (some a) (some b) none
    let f3 := fpForm g h d (some a) (some b) (some c)
    let fi := fpForm g .none d (some a) none none
    let m := fun (e : Env) => fpMode e.g.fpctl rnd
    let mi := fun (e : Env) => fpMode e.g.fpctl .rctl
    -- an FP32 operand or immediate as a value, a subnormal read as zero with FZI (R153)
    let x := fun (e : Env) (r : Reg) (l : Nat) => fp32.value (e.g.fpctl.getLsbD 2) (e.rd r l).toNat
    let xi := fun (e : Env) => fp32.value (e.g.fpctl.getLsbD 2) imm.toNat
    -- the halves of a 16-bit pair
    let both := fun (e : Env) (f : Fmt) (u v : Word) (op : Fmt → Fv → Fv → FpRes) =>
      let lo := op f (f.value (e.g.fpctl.getLsbD 2) (u.extractLsb' 0 16).toNat) (f.value (e.g.fpctl.getLsbD 2) (v.extractLsb' 0 16).toNat)
      let hi := op f (f.value (e.g.fpctl.getLsbD 2) (u.extractLsb' 16 16).toNat) (f.value (e.g.fpctl.getLsbD 2) (v.extractLsb' 16 16).toNat)
      ((hi.1 * 65536 + lo.1, lo.2 ||| hi.2) : FpRes)
    FpResults (.fadd g h d a b rnd) f2 d (fun e l => fp32.addV (m e) (x e a l) (x e b l)) ∧
    FpResults (.faddImm g d a imm) fi d (fun e l => fp32.addV (mi e) (x e a l) (xi e)) ∧
    FpResults (.fsub g h d a b rnd) f2 d (fun e l => fp32.addV (m e) (x e a l) (x e b l).negate) ∧
    FpResults (.fsubImm g d a imm) fi d (fun e l => fp32.addV (mi e) (x e a l) (xi e).negate) ∧
    FpResults (.fmul g h d a b rnd) f2 d (fun e l => fp32.mulV (m e) (x e a l) (x e b l)) ∧
    FpResults (.fmulImm g d a imm) fi d (fun e l => fp32.mulV (mi e) (x e a l) (xi e)) ∧
    FpResults (.ffma g h d a b c np nc rnd) f3 d (fun e l =>
      fp32.fmaV (m e) np (x e a l) (x e b l) (if nc then (x e c l).negate else x e c l)) ∧
    FpResults (.fmin g h d a b) f2 d (fun e l => fp32.minMax (e.g.fpctl.getLsbD 2) false (e.rd a l).toNat (e.rd b l).toNat) ∧
    FpResults (.fminImm g d a imm) fi d (fun e l => fp32.minMax (e.g.fpctl.getLsbD 2) false (e.rd a l).toNat imm.toNat) ∧
    FpResults (.fmax g h d a b) f2 d (fun e l => fp32.minMax (e.g.fpctl.getLsbD 2) true (e.rd a l).toNat (e.rd b l).toNat) ∧
    FpResults (.fmaxImm g d a imm) fi d (fun e l => fp32.minMax (e.g.fpctl.getLsbD 2) true (e.rd a l).toNat imm.toNat) ∧
    Results (.fclass g h d a) f1 d (fun e l => fclassV (e.rd a l).toNat) ∧
    FpResults (.frnd g h d a rnd) f1 d (fun e l => frndV (m e) (e.rd a l).toNat) ∧
    FpResults (.hadd2 g h d a b ty rnd) f2 d (fun e l =>
      both e (halfFmt ty) (e.rd a l) (e.rd b l) (fun f u v => f.addV (m e) u v)) ∧
    FpResults (.hadd2Imm g d a imm) fi d (fun e l => both e fp16 (e.rd a l) imm (fun f u v => f.addV (mi e) u v)) ∧
    FpResults (.hmul2 g h d a b ty rnd) f2 d (fun e l =>
      both e (halfFmt ty) (e.rd a l) (e.rd b l) (fun f u v => f.mulV (m e) u v)) ∧
    FpResults (.hmul2Imm g d a imm) fi d (fun e l => both e fp16 (e.rd a l) imm (fun f u v => f.mulV (mi e) u v)) ∧
    FpResults (.hfma2 g h d a b c ty rnd) f3 d (fun e l =>
      let v := fun (hi : Bool) (r : Reg) => (halfFmt ty).value (e.g.fpctl.getLsbD 2) (halfOf hi (e.rd r l))
      let r := fun (hi : Bool) => (halfFmt ty).fmaV (m e) false (v hi a) (v hi b) (v hi c)
      ((r true).1 * 65536 + (r false).1, (r false).2 ||| (r true).2)) ∧
    FpResults (.cvt g h d a (.one st dt) rnd) f1 d (fun e l =>
      cvtV (m e) (fpFmt (CvtSrc.fmt st)) (fpFmt dt) (cvtIn st (e.rd a l))) ∧
    FpResults (.cvt g h d a (.two ty b) rnd) f2 d (fun e l =>
      let r := fun (y : Reg) => cvtV (m e) fp32 (halfFmt ty) (e.rd y l).toNat
      ((r b).1 * 65536 + (r a).1, (r a).2 ||| (r b).2)) ∧
    FpResults (.f2i g h d a ft it rnd) f1 d (fun e l => f2iV (m e) (fpFmt ft) it (floatIn ft (e.rd a l))) ∧
    FpResults (.i2f g h d a ft it rnd) f1 d (fun e l => i2fV (m e) (fpFmt ft) it (e.rd a l)) ∧
    -- the comparison writes a predicate
    (∀ (s : State) (e : Env), { f2 with dsts := [] : Form }.Ready e s →
      let r := fun l => fcmpV cnd (x e a l) (x e b l)
      let fl := unionFlags e.lanes (fun l => (r l).2)
      (fl &&& trapEnables e.g.fpctl = 0 →
        ∃ t g', exec (.fcmp g h p a b cnd) s = .next t ∧ WrotePred e p (fun l => (r l).1) fl s t g') ∧
      (fl &&& trapEnables e.g.fpctl ≠ 0 → exec (.fcmp g h p a b cnd) s =
        .next (e.trapAt s (s.modGroup e.core e.slot (fun g => { g with fpflg := g.fpflg ||| fl }))
          { cause := Causes.fpException, info := fl.setWidth 64, lane := 0 } e.sp.pc)))

/-- A pair word (R69): both halves read before either writes; each writes its D in its own passing lanes what its full form
computes from D and B, which is spelled here operation by operation (R128-R137, R166-R170); the flags of both stand. A flag whose
trap is enabled traps with nothing written (R155); that the trap names no lane is the model's reading (log 18). -/
def Obligations.PairResults : Prop :=
  ∀ (st : Bool) (x : HalfRegs) (y : PairHalf) (ty : IntTy) (rnd : Rnd),
    -- the pattern and the flags of an operation on the old D and B
    let value := fun (e : Env) (op : HalfOp) (d b : Word) =>
      let int := fun (w : Word) => ((w.toNat, 0) : FpRes)
      let v := fun (f : Fmt) (n : Nat) => f.value (e.g.fpctl.getLsbD 2) n
      let m := fun (r : Rnd) => fpMode e.g.fpctl r
      let both := fun (f : Fv → Fv → FpRes) =>
        let lo := f (v fp16 (d.extractLsb' 0 16).toNat) (v fp16 (b.extractLsb' 0 16).toNat)
        let hi := f (v fp16 (d.extractLsb' 16 16).toNat) (v fp16 (b.extractLsb' 16 16).toNat)
        ((hi.1 * 65536 + lo.1, lo.2 ||| hi.2) : FpRes)
      match op with
      | .mov => int b
      | .iadd t => int (narrow false t (intVal t d + intVal t b))
      | .isub t => int (narrow false t (intVal t d - intVal t b))
      | .imin t => int (if intVal t d ≤ intVal t b then d else b)
      | .imax t => int (if intVal t d ≤ intVal t b then b else d)
      | .iabs => int (narrow false .s32 b.toInt.natAbs)
      | .ineg => int (narrow false .s32 (-b.toInt))
      | .and => int (d &&& b)
      | .or => int (d ||| b)
      | .xor => int (d ^^^ b)
      | .shl => int (d <<< b.toNat)
      | .shr => int (d >>> b.toNat)
      | .sar => int (d.sshiftRight b.toNat)
      | .fadd r => fp32.addV (m r) (v fp32 d.toNat) (v fp32 b.toNat)
      | .fsub r => fp32.addV (m r) (v fp32 d.toNat) (v fp32 b.toNat).negate
      | .fmul r => fp32.mulV (m r) (v fp32 d.toNat) (v fp32 b.toNat)
      | .fmin => fp32.minMax (e.g.fpctl.getLsbD 2) false d.toNat b.toNat
      | .fmax => fp32.minMax (e.g.fpctl.getLsbD 2) true d.toNat b.toNat
      | .hadd2 r => both (fun u w => fp16.addV (m r) u w)
      | .hmul2 r => both (fun u w => fp16.mulV (m r) u w)
    let did := fun (i : Instr) (op : HalfOp) => ∀ (s : State) (e : Env),
      let hx : PairHalf := { op := op, r := x }
      let res := fun (h : PairHalf) (l : Nat) => value e h.op (e.rd (.v h.r.d) l) (e.rd h.r.b l)
      let fl := fun (h : PairHalf) => unionFlags (e.halfLanes h) (fun l => (res h l).2)
      (pairForm st hx y).Ready e s → e.g.blocks.Nodup →
      ((fl hx ||| fl y) &&& trapEnables e.g.fpctl ≠ 0 → exec i s =
        .next (e.trapAt s (s.modGroup e.core e.slot (fun g => { g with fpflg := g.fpflg ||| (fl hx ||| fl y) }))
          { cause := Causes.fpException, info := (fl hx ||| fl y).setWidth 64, lane := 0 } e.sp.pc)) ∧
      ((fl hx ||| fl y) &&& trapEnables e.g.fpctl = 0 →
      ∃ t g, exec i s = .next t ∧ OnlyGroup e s t g ∧
        { g with splits := e.g.splits, wait := e.g.wait, fpflg := e.g.fpflg } = e.g ∧
        g.fpflg = e.g.fpflg ||| (fl hx ||| fl y) ∧
        (∀ h, h = hx ∨ h = y → ∀ l ∈ e.halfLanes h,
          (t.core e.core).readV e.slot g h.r.d.val l = BitVec.ofNat 32 (res h l).1) ∧
        (∀ k, (∀ h, h = hx ∨ h = y → ∀ l ∈ e.halfLanes h, k ≠ e.g.cell e.slot h.r.d.val l) →
          Store.read (t.core e.core).regs k = Store.read e.k.regs k))
    did (.movPair st x y) .mov ∧ did (.iaddPair st ty x y) (.iadd ty) ∧ did (.isubPair st ty x y) (.isub ty) ∧
    did (.iminPair st ty x y) (.imin ty) ∧ did (.imaxPair st ty x y) (.imax ty) ∧ did (.iabsPair st x y) .iabs ∧
    did (.inegPair st x y) .ineg ∧ did (.andPair st x y) .and ∧ did (.orPair st x y) .or ∧ did (.xorPair st x y) .xor ∧
    did (.shlPair st x y) .shl ∧ did (.shrPair st x y) .shr ∧ did (.sarPair st x y) .sar ∧
    did (.faddPair st rnd x y) (.fadd rnd) ∧ did (.fsubPair st rnd x y) (.fsub rnd) ∧
    did (.fmulPair st rnd x y) (.fmul rnd) ∧ did (.fminPair st x y) .fmin ∧ did (.fmaxPair st x y) .fmax ∧
    did (.hadd2Pair st rnd x y) (.hadd2 rnd) ∧ did (.hmul2Pair st rnd x y) (.hmul2 rnd)

/-- The K words (R175-R178): the block that A holds across the lanes is encoded, decoded or requantised under the slot;
every lane that has not exited receives its word, and the registers that `v[ik]` names in those lanes are operands (R64, R84). A
lane whose guard failed and whose register lies beyond the allocation receives nothing: the model's reading (log 53). Only IV and SAT
can trap (R175). An empty slot and a slot of another kind trap (R163). -/
def Obligations.FormatResults : Prop :=
  ∀ (g : Guard) (h : Hold) (d a b : Reg) (slot : Fin 8),
    let form := fun (b : Option Reg) => Form.grouped { fpForm g h d (some a) b none with
      pre := fun _ => none
      also := fun e => e.indexed a (List.range 32)
      alsoD := fun e => e.indexed d (LaneMask.toList e.g.live) }
    let fmt := fun (e : Env) => e.gr.slot slot.val
    let writes := fun (e : Env) (ws : List Word) (fl : Flags) (s : State) =>
      (s.modGroup e.core e.slot (fun g => { g with fpflg := g.fpflg ||| fl })).writeV e.core e.slot
        (((LaneMask.toList e.g.live).map (fun l => (e.vnum d l, l, ws.getD l 0))).filter (fun x => decide (x.1 < e.g.nregs)))
    let did := fun (i : Instr) (b : Option Reg) (r : Env → List Word × Flags) =>
      Ends i (form b) (fun e _ => e.act ≠ 0 ∧ (fmt e).isK = true ∧
          (∀ x, b = some x → (e.sc x).toNat % 256 ≠ 255) ∧
          (r e).2 &&& (flagIV ||| flagSAT) &&& trapEnables e.g.fpctl = 0)
        (fun e s => writes e (r e).1 (r e).2 s) ∧
      Traps i (form b) (fun e _ => e.act ≠ 0 ∧ (fmt e).kind = 0)
        (fun _ => { cause := Causes.emptySlot, info := BitVec.ofNat 64 slot.val, lane := 0 }) ∧
      Traps i (form b) (fun e _ => e.act ≠ 0 ∧ (fmt e).kind ≠ 0 ∧ (fmt e).isK = false)
        (fun _ => { cause := Causes.slotKind, info := BitVec.ofNat 64 slot.val, lane := 0 })
    did (.kpack g h d a slot) none (fun e =>
      let r := kEncode (kWidth (fmt e).kind) (fmt e).d.toNat none
        ((List.range 32).map (fun l => if e.g.live.getLsbD l then e.rd a l else 0))
      (kWords r.1, r.2)) ∧
    did (.kunpk g h d a slot) none (fun e =>
      let w := kWidth (fmt e).kind
      let bs := e.kBlock w a
      (kDecode w bs, if (List.range 32).any (fun j => kExpOf w (kExps w bs) (kElem w bs j) == 255) then flagIV else 0)) ∧
    did (.rqz g h d a b slot) (some b) (fun e =>
      let w := kWidth (fmt e).kind
      let bs := e.kBlock w a
      let t := (e.sc b).toNat % 256
      let vals := if (kExps w bs).1 = 255 ∨ (kExps w bs).2 = 255 then List.replicate 32 0x7FC00000 else kDecode w bs
      let r := kEncode w (fmt e).d.toNat (if t = 0 then none else some t) vals
      (kWords r.1, r.2)) ∧
    Traps (.rqz g h d a b slot) (form (some b)) (fun e _ => e.act ≠ 0 ∧ (fmt e).isK = true ∧ (e.sc b).toNat % 256 = 255)
      (fun _ => { cause := Causes.formatOperand, info := 0, lane := 0 })

/-- The transform words (R180-R182): with a place in its scheduler's queue a word enters the pipe with each passing lane's
rounded value, its registers pending; with four words queued it waits. -/
def Obligations.TransformIssue : Prop :=
  ∀ (g : Guard) (h : Hold) (d a : Reg) (rnd : Rnd),
    let f := fpForm g h d (some a) none none
    let did := fun (i : Instr) (fn : TransformFn) =>
      Ends i f (fun e _ => e.act ≠ 0 ∧ (e.k.pipe (e.slot / 4)).length < 4) (fun e s =>
        let r := fun l => transformVal fn (fpMode e.g.fpctl rnd) (e.rd a l).toNat
        { (s.modGroup e.core e.slot (fun g => { g with inflight := g.inflight ++ [{
            id := s.nextId, kind := .transform, vregs := e.vregs (d, 1), sregs := [],
            vdata := e.lanes.map (fun l => (e.vnum d l, l, BitVec.ofNat 32 (r l).1)), sdata := [],
            flags := unionFlags e.lanes (fun l => (r l).2), ready := false }] })).modCore e.core (fun k =>
          { k with xpipe := k.xpipe.set (e.slot / 4) (k.pipe (e.slot / 4) ++ [{ slot := e.slot, inflight := s.nextId }]) }) with
          nextId := s.nextId + 1 }) ∧
      Ends i f (fun e _ => e.act = 0) (fun _ s => s) ∧
      Leads i f (fun e _ => e.act ≠ 0 ∧ 4 ≤ (e.k.pipe (e.slot / 4)).length)
        (fun e s => s.modGroup e.core e.slot (fun g => { g with wait := .stalled }))
    did (.frcp g h d a rnd) .rcp ∧ did (.frsq g h d a rnd) .rsq ∧ did (.fsqrt g h d a rnd) .sqrt ∧
    did (.fex2 g h d a rnd) .ex2 ∧ did (.flg2 g h d a rnd) .lg2 ∧ did (.fsin g h d a rnd) .sin ∧
    did (.fcos g h d a rnd) .cos ∧ did (.ftanh g h d a rnd) .tanh

/-- Results return (R81, R182): the data enters the registers, the flags join `FPFLG`, and the result is no longer in flight;
nothing else of the register file changes. The transform pipe takes the oldest word of a scheduler's queue, whose entry is then
free, and returns the oldest word of a scheduler that it has taken, or else the oldest queued; loads, gathers and atomics return
by their place in the group's list. That taking and returning are moves of their own, of which the agenda says when they come,
and that a word not yet taken when its result returns is taken and returned at once, are the model's form (logs 3 and 12); that data
for a register that the group has freed since is dropped is its choice (log 72). -/
def Obligations.ResultsReturn : Prop :=
  ∀ (s : State) (c : Fin 256) (slot : Fin 16) (g : Group) (f : Inflight),
    s.group c.val slot.val = some g → g.spill = none → g.flight f.id = some f → f.sdata = [] →
    let data := f.vdata.filter (fun x => decide (x.1 < g.nregs))
    (data.map (fun x => g.cell slot.val x.1 x.2.1)).Nodup →
    let back := fun (t : State) => ∃ g', t.group c.val slot.val = some g' ∧
      g'.inflight = g.inflight.filter (fun x => x.id != f.id) ∧ g'.fpflg = g.fpflg ||| f.flags ∧
      { g' with inflight := g.inflight, fpflg := g.fpflg, logs := g.logs } = g ∧ SameBeyond c.val s t ∧
      (∀ x ∈ data, Store.read (t.core c.val).regs (g.cell slot.val x.1 x.2.1) = x.2.2) ∧
      (∀ a, (∀ x ∈ data, a ≠ g.cell slot.val x.1 x.2.1) →
        Store.read (t.core c.val).regs a = Store.read (s.core c.val).regs a)
    (∀ (i : Nat), g.inflight[i]? = some f → f.ready = true → f.kind = .load ∨ f.kind = .atomic ∨ f.kind = .gather →
      ∃ t, exec (.loadDataReturn c slot i) s = .next t ∧ back t ∧
        { t.core c.val with regs := (s.core c.val).regs, groups := (s.core c.val).groups } = s.core c.val) ∧
    (∀ (q : Fin 4) (rest : List XpWord), (s.core c.val).pipe q.val = { slot := slot.val, inflight := f.id } :: rest →
      (∀ w ∈ (s.core c.val).xptaken, w.sched ≠ q.val) →
      ∃ t, exec (.transformResultReturn c q) s = .next t ∧ back t ∧
        { t.core c.val with regs := (s.core c.val).regs, groups := (s.core c.val).groups } =
          { s.core c.val with xpipe := (s.core c.val).xpipe.set q.val rest }) ∧
    (∀ (q : Fin 4) (before after : List XpTaken),
      (s.core c.val).xptaken = before ++ { sched := q.val, slot := slot.val, inflight := f.id } :: after →
      (∀ w ∈ before, w.sched ≠ q.val) →
      ∃ t, exec (.transformResultReturn c q) s = .next t ∧ back t ∧
        { t.core c.val with regs := (s.core c.val).regs, groups := (s.core c.val).groups } =
          { s.core c.val with xptaken := before ++ after }) ∧
    (∀ (q : Fin 4) (w : XpWord) (rest : List XpWord) (l : List Move),
      (s.core c.val).pipe q.val = w :: rest → (s.core c.val).xptaken.length < 5 →
      step { s with agenda := .take c q :: l } = .next (State.modCore { s with agenda := l } c.val (fun k => { k with
        xpipe := k.xpipe.set q.val rest
        xptaken := k.xptaken ++ [{ sched := q.val, slot := w.slot, inflight := w.inflight }] })))

/-! ## Affine registers -/

/-- The words of row 0x5 that write an affine register (R185, R188, R195-R200): with well-formed operands and room for the
symbols that the passing lanes mint, each passing lane's 16 words are those of its result, the minting lanes taking numbers in
ascending order from `AFNEXT`; `AFLIVE` grows by their count. A lane whose form cannot take its number without rounding to an
infinity is invalid and takes none (R186, R196). A malformed operand and an exhausted quota trap with nothing written. -/
def Obligations.AffineResults : Prop :=
  ∀ (g : Guard) (h : Hold) (d x y : Fin 8) (a b : Reg) (sym : Bool) (mode : CondMode),
    let did := fun (i : Instr) (f : Form) (res : Env → Nat → AffRes) =>
      let rs := fun (e : Env) => e.lanes.map (fun l => (l, res e l))
      let mints := fun (e : Env) => (assignSymbols e.t.afnext.toNat (rs e)).count
      Ends i f (fun e _ => e.badAff f.affS = none ∧ (mints e = 0 ∨ e.t.aflive.toNat + mints e ≤ e.t.afquota.toNat))
        (fun e s =>
          let out := assignSymbols e.t.afnext.toNat (rs e)
          (s.writeV e.core e.slot (out.words.flatMap (fun r =>
            (List.range 16).map (fun j => (e.affBase d.val + j, r.1, r.2.getD j 0))))).modTeam e.core e.g.team (fun t =>
              { t with afnext := BitVec.ofNat 16 out.next, aflive := t.aflive + BitVec.ofNat 16 out.count })) ∧
      (∀ l, Traps i f (fun e _ => e.badAff f.affS = some l) (fun _ => { cause := Causes.affineFormat, info := 0, lane := l })) ∧
      (∀ n, Traps i f (fun e _ => e.badAff f.affS = none ∧ mints e = n ∧ n ≠ 0 ∧ e.t.afquota.toNat < e.t.aflive.toNat + n)
        (fun _ => { cause := Causes.symbolExhaustion, info := BitVec.ofNat 64 n, lane := 0 }))
    -- minting, lane by lane: numbers in ascending order, 1 after 65535, and none for a result that ends invalid
    (∀ n l a f t, assignSymbols n [] = { words := [], next := n, count := 0 } ∧
      assignSymbols n ((l, .form a (some f)) :: t) = match a.join n f with
        | some w =>
          let r := assignSymbols (n % 65535 + 1) t
          { words := (l, w) :: r.words, next := r.next, count := r.count + 1 }
        | none =>
          let r := assignSymbols n t
          { r with words := (l, invalidWords) :: r.words }) ∧
    let real := fun (i : Instr) (f : Form) (q : Env → Nat → Option AffQty) =>
      did i f (fun e l => match q e l with
        | none => .invalid
        | some q => formAff (e.g.helper.getLsbD l) q)
    let made := fun (i : Instr) (f : Form) (q : Env → Nat → Option RatQty) =>
      real i f (fun e l => (q e l).map RatQty.qty)
    let fab := affForm g h [d] [] [] [a, b] (some a) (some b)
    let f1 := affForm g .none [d] [x] [] [] none none
    let f2 := affForm g .none [d] [x, y] [] [] none none
    let fs := affForm g h [d] [x] [] [b] none (some b)
    made (.afset g h d a b sym) fab (fun e l => do return qtySet sym (← fin32 (e.rd a l)) (← fin32 (e.rd b l))) ∧
    made (.afint g h d a b) fab (fun e l => do qtyInt (← fin32 (e.rd a l)) (← fin32 (e.rd b l))) ∧
    did (.afmov g d x) f1 (fun e l => .words (e.affWords x.val l)) ∧
    made (.afadd g d x y) f2 (fun e l => do return qtyAdd false (← e.aff x l) (← e.aff y l)) ∧
    made (.afsub g d x y) f2 (fun e l => do return qtyAdd true (← e.aff x l) (← e.aff y l)) ∧
    made (.afscl g h d x b) fs (fun e l => do return qtyScl (← fin32 (e.rd b l)) (← e.aff x l)) ∧
    made (.afaddc g h d x b) fs (fun e l => do return qtyAddc (← fin32 (e.rd b l)) (← e.aff x l)) ∧
    made (.afmul g d x y) f2 (fun e l => do return qtyMul (← e.aff x l) (← e.aff y l)) ∧
    made (.afsqr g d x) f1 (fun e l => do return qtySqr (← e.aff x l)) ∧
    made (.afrcp g d x) f1 (fun e l => do qtyRcp (← e.aff x l)) ∧
    made (.afdiv g d x y) f2 (fun e l => do qtyDiv (← e.aff x l) (← e.aff y l)) ∧
    real (.afsqrt g d x) f1 (fun e l => do qtySqrt (← e.aff x l)) ∧
    (let src := CondMode.thrReg mode
     did (.afcond g h d x mode) (affForm g h [d] [x] [] src none src.head?) (fun e l =>
       condAff mode (e.g.helper.getLsbD l) ((src.head?.map (fun r => e.rd r l)).getD 0) (e.affWords x.val l)))

/-- Reading affine registers and the spawn pool (R201-R205): centre, deviation, ends and terms; certain comparison writes
PF and PT; `afrel` frees part of the pool or traps, `afrel.all` all of it. -/
def Obligations.AffineReads : Prop :=
  ∀ (g : Guard) (h : Hold) (d a b : Reg) (x y pt pf : Fin 8) (cnd : AfCond) (sel : TermSel) (ps : PoolSel),
    let fr := affForm g .none [] [x] [d] [] none none
    let reads := fun (i : Instr) (f : Form) (v : Env → Nat → Word) =>
      (∀ (s : State) (e : Env), f.Ready e s → e.badAff f.affS = none → ∃ t g', exec i s = .next t ∧ Wrote e d (v e) 0 s t g') ∧
      (∀ l, Traps i f (fun e _ => e.badAff f.affS = some l) (fun _ => { cause := Causes.affineFormat, info := 0, lane := l }))
    reads (.afctr g d x) fr (fun e l => ((e.aff x l).map (fun v => v.ctr)).getD 0x7FC00000) ∧
    reads (.afrad g d x) fr (fun e l => ((e.aff x l).map (fun v => rup32 v.dev)).getD 0x7F800000) ∧
    reads (.aflo g d x) fr (fun e l => ((e.aff x l).map (affEnd true)).getD 0xFF800000) ∧
    reads (.afhi g d x) fr (fun e l => ((e.aff x l).map (affEnd false)).getD 0x7F800000) ∧
    (let src := TermSel.index sel
     reads (.afterm g h d x sel) (affForm g h [] [x] [d] src none src.head?) (fun e l =>
       termVal sel (e.affWords x.val l) ((src.head?.map (fun r => (e.rd r l).toNat)).getD 0))) ∧
    Results (.afsymq g d ps) (affForm g .none [] [] [d] [] none none) d (fun e _ => match ps with
      | .next => e.t.afnext.setWidth 32
      | .live => e.t.aflive.setWidth 32
      | .quota => e.t.afquota.setWidth 32
      | .free => BitVec.ofNat 32 (e.t.afquota.toNat - e.t.aflive.toNat)) ∧
    Ends (.afcmp g pt x y pf cnd) (affForm g .none [] [x, y] [] [] none none)
      (fun e _ => e.badAff [x, y] = none)
      (fun e s =>
        let r := fun l => match e.aff x l, e.aff y l with
          | some u, some v => affCompare cnd u v
          | _, _ => (false, false)
        s.modGroup e.core e.slot (fun g =>
          (g.setPred pt.val e.act (LaneMask.ofFn (fun l => (r l).1))).setPred pf.val e.act (LaneMask.ofFn (fun l => (r l).2)))) ∧
    (let f := Form.grouped (affForm g .none [] [] [] [a, b] none none)
     let ok := fun (e : Env) => (e.sc a).toNat ≠ 0 ∧ (e.sc a).toNat ≤ (e.sc b).toNat ∧ (e.sc b).toNat ≤ 65535 ∧
       (e.sc b).toNat - (e.sc a).toNat + 1 ≤ e.t.aflive.toNat
     Ends (.afrel g a b) f (fun e _ => e.act ≠ 0 ∧ ok e) (fun e s => s.modTeam e.core e.g.team (fun t =>
       { t with aflive := t.aflive - BitVec.ofNat 16 ((e.sc b).toNat - (e.sc a).toNat + 1) })) ∧
     Traps (.afrel g a b) f (fun e _ => e.act ≠ 0 ∧ ¬ ok e) (fun _ => { cause := Causes.symbolRelease, info := 0, lane := 0 })) ∧
    Ends (.afrelAll g) (Form.grouped (affForm g .none [] [] [] [] none none)) (fun e _ => e.act ≠ 0)
      (fun e s => s.modTeam e.core e.g.team (fun t => { t with aflive := 0 }))

/-! ## Memory -/

/-- Loads complete (R216, R217, R223, R224): once every lane's address has passed its checks, `ld` and `ldg` count their misses,
put one result in flight with each real lane's data (zero on a miss) and each helper lane's, and write RP; `ldgf` logs the
operands and puts the data of the lanes that find their pages in flight, and where lanes miss it writes one fault record a
granule in order of its lowest lane, as far as the team's ring has room, and makes the firm gather due. The translations that
the lanes used, helper lanes among them, are held or walked for (R213, log 17). With no passing lane a load does nothing. A
handler group's GRP is its index modulo 16 (log 53). -/
def Obligations.LoadsComplete : Prop :=
  ∀ (g : Guard) (h : Hold) (d base : Reg) (disp : BitVec 16) (space : Space) (size : MSize) (rp : Fin 8),
    let data := fun (e : Env) (b : MBase) (s1 : State) (r : List (Nat × Reach)) =>
      (r.map (fun x => (x.1, e.loaded size s1 x.2)) ++ e.helperLoads size (e.helperReach b size.bytes s1).2 s1).flatMap
        (fun x => e.laneWrites d x.1 x.2)
    let touched := fun (e : Env) (b : MBase) (s1 : State) (r : List (Nat × Reach)) =>
      e.touch false (r ++ (e.helperReach b size.bytes s1).2) (e.helperReach b size.bytes s1).1
    let loads := fun (i : Instr) (b : MBase) =>
      let f := memForm g h (some (d, size.regs)) true b true
      Ends i f (fun e _ => e.act = 0) (fun _ s => s) ∧
      ∀ (s : State) (e : Env) s1 r, f.Ready e s → e.act ≠ 0 → e.checked b size.bytes false s = (s1, .ok r) →
        let s2 := e.countMisses r (touched e b s1 r)
        let s3 : State := { (s2.modGroup e.core e.slot (fun g => { g with inflight := g.inflight ++ [{
          id := s2.nextId, kind := .load, vregs := e.vregs (d, size.regs), sregs := [], vdata := data e b s1 r, sdata := [],
          flags := 0, ready := true }] })) with nextId := s2.nextId + 1 }
        let s4 := if rp.val = 0 then s3 else s3.modGroup e.core e.slot (fun g => g.setPred rp.val e.act (missLanes e.core r))
        exec i s = .next (e.advance (e.latch f (e.watch false size.bytes r s4)))
    loads (.ld g h d base disp space size rp) { reg := base, wide := false, disp := disp, space := space } ∧
    loads (.ldg g h d base disp space size rp) { reg := base, wide := true, disp := disp, space := space } ∧
    (let b : MBase := { reg := base, wide := true, disp := disp, space := space }
     let f : Form := { memForm g h (some (d, size.regs)) true b false with log := true }
     Ends (.ldgf g h d base disp space size) f (fun e _ => e.act = 0) (fun _ s => s) ∧
     (∀ (s : State) (e : Env) s1 r, f.Ready e s → e.act ≠ 0 → e.checked b size.bytes false s = (s1, .ok r) →
       (∀ o ∈ e.g.logs, o ≠ none) →
       exec (.ldgf g h d base disp space size) s = .next (s.modGroup e.core e.slot (fun g => { g with wait := .stalled }))) ∧
     (∀ (s : State) (e : Env) s1 r n, f.Ready e s → e.act ≠ 0 → e.checked b size.bytes false s = (s1, .ok r) →
       lowestFree e.g.logs = some n →
       let s2 := touched e b s1 r
       let flight := e.flightOf s2.nextId .gather (d, size.regs) (data e b s1 (r.filter (fun x => !x.2.misses e.core))) true
       let logged := fun (o : OpLog) => o.guard = e.act ∧ o.pcm = ~~~missLanes e.core r ∧ o.pc = e.sp.pc ∧ o.flight = s1.nextId ∧
         o.size = size ∧ o.space = space ∧ o.addrs = (List.range 32).map (fun l => BitVec.ofNat 48 (e.rawAddr b l))
       (missLanes e.core r = 0 → ∃ o, logged o ∧ o.dropped = false ∧
         exec (.ldgf g h d base disp space size) s = .next (e.advance (e.latch f (e.watch false size.bytes r
           { s2.modGroup e.core e.slot (fun g =>
               { g with inflight := g.inflight ++ [flight], logs := g.logs.set n (some o) }) with nextId := s2.nextId + 1 })))) ∧
       (missLanes e.core r ≠ 0 →
         -- the lanes that miss, with their granules and the cause of each
         let gone := r.filterMap (fun x => match x.2 with
           | .vt va l _ => if l.resident e.core then none else some (x.1, va / 0x10000 * 0x10000, if Pte.res l.pte then 1 else 0)
           | .sp _ => none)
         let record := fun (gr : Nat) =>
           let mine := gone.filter (fun x => x.2.1 == gr)
           let lanes := LaneMask.ofFn (fun l => mine.any (fun x => x.1 == l))
           leBytes 8 gr ++ leBytes 8 (lanes.toNat + 2 ^ 32 * e.core + 2 ^ 40 * ((mine.map (fun x => x.2.2)).headD 0) +
             2 ^ 44 * (e.g.index % 16) + 2 ^ 48 * e.t.num)
         let slots := 2 ^ e.t.frqSz.toNat
         let ring := ((gone.map (fun x => x.2.1)).eraseDups).foldl (fun (a : BitVec 12 × List (Nat × List Byte) × Bool) gr =>
           if e.t.frqSz = 0 ∨ (a.1.toNat + 1) % slots = e.t.frqhd.toNat % slots then (a.1, a.2.1, true)
           else (BitVec.ofNat 12 ((a.1.toNat + 1) % slots),
             a.2.1 ++ [(e.t.spb + e.t.frqBase.toNat + 16 * (a.1.toNat % slots), record gr)], a.2.2)) (e.t.frqtl, [], false)
         ∃ u o, exec (.ldgf g h d base disp space size) s = .next (e.advance (e.latch f (e.watch false size.bytes r u))) ∧
           logged o ∧ o.dropped = ring.2.2 ∧
           { u with cores := s2.cores, nextId := s2.nextId } = s2 ∧ u.nextId = s2.nextId + 1 ∧
           (∀ c, c ≠ e.core → u.core c = s2.core c) ∧
           (let k := s2.core e.core
            { u.core e.core with sp := k.sp, regs := k.regs, teams := k.teams, groups := k.groups } = k) ∧
           (u.core e.core).sp = ring.2.1.foldl (fun m x => Memory.store m x.1 x.2) e.k.sp ∧
           (u.core e.core).regs = e.k.regs ∧
           (∀ j, (u.core e.core).team j = if j = e.g.team then (e.k.team j).map (fun t => { t with frqtl := ring.1 })
             else e.k.team j) ∧
           (∀ j, (u.core e.core).group j = if j = e.slot
             then some { e.g with gatherDue := true, inflight := e.g.inflight ++ [flight], logs := e.g.logs.set n (some o) }
             else e.k.group j))))

/-- A load from the scratchpad (R2, R207, R217): in a converged run of lanes with no helper, every address aligned and below
SCRATCH, the result in flight holds for each passing lane the little-endian value at the team's base plus base plus
displacement, extended by its size; no memory changes, on this core or elsewhere. -/
def Obligations.ScratchLoadReads : Prop :=
  ∀ (g : Guard) (h : Hold) (d base : Reg) (disp : BitVec 16) (size : MSize) (rp : Fin 8) (s : State) (e : Env),
    let b : MBase := { reg := base, wide := false, disp := disp, space := .sp }
    let at' := fun (l : Nat) => (e.rd base l + disp.signExtend 32).toNat
    (memForm g h (some (d, size.regs)) true b true).Ready e s → e.act ≠ 0 → e.g.helper = 0 →
    (∀ l ∈ e.lanes, at' l % size.bytes = 0 ∧ at' l < e.t.scratch) →
    ∃ t g' fl, exec (.ld g h d base disp .sp size rp) s = .next t ∧ t.group e.core e.slot = some g' ∧
      g'.inflight = e.g.inflight ++ [fl] ∧ fl.ready = true ∧ fl.kind = .load ∧ fl.vregs = e.vregs (d, size.regs) ∧
      (∀ l ∈ e.lanes,
        let bytes := fun n => Memory.nat e.k.sp (e.t.spb + at' l) n
        let ws : List Word := match size with
          | .n32 => [BitVec.ofNat 32 (bytes 4)]
          | .n8 => [BitVec.ofNat 32 (bytes 1)]
          | .s8 => [(BitVec.ofNat 8 (bytes 1)).signExtend 32]
          | .n16 => [BitVec.ofNat 32 (bytes 2)]
          | .s16 => [(BitVec.ofNat 16 (bytes 2)).signExtend 32]
          | .n64 => [BitVec.ofNat 32 (bytes 8), BitVec.ofNat 32 (bytes 8 / 2 ^ 32)]
          | .n128 => (List.range 4).map (fun j => BitVec.ofNat 32 (bytes 16 / 2 ^ (32 * j)))
        ∀ j, j < ws.length → (e.vnum d l + j, l, ws.getD j 0) ∈ fl.vdata) ∧
      (t.core e.core).sp = e.k.sp ∧ (t.core e.core).vault = e.k.vault ∧ (t.core e.core).regs = e.k.regs ∧
      (t.core e.core).acc = e.k.acc ∧ (t.core e.core).planes = e.k.planes ∧ SameMemories e.core s t ∧ (∀ q, q ≠ 0 → q ≠ rp.val → g'.pred q = e.g.pred q) ∧
      (∀ l ∈ e.lanes, rp.val ≠ 0 → (g'.pred rp.val).getLsbD l = false)

/-- Stores complete (R216, R218, R219, R227): once every lane's address has passed its checks and the bounce pool has room,
the lanes store in ascending order: to the scratchpad, word by word to the write queue of their colour, or, at a page that is not
resident, to the pool of the core's cluster, whose line for the address keeps the byte in place of an older one. The oldest word of a
colour drains: a store's bytes are then in the vault, and nothing else changes but the queue. A piece of a queued store may come before
the rest of it, unless an older entry of its colour is of another word or writes the same bytes (R329, log 12). -/
def Obligations.StoresComplete : Prop :=
  (∀ (g : Guard) (h : Hold) (d base : Reg) (disp : BitVec 16) (space : Space) (size : MSize) (col : Fin 8) (s : State) (e : Env),
    let stores := fun (i : Instr) (b : MBase) =>
      let f := memForm g h (some (d, size.regs)) false b true
      ∀ s1 r, f.Ready e s → e.checked b size.bytes true s = (s1, .ok r) →
        (s1.cluster (e.core / 8)).roomFor e.part (missLines e.core r) = true →
        exec i s = .next (e.advance (e.latch f (e.watch true size.bytes r
          (r.foldl (fun s x => e.storeLane s1.nextId col.val (e.storeBytes d size x.1) x.2 s) (e.touch true r s1)))))
    stores (.st g h d base disp space size col) { reg := base, wide := false, disp := disp, space := space } ∧
    stores (.stg g h d base disp space size col) { reg := base, wide := true, disp := disp, space := space } ∧
    -- where a lane's bytes go
    (∀ word bs o, e.storeLane word col.val bs (.sp o) s = s.modCore e.core (fun k => { k with sp := Memory.store k.sp o bs })) ∧
    (∀ word bs va l held, Pte.res l.pte = true → Pte.core l.pte = e.core → e.storeLane word col.val bs (.vt va l held) s =
      { s.modGroup e.core e.slot (fun g => { g with wq := g.wq ++ (List.range ((bs.length + 3) / 4)).map (fun i => {
          id := s.nextId + i, word := word, col := col.val
          off := Pte.frame l.big l.pte + va % (if l.big then 0x200000 else 0x10000) + 4 * i
          kind := .store ((bs.drop (4 * i)).take 4), passed := [] }) }) with nextId := s.nextId + (bs.length + 3) / 4 }) ∧
    (∀ word bs va l held, ¬ (Pte.res l.pte = true ∧ Pte.core l.pte = e.core) → e.core / 8 < s.clusters.length →
      -- a byte of the pool; none where it has no line
      let pool := fun (s : State) (p a : Nat) =>
        ((s.cluster (e.core / 8)).bounce.find? (fun x => x.part == p && x.line == a / 128)).map (fun x => Store.read x.bytes a)
      let t := e.storeLane word col.val bs (.vt va l held) s
      { t with clusters := s.clusters } = s ∧ (∀ i, i ≠ e.core / 8 → t.cluster i = s.cluster i) ∧
      { t.cluster (e.core / 8) with bounce := (s.cluster (e.core / 8)).bounce } = s.cluster (e.core / 8) ∧
      (∀ i, i < bs.length → pool t e.part (va + i) = some (1#1 ++ bs.getD i 0)) ∧
      (∀ p a, ¬ (p = e.part ∧ va ≤ a ∧ a < va + bs.length) → (pool t p a).getD 0 = (pool s p a).getD 0))) ∧
  (∀ (c : Fin 256) (slot : Fin 16) (col : Fin 8) (s : State) (g : Group) (q : QEntry), s.group c.val slot.val = some g →
    g.wq.find? (fun q => q.col == col.val) = some q →
    exec (.writeQueueDrain c slot col) s = .next (s.drainQueue c.val slot.val (fun x => x.word == q.word)) ∧
    ((∀ x ∈ g.wq, x.word = q.word → ∃ bs, x.kind = .store bs) → g.wq.Pairwise (fun x y => x.id < y.id) →
      ∃ t g', exec (.writeQueueDrain c slot col) s = .next t ∧ SameBeyond c.val s t ∧
        { t.core c.val with vault := (s.core c.val).vault, groups := (s.core c.val).groups } = s.core c.val ∧
        (∀ a, Store.read (t.core c.val).vault a = (g.wq.filter (fun x => x.word == q.word)).foldl (fun b x => match x.kind with
          | .store bs => if x.off ≤ a ∧ a < x.off + bs.length then bs.getD (a - x.off) 0 else b
          | .atomic _ _ _ _ _ _ _ => b) (Store.read (s.core c.val).vault a)) ∧
        t.group c.val slot.val = some g' ∧ { g' with wq := g.wq } = g ∧
        g'.wq.map (fun x => x.id) = (g.wq.filter (fun x => x.word != q.word)).map (fun x => x.id))) ∧
  (∀ (c slot n : Nat) (s : State) (g : Group) (q : QEntry), s.group c slot = some g → g.wq[n]? = some q →
    let may := (∃ bs, q.kind = .store bs) ∧
      ∀ x ∈ g.wq, x.id < q.id → x.col = q.col → x.word = q.word ∧ ∀ a ∈ x.offsets, a ∉ q.offsets
    (may → s.drainPiece c slot n = s.drainQueue c slot (fun x => x.id == q.id)) ∧ (¬ may → s.drainPiece c slot n = s)) ∧
  (∀ (c : Fin 256) (slot : Fin 16) (col : Fin 8) (s : State),
    (∀ g, s.group c.val slot.val = some g → ∀ q ∈ g.wq, q.col ≠ col.val) → exec (.writeQueueDrain c slot col) s = .next s)

/-- The bytes a scratchpad store leaves alone, and those it writes (R2, R207, R218): where every real lane's address is
aligned, below SCRATCH and clear of open tiles, the next state's scratchpad holds at each real lane's address the last such
lane's low bytes of D, least significant first, and every other byte of it reads as before; no other memory changes, on this core or
elsewhere, and no vector or scalar register and no predicate. -/
def Obligations.ScratchStoreFrame : Prop :=
  ∀ (g : Guard) (h : Hold) (d base : Reg) (disp : BitVec 16) (size : MSize) (col : Fin 8) (s : State) (e : Env),
    let b : MBase := { reg := base, wide := false, disp := disp, space := .sp }
    let at' := fun (l : Nat) => (e.rd base l + disp.signExtend 32).toNat
    let place := fun (l : Nat) => e.t.spb + at' l
    (memForm g h (some (d, size.regs)) false b true).Ready e s →
    (∀ l ∈ e.realLanes, at' l % size.bytes = 0 ∧ at' l < e.t.scratch ∧ e.k.meetsTile (place l) size.bytes = false) →
    ∃ t g', exec (.st g h d base disp .sp size col) s = .next t ∧ t.group e.core e.slot = some g' ∧
      (∀ a, (∀ l ∈ e.realLanes, ¬ (place l ≤ a ∧ a < place l + size.bytes)) →
        Store.read (t.core e.core).sp a = Store.read e.k.sp a) ∧
      (∀ l ∈ e.realLanes, (∀ k ∈ e.realLanes, l < k → place k + size.bytes ≤ place l ∨ place l + size.bytes ≤ place k) →
        ∀ i, i < size.bytes → Store.read (t.core e.core).sp (place l + i) =
          ((e.rd (regPlus d (i / 4)) l).extractLsb' (8 * (i % 4)) 8)) ∧
      (t.core e.core).vault = e.k.vault ∧ (t.core e.core).regs = e.k.regs ∧ (t.core e.core).acc = e.k.acc ∧
      (t.core e.core).planes = e.k.planes ∧ SameMemories e.core s t ∧
      g'.s = e.g.s ∧ g'.p = e.g.p ∧ g'.i = e.g.i ∧ g'.fpflg = e.g.fpflg ∧ g'.wq = e.g.wq

/-- Atomics (R210, R229-R231): `atom` puts one result in flight and acts lane by lane, at once in the scratchpad and through
the write queue in the vault; a lane whose page is not resident takes the residency trap. `atomb` buffers one entry a lane,
keyed by grid order, team, group, lane and sequence, until the landing; a full buffer traps. -/
def Obligations.AtomicsComplete : Prop :=
  ∀ (g : Guard) (h : Hold) (d base : Reg) (disp : BitVec 16) (space : Space) (w64 : Bool) (col : Fin 8) (op : AtomOp)
    (s s1 : State) (e : Env) (r : List (Nat × Reach)),
    let b : MBase := { reg := base, wide := false, disp := disp, space := space }
    let n := if w64 then 8 else 4
    let fa := atomForm g h d b w64 op true
    let fb := atomForm g h d b w64 op false
    (fa.Ready e s → e.checked b n true s = (s1, .ok r) →
      (∀ m, firstMiss e.core r = some m → exec (.atom g h d base disp space w64 col op) s =
        .next (e.trapAt s s1 { cause := Causes.residency, info := BitVec.ofNat 64 (m.2 / 0x10000), lane := m.1 } e.sp.pc)) ∧
      (firstMiss e.core r = none → r ≠ [] → exec (.atom g h d base disp space w64 col op) s =
        .next (e.advance (e.latch fa (e.watch true n r (r.foldl (e.atomLane d w64 op col.val s1.nextId)
          ((e.touch true r s1).addInflight e.core e.slot (fun id =>
            e.flightOf id .atomic (d, if w64 then 2 else 1) [] (space == .sp)))))))) ∧
      (r = [] → exec (.atom g h d base disp space w64 col op) s = .next (e.advance (e.latch fa s1)))) ∧
    (fb.Ready e s → e.checked b n true s = (s1, .ok r) →
      (s1.cluster (e.core / 8)).roomFor e.part (missLines e.core r) = true →
      (e.atombFull r s1 = none → e.act ≠ 0 → exec (.atomb g h d base disp space w64 op) s =
        .next (e.advance (e.latch fb (e.watch true n r
          ((r.foldl (e.atombLane d w64 op) (e.touch true r s1)).modGroup e.core e.slot (fun g =>
            { g with atombSeq := g.atombSeq + 1 })))))) ∧
      (∀ t, e.atombFull r s1 = some t → exec (.atomb g h d base disp space w64 op) s = .next (e.trapAt s s1 t e.sp.pc) ∧
        t.cause = Causes.atomicFull))

/-- An atomic's result (R210): the old value is returned, the word becomes the operation's value, and no other byte of the
memory changes. -/
def Obligations.AtomicValue : Prop :=
  ∀ (m : Memory) (a : Nat) (op : AtomOp) (w64 : Bool) (x c : Dword), Memory.wf m = true →
    let n := if w64 then 8 else 4
    let v := x.toNat % 2 ^ (8 * n)
    let k := c.toNat % 2 ^ (8 * n)
    let r := Memory.atomic m a op w64 x c
    r.2 = Memory.nat m a n ∧
    Memory.nat r.1 a n = (match op with
      | .add => (r.2 + v) % 2 ^ (8 * n)
      | .min => min r.2 v
      | .max => max r.2 v
      | .and => r.2 &&& v
      | .or => r.2 ||| v
      | .xor => r.2 ^^^ v
      | .exch => v
      | .cas => if r.2 = k then v else r.2) ∧
    (∀ i, ¬ (a ≤ i ∧ i < a + n) → Store.read r.1 i = Store.read m i) ∧ Memory.wf r.1 = true

/-- Fences and residency (R221, R222, R227, R228, R320, R327): a fence passes once no entry of a named colour is queued, and
holds its group until then; `resq` writes which passing lanes' pages are resident; `pgreq` puts the granule of each real lane that
misses on the core's page-request list, once, while it has fewer than 256, and its predicate says whose request found it full;
each of their lookups loads the lane's last-page register where a translation is held and starts a walk where not, those of `prf` for
resident pages alone; a walk that returns holds its translation, restarts or ends (the walks' own shape is log 17). Every access of
a lane, an engine or a transfer sets A, and D when it stores, in the leaf as the page table now has it, so that the host's value
stands with them where the host has rewritten it since, under the walk of an access too (R320). -/
def Obligations.ResidencyWords : Prop :=
  ∀ (g : Guard) (h : Hold) (base : Reg) (disp : BitVec 16) (space : Space) (p : Fin 8) (wide : Bool) (scope : Scope)
    (skip : BitVec 8) (s : State) (e : Env),
    let b : MBase := { reg := base, wide := wide, disp := disp, space := space }
    let b0 : MBase := { reg := base, wide := wide, disp := 0, space := .vt }
    let ff : Form := { Form.plain g with inX := false }
    let f : Form := { memForm g h none false b false with inX := false }
    let f0 : Form := { memForm g h none false b0 false with inX := false }
    (ff.Ready e s → e.act ≠ 0 → ∀ dem, e.demote (scope == .sys) = .ok dem →
      ((∀ q ∈ e.g.wq, skip.getLsbD q.col = true) →
        exec (.fence g scope skip) s = .next (e.advance (e.latch ff (dem s)))) ∧
      (∀ q ∈ e.g.wq, skip.getLsbD q.col = false →
        exec (.fence g scope skip) s = .next ((dem s).modGroup e.core e.slot (fun g => { g with wait := .fence skip })))) ∧
    -- a lane's lookup: a page found joins its last-page register at once or by a walk
    let looks := fun (s : State) (x : Nat × Reach) =>
      match x.2 with
      | .vt va l held => s.modCore e.core (fun k =>
          if held then { k with lastPage :=
              { key := 32 * e.slot + x.1, page := va / (if l.big then 0x200000 else 0x10000), big := l.big, leaf := l.pte } ::
                k.lastPage.filter (fun y => y.key != 32 * e.slot + x.1) }
          else k.addWalk e.part e.slot x.1 va l false)
      | .sp _ => s
    let found := fun (r : List (Nat × Option Reach)) => r.filterMap (fun x => x.2.map (fun y => (x.1, y)))
    (f0.Ready e s → e.rangeTrap b0 1 e.realLanes = none →
      let r := e.reach b0 e.lanes s
      exec (.resq g h p base wide) s = .next (e.advance (e.latch f0 (((found r.2).foldl looks r.1).modGroup e.core e.slot (fun g =>
        g.setPred p.val e.act (LaneMask.ofFn (fun l => r.2.any (fun x => x.1 == l && x.2.any (fun y => !y.misses e.core))))))))) ∧
    (f.Ready e s → ∀ s1 r, e.checked b 4 false s = (s1, .ok r) → e.core % 8 < (s1.cluster (e.core / 8)).pageReq.length →
      let asks := r.filterMap (fun x => match x.2 with
        | .vt va l _ => if Pte.res l.pte = true ∧ Pte.core l.pte = e.core then none else some (x.1, va / 0x10000 * 0x10000)
        | .sp _ => none)
      let out := asks.foldl (fun (a : List Nat × LaneMask) x =>
        if x.2 ∈ a.1 then a
        else if a.1.length < 256 then (a.1 ++ [x.2], a.2)
        else (a.1, a.2 ||| (1#32 <<< x.1))) ((s1.cluster (e.core / 8)).pageReq.getD (e.core % 8) [], 0)
      let t := (r.foldl looks s1).modCluster (e.core / 8) (fun k => { k with pageReq := k.pageReq.set (e.core % 8) out.1 })
      exec (.pgreq g h base disp space p wide) s = .next (e.advance (e.latch f (if p.val = 0 then t
        else t.modGroup e.core e.slot (fun g => g.setPred p.val (e.act &&& ~~~e.g.helper) out.2))))) ∧
    (f.Ready e s → e.rangeTrap b 4 e.realLanes = none →
      let r := e.reach b e.realLanes s
      exec (.prf g h base disp space wide) s = .next (e.advance (e.latch f
        (((found r.2).filter (fun x => !x.2.misses e.core)).foldl looks r.1)))) ∧
    (∀ (k : Core) (lane va : Nat) (l : Leaf) (access : Bool), lane < 32 →
      let t := k.addWalk e.part e.slot lane va l access
      { t with walks := k.walks } = k ∧ t.walks.length ≤ k.walks.length + 1 ∧
      ∃ w ∈ t.walks, w.part = e.part ∧ w.slot = e.slot ∧ w.leaf = l.pte ∧ w.big = l.big ∧ w.access = access ∧
        w.lanes.getLsbD lane = true ∧ w.va / pageSize l.big = va / pageSize l.big) ∧
    (∀ (c : Fin 256) (i : Nat) (w : Walk), (s.core c.val).walks[i]? = some w →
      let ws := (s.core c.val).walks
      let left := fun (l : List Walk) => s.modCore c.val (fun k => { k with walks := l })
      let again := fun (l : Leaf) => ws.set i { w with leaf := l.pte, big := l.big }
      let now := walk s.host (s.part w.part) w.va
      (∀ l, now = some l → l.pte = w.leaf → exec (.pageWalkComplete c i) s = .next ((left (ws.eraseIdx i)).modCore c.val
        (fun k => k.fill ((LaneMask.toList w.lanes).map (fun x => w.slot * 32 + x)) w.va l))) ∧
      (w.access = false ∨ leafPlace s.host (s.part w.part) w.va w.big = none →
        (now = none → exec (.pageWalkComplete c i) s = .next (left (ws.eraseIdx i))) ∧
        (∀ l, now = some l → l.pte ≠ w.leaf → exec (.pageWalkComplete c i) s = .next (left (again l)))) ∧
      -- the access of the walk has used the leaf that the host has rewritten since: A is set in the host's value
      (w.access = true → (∀ l, now = some l → l.pte ≠ w.leaf) →
        ∀ x, leafPlace s.host (s.part w.part) w.va w.big = some (.host x) → ∃ t, exec (.pageWalkComplete c i) s = .next t ∧
          t = { left (t.core c.val).walks with host := t.host } ∧ Memory.dword t.host x = Memory.dword s.host x ||| 0x10 ∧
          (∀ a, ¬ (x ≤ a ∧ a < x + 8) → Store.read t.host a = Store.read s.host a) ∧
          (now = none → (t.core c.val).walks = ws.eraseIdx i) ∧
          (now ≠ none → (t.core c.val).walks = match walk t.host (s.part w.part) w.va with
            | some l => again l
            | none => ws.eraseIdx i))) ∧
    -- what an access does to its leaf, in whatever the host has made of it
    (∀ (c p slot lane va x : Nat) (l : Leaf) (hit store : Bool), l.ref = .host x →
      Memory.dword (s.accessed c p slot lane va l hit store).host x =
        Memory.dword s.host x ||| 0x10 ||| (if store then 0x20 else 0)) ∧
    (∀ (c p va x : Nat) (l : Leaf) (store : Bool), l.ref = .host x → (s.pick c p 512 va).2.1 = some l →
      Memory.dword (s.translate c p va store).1.host x = Memory.dword s.host x ||| 0x10 ||| (if store then 0x20 else 0))

/-! ## Copies and decoding -/

/-- The copy engine (R233-R235): `cpy` returns its tag and starts a copy in the lowest free copy slot, or waits where all
eight are taken; `cpyw` passes once the copies it names are complete; a copy that completes has moved its bytes in ascending
pieces, those that moved before included, or ends early, at a piece that fails, with its error bit and the copy-fault trap due. Copies
take effect in the order of the core's queue (R332), and one of a core that nothing else uses, without an error, not before the clock
that R266 gives for it, each of its pieces not before its own. A table that waits for it becomes readable then (log 62). -/
def Obligations.CopyEngine : Prop :=
  ∀ (g : Guard) (d a b c : Reg) (scope : Scope) (rel acq : Bool) (dsp ssp : Space),
    let f := Form.grouped (engineForm g [(d, 1)] [a, b, c])
    let fw := Form.grouped (engineForm g [] [a])
    let args := fun (e : Env) =>
      ({ dsp := dsp, ssp := ssp, dst := (e.sc a).toNat, src := (e.sc b).toNat, len := (e.sc c).toNat } : CopyArgs)
    (∀ n dem, Ends (.cpy g d a b c scope rel acq dsp ssp) f
      (fun e _ => e.act ≠ 0 ∧ e.copyCheck (args e) = .ok () ∧ e.k.freeCopySlot e.g.uid = some n ∧
        e.demote (scope == .sys && rel) = .ok dem)
      (fun e s =>
        let seq : BitVec 16 := if e.g.copySeq = 0xFFFF then 1 else e.g.copySeq + 1
        let cs := BitVec.ofNat 3 n
        e.wrS d (seq ++ BitVec.ofNat 8 e.slot ++ 0#5 ++ cs)
          ((dem s).startCopy e.core e.slot e.g.uid e.g.team seq cs (args e) acq none))) ∧
    Leads (.cpy g d a b c scope rel acq dsp ssp) f
      (fun e _ => e.act ≠ 0 ∧ e.copyCheck (args e) = .ok () ∧ e.k.freeCopySlot e.g.uid = none)
      (fun e s => s.modGroup e.core e.slot (fun g => { g with wait := .stalled })) ∧
    Ends (.cpyw g a) fw (fun e _ => e.act ≠ 0 ∧ e.k.tagWait e.slot e.g (e.tagOf a) = some true) (fun _ s => s) ∧
    Leads (.cpyw g a) fw (fun e _ => e.act ≠ 0 ∧ e.k.tagWait e.slot e.g (e.tagOf a) = some false)
      (fun e s => s.modGroup e.core e.slot (fun g => { g with wait := .cpyw (e.tagOf a) })) ∧
    (∀ (k : Fin 256) (i : Nat) (x : CopyCmd) (s : State), (s.core k.val).copies[i]? = some x →
      let timed := x.alone = true ∧ (s.core k.val).aloneSince x.uid x.entry = true
      let total := (x.len + 127) / 128
      let ends := x.entry + 8 + total + 3
      -- the pieces that are left, or of them those whose clocks have come
      let n := if timed then min (total - x.moved) (s.clock + 1 - (x.entry + 8 + x.moved)) else total - x.moved
      let r := ((s.acquire k.val x.slot x.acq x.acqId).landCmd x.acqId).copyPieces k.val x.team
        { dsp := x.dsp, ssp := x.ssp, dst := x.dst, src := x.src, len := x.len } x.moved n
      let early := timed ∧ s.clock < ends ∧ r.2 = true
      let done := if r.2 = true ∧ timed then ends else s.clock
      let t := (r.1.modCore k.val (fun k => Core.readable { k with copies := k.copies.eraseIdx i } done)).tryEndTeam k.val x.team
      (i ≠ 0 ∨ early → exec (.copyComplete k i) s = .next s) ∧
      (i = 0 → ¬ early → exec (.copyComplete k i) s = .next (if r.2 then t else
        (t.modOwner k.val x.slot x.uid (fun g => { g with cpyerr := g.cpyerr ||| (1#8 <<< x.cslot.toNat) })).dueOwner k.val x.slot
          x.uid Causes.copyFault ((x.seq ++ BitVec.ofNat 8 x.slot ++ 0#5 ++ x.cslot).setWidth 64))))

/-- A copy within the scratchpad (R233): with the source and destination apart and whole pieces of words, the destination
holds what the source held, and every other byte of the scratchpad reads as before. -/
def Obligations.ScratchCopyMoves : Prop :=
  ∀ (s : State) (c j dst src len : Nat) (t : Team), c < s.cores.length → s.team c j = some t →
    Memory.wf (s.core c).sp = true → len % 4 = 0 → dst + len ≤ src ∨ src + len ≤ dst →
    let r := s.copyPieces c j { dsp := .sp, ssp := .sp, dst := dst, src := src, len := len } 0 ((len + 127) / 128)
    r.2 = true ∧ r.1 = s.modCore c (fun k => { k with sp := (r.1.core c).sp, shownSp := (r.1.core c).shownSp }) ∧ Memory.wf (r.1.core c).sp = true ∧
    (∀ i, i < len → Store.read (r.1.core c).sp (t.spb + dst + i) = Store.read (s.core c).sp (t.spb + src + i)) ∧
    (∀ a, ¬ (t.spb + dst ≤ a ∧ a < t.spb + dst + len) → Store.read (r.1.core c).sp a = Store.read (s.core c).sp a)

/-- The decode engine (R236, R237): `dectab` and `decv` queue their commands, `decv` with its registers pending; tables load
into the cache, a block's values return in every lane that has not exited, and a fault makes the decode-fault trap due. -/
def Obligations.DecodeEngine : Prop :=
  ∀ (g : Guard) (d a b : Reg) (scope : Scope) (acq : Bool) (space : Space) (slot : Fin 8),
    let ft := Form.grouped (engineForm g [] [a, b])
    let fmt := fun (e : Env) => e.gr.slot slot.val
    Ends (.dectab g a b scope acq slot) ft
      (fun e _ => e.act ≠ 0 ∧ (fmt e).isC3 = true ∧ (e.sc b).toNat ≤ 16)
      (fun e s => if e.sc b = 0 then s else s.startDecode e.core e.slot e.g.uid e.g.team e.sp.pc
        (.table (fmt e) (e.sc a).toNat (e.sc b).toNat) acq none) ∧
    (∀ (s : State) (e : Env) (n : Nat), n = (if (fmt e).isC3 then 4 else 1) →
      let f := Form.grouped { engineForm g [(d, n)] [a, b] with pre := fun _ => decvAlign d n }
      f.Ready e s → e.act ≠ 0 → (fmt e).decodable = true → (fmt e).kind ≠ 0 →
      ((fmt e).isC3 = true → (e.sc b).toNat % 128 = 0) → (e.sc a).toNat % 4 = 0 →
      (e.sc a).toNat + (fmt e).blockBytes ≤ Team.size e.t space →
      exec (.decv g d a b scope acq space slot) s = .next (e.advance (e.latch f
        ((s.addInflight e.core e.slot (fun id => e.flightOf id .decode (d, n) [] false)).startDecode e.core e.slot e.g.uid
          e.g.team e.sp.pc (.block (fmt e) space (e.sc a).toNat (e.sc b).toNat (e.vnum d 0) s.nextId) acq none)))) ∧
    (∀ (k : Fin 256) (x : DecCmd) (rest : List DecCmd) (s : State), (s.core k.val).decq = x :: rest →
      (∀ f first count, x.kind = .table f first count →
        let r := (s.acquire k.val x.slot x.acq x.acqId).loadTables k.val x.team f first count
        let t := (r.1.modCore k.val (fun k => { k.endHead .decode with decq := rest })).tryEndTeam k.val x.team
        exec (.decodeTableLoadComplete k) s = .next (if r.2 then t else
          t.dueOwner k.val x.slot x.uid Causes.decodeFault (x.pc.setWidth 64))) ∧
      (∀ f spc off e0 d id, x.kind = .block f spc off e0 d id →
        let r := (s.acquire k.val x.slot x.acq x.acqId).decodeBlock k.val x.team f spc off e0
        let t := r.1.modCore k.val (fun k => { k.endHead .decode with decq := rest })
        let n := if f.isC3 then 4 else 1
        let vals := r.2.getD (List.replicate n (List.replicate 32 0))
        let lanes := ((t.group k.val x.slot).map (fun g => LaneMask.toList g.live)).getD []
        let back := ((t.fillFlight k.val x.slot id (fun f => { f with
          vdata := (List.range n).flatMap (fun i => lanes.map (fun l => (d + i, l, (vals.getD i []).getD l 0)))
          ready := true })).deliver k.val x.slot id).tryEndTeam k.val x.team
        exec (.decodeResultReturn k) s = .next (if r.2.isSome then back else
          back.dueOwner k.val x.slot x.uid Causes.decodeFault (x.pc.setWidth 64))))

/-! ## The cruiser and the matrix unit -/

/-- The loop cruiser (R241, R261-R265): `lscfg` takes a descriptor that R262 allows, `lsgo` starts a run, `lswait` waits for
it and returns its status; all three claim the unit. One record is emitted at a time while its queue has room, and a check
that fails ends the run with the cruiser-fault trap due. That its TINFO shows a number of records that does not fit its field as
0xFFFFFFF is the model's choice (log 66). -/
def Obligations.CruiserRuns : Prop :=
  ∀ (g : Guard) (d a : Reg),
    let mine := fun (e : Env) => e.k.mowner = none ∨ e.k.mowner = some e.g.team
    let claim := fun (e : Env) (s : State) => s.modCore e.core (fun k => { k with mowner := some e.g.team })
    (∀ x, Ends (.lscfg g a) (Form.grouped (engineForm g [] [a]))
      (fun e _ => e.act ≠ 0 ∧ mine e ∧ e.k.run = none ∧ (e.sc a).toNat % 16 = 0 ∧ (e.sc a).toNat ≤ e.t.scratch ∧
        parseDesc e.k.sp (e.t.spb + (e.sc a).toNat) (e.t.scratch - (e.sc a).toNat) = some x)
      (fun e s => (claim e s).modCore e.core (fun k => { k with cruiser := some x }))) ∧
    Traps (.lscfg g a) (Form.grouped (engineForm g [] [a])) (fun e _ => e.act ≠ 0 ∧ mine e ∧ e.k.run ≠ none)
      (fun _ => { cause := Causes.cruiserBusy, info := 0, lane := 0 }) ∧
    (∀ (s : State) (e : Env) (x : CruiserDesc),
      let f := Form.grouped { engineForm g [] [] with srcs := [(a, x.nlev)] }
      f.Ready e s → e.act ≠ 0 → mine e → e.k.run = none → e.k.cruiser = some x → pastScalars a x.nlev = false →
      let r : CruiserRun := {
        id := s.nextId, slot := e.slot, uid := e.g.uid, team := e.g.team, pc := e.sp.pc, idx := [0], emit := 0
        trips := (List.range x.nlev).map (fun j => (e.sc (regPlus a j)).toNat) }
      exec (.lsgo g a) s = .next (e.advance (e.latch f { ((claim e s).modCore e.core (fun k => { k with
        run := if (x.nextOf r).isSome then some r else none, lsFault := false, lsCount := 0, lsRan := true })) with
        nextId := s.nextId + 1 }))) ∧
    Ends (.lswait g d) (Form.grouped (engineForm g [(d, 1)] [])) (fun e _ => e.act ≠ 0 ∧ mine e ∧ e.k.run = none)
      (fun e s => e.wrS d e.k.lsStatus (claim e s)) ∧
    Leads (.lswait g d) (Form.grouped (engineForm g [(d, 1)] [])) (fun e _ => e.act ≠ 0 ∧ mine e ∧ e.k.run ≠ none)
      (fun e s => (claim e s).modGroup e.core e.slot (fun g => { g with wait := .lswait d })) ∧
    (∀ (c : Fin 256) (s : State) (r : CruiserRun) (x : CruiserDesc) (idx : List Nat) (i : Nat) (em : Emitter),
      (s.core c.val).run = some r → (s.core c.val).cruiser = some x → x.nextOf r = some (idx, i) → x.emitters[i]? = some em →
      (s.core c.val).mayEmit r.id em = true →
      let made := (s.issuer c.val r).emit r em (affineOf em.basex em.strx idx) (affineOf em.basey em.stry idx) s
      let r1 := { r with idx := idx, emit := i + 1 }
      (∀ s1, made = .ok s1 → exec (.cruiserEmit c) s = .next (s1.modCore c.val (fun k => { k with
        run := if (x.nextOf r1).isSome then some r1 else none, lsEmit := i, lsCount := k.lsCount + 1 }))) ∧
      (∀ t, made = .error t → exec (.cruiserEmit c) s =
        .next ((s.modCore c.val (fun k => { k with run := none, lsFault := true })).dueOwner c.val r.slot r.uid
          Causes.cruiserFault (BitVec.ofNat 64 (i + 16 * min 0xFFFFFFF (s.core c.val).lsCount)))))

/-- The matrix words at issue (R240, R241, R244, R245, R249-R257): once checked, a word claims the unit and its command
joins the queue; a word that would find the queue full waits; `mfence` closes a batch and returns its number, `mwait` passes
once the named batch has completed and waits until then. A word of another team's unit traps with nothing changed (R241). That a word
of no rows claims the unit is the model's reading (log 67). -/
def Obligations.MatrixIssue : Prop :=
  (∀ (g : Guard) (d a b c : Reg) (row : BitVec 10) (z : Bool) (scope : Scope) (rel acq : Bool) (space : Space) (slot : Fin 8),
    let own := fun (e : Env) => e.act ≠ 0 ∧ (e.k.mowner = none ∨ e.k.mowner = some e.g.team)
    let claim := fun (e : Env) (s : State) => s.modCore e.core (fun k => { k with mowner := some e.g.team })
    let queued := fun (e : Env) (kind : MKind) (acq : Bool) (s : State) => { (claim e s).modCore e.core (fun k =>
      { k with mq := k.mq ++ [{
          slot := e.slot, uid := e.g.uid, team := e.g.team, kind := kind, fpctl := e.g.fpctl, acq := acq, acqId := s.nextId
          cruiser := none, entry := s.clock
          alone := ((claim e s).core e.core).aloneNow e.g.uid
          direct := ((claim e s).core e.core).pathFree s.clock }] }) with nextId := s.nextId + 1 }
    let fmt := fun (e : Env) => e.gr.slot slot.val
    let f3 := Form.grouped (engineForm g [] [a, b, c])
    let f2 := Form.grouped (engineForm g [] [a, b])
    -- a word of form `f`, allowed by `ok`, that queues the command `kind` (or nothing for no rows) with a further effect
    let does := fun (i : Instr) (f : Form) (ok : Env → State → Prop) (kind : Env → State → Option MKind) (acq : Bool)
        (eff : Env → State → State) =>
      (∀ k, Ends i f (fun e s => own e ∧ ok e s ∧ e.k.mq.length < 32 ∧ kind e s = some k) (fun e s => eff e (queued e k acq s))) ∧
      Ends i f (fun e s => own e ∧ ok e s ∧ kind e s = none) (fun e s => eff e (claim e s)) ∧
      Leads i f (fun e s => own e ∧ ok e s ∧ 32 ≤ e.k.mq.length ∧ kind e s ≠ none)
        (fun e s => s.modGroup e.core e.slot (fun g => { g with wait := .stalled }))
    let some' := fun (n : Nat) (k : MKind) => if n = 0 then none else some k
    let spans := fun (e : Env) (spc : Space) (off n : Nat) => off % 4 = 0 ∧ off + n ≤ Team.size e.t spc
    let rowsOf := fun (e : Env) => (e.sc b).toNat
    let inAcc := fun (first n : Nat) => first < 1024 ∧ first + n ≤ 1024
    let free := fun (e : Env) => (e.k.tables.filter (fun t => !t.claimed)).map (fun t => t.id)
    let mine := fun (e : Env) => (free e).take (if (fmt e).isC3 then (e.sc c).toNat / 2 else 0)
    does (.ldstw g a b c scope acq space slot) f3
      (fun e _ => (fmt e).kind ≠ 0 ∧ (fmt e).isWeight = true ∧ (e.sc b).toNat + (e.sc c).toNat ≤ 64 ∧
        ((fmt e).isC3 = true → (e.sc b).toNat % 2 = 0 ∧ (e.sc c).toNat % 2 = 0 ∧ (e.sc c).toNat / 2 ≤ (free e).length) ∧
        spans e space (e.sc a).toNat ((e.sc c).toNat * (fmt e).rowBytes))
      (fun e _ => some' (e.sc c).toNat (.ldstw (fmt e) space (e.sc a).toNat (e.sc b).toNat (e.sc c).toNat (mine e))) acq
      (fun e s => s.modCore e.core (fun k => { k with tables := k.tables.map (fun t =>
        if (mine e).contains t.id then { t with claimed := true } else t) })) ∧
    -- with four tables held, it waits for one that a load has claimed, and traps where none is
    (let full := fun (e : Env) => own e ∧ (e.sc a).toNat % 16 = 0 ∧ (e.sc a).toNat + 16 ≤ Team.size e.t space ∧
       (∃ tag, e.copyNamed b = .ok tag) ∧ 4 ≤ e.k.tables.length
     Leads (.cbtab g a b scope acq space) f2 (fun e _ => full e ∧ ∃ t ∈ e.k.tables, t.claimed = true)
       (fun e s => s.modGroup e.core e.slot (fun g => { g with wait := .stalled })) ∧
     Traps (.cbtab g a b scope acq space) f2 (fun e _ => full e ∧ ∀ t ∈ e.k.tables, t.claimed = false)
       (fun _ => { cause := Causes.weightTable, info := 0, lane := 0 })) ∧
    (∀ tag, does (.cbtab g a b scope acq space) f2
      (fun e _ => (e.sc a).toNat % 16 = 0 ∧ (e.sc a).toNat + 16 ≤ Team.size e.t space ∧ e.copyNamed b = .ok tag ∧
        e.k.tables.length < 4)
      (fun e s => some (.cbtab space (e.sc a).toNat tag s.nextId)) acq
      (fun e s => s.modCore e.core (fun k => { k with
          tables := k.tables ++ [{
            id := s.nextId - 1, claimed := false, data := none, since := if tag.isNone then some s.clock else none }] }))) ∧
    does (.swpl g) (Form.grouped (engineForm g [] [])) (fun _ _ => True) (fun _ _ => some .swpl) false (fun _ s => s) ∧
    does (.mmas g a b c z slot) f3
      (fun e _ => (fmt e).kind ≠ 0 ∧ (fmt e).isRow = true ∧ rowsOf e ≤ 256 ∧ (e.sc c).toNat + rowsOf e ≤ 1024 ∧
        spans e .sp (e.sc a).toNat (rowsOf e * (fmt e).rowBytes))
      (fun e _ => some' (rowsOf e) (.mmas (fmt e) (e.sc a).toNat (rowsOf e) (e.sc c).toNat z)) false (fun _ s => s) ∧
    does (.acz g a b) f2 (fun e _ => inAcc (e.sc a).toNat (rowsOf e))
      (fun e _ => some' (rowsOf e) (.acz (e.sc a).toNat (rowsOf e))) false (fun _ s => s) ∧
    does (.acld g a b c scope acq space slot) f3
      (fun e _ => (fmt e).kind ≠ 0 ∧ (fmt e).isIeee = true ∧ inAcc (e.sc a).toNat (rowsOf e) ∧
        spans e space (e.sc c).toNat (rowsOf e * (fmt e).rowBytes))
      (fun e _ => some' (rowsOf e) (.acld (fmt e) space (e.sc a).toNat (rowsOf e) (e.sc c).toNat)) acq (fun _ s => s) ∧
    (∀ dem, does (.drain g a b c z scope rel space slot) f3
      (fun e _ => (fmt e).kind ≠ 0 ∧ (fmt e).drainable = true ∧ inAcc (e.sc a).toNat (rowsOf e) ∧
        spans e space (e.sc c).toNat (rowsOf e * (fmt e).rowBytes) ∧ e.demote (scope == .sys && rel) = .ok dem)
      (fun e _ => some' (rowsOf e) (.drain (fmt e) space (e.sc a).toNat (rowsOf e) (e.sc c).toNat z)) false
      (fun _ s => dem s)) ∧
    (let next := fun (e : Env) => if e.k.mclosed = 0xFFFFFFFF then (1 : Word) else e.k.mclosed + 1
     does (.mfence g d) (Form.grouped (engineForm g [(d, 1)] [])) (fun _ _ => True) (fun e _ => some (.mark (next e))) false
       (fun e s => e.wrS d (next e) (s.modCore e.core (fun k => { k with mclosed := next e })))) ∧
    (let fw := Form.grouped (engineForm g [] [a])
     Ends (.mwait g a) fw
       (fun e _ => own e ∧ (e.batchNamed a - e.k.mclosed).toInt ≤ 0 ∧ 0 ≤ (e.k.mdone - e.batchNamed a).toInt) (fun e s => claim e s) ∧
     Leads (.mwait g a) fw
       (fun e _ => own e ∧ (e.batchNamed a - e.k.mclosed).toInt ≤ 0 ∧ (e.k.mdone - e.batchNamed a).toInt < 0)
       (fun e s => (claim e s).modGroup e.core e.slot (fun g => { g with wait := .mwait (e.batchNamed a) })) ∧
     Traps (.mwait g a) fw (fun e _ => own e ∧ 0 < (e.batchNamed a - e.k.mclosed).toInt)
       (fun _ => { cause := Causes.matrixSequence, info := 0, lane := 0 })) ∧
    (∀ (s : State) (e : Env) (nr : Nat), nr = (if (fmt e).isRow then (fmt e).rowBytes / 4 else 1) →
      let f : Form := { engineForm g [] [] with srcs := [(a, nr), (c, 1)], pre := mmaInBlocks a nr }
      let base := (e.sc c + row.setWidth 32).toNat
      f.Ready e s → own e → (fmt e).kind ≠ 0 → (fmt e).isRow = true →
      (∀ q ∈ quarters e.act, base + 8 * q + 7 ≤ 1023) →
      (e.k.mq.length < 32 →
        exec (.mma g a c row z slot) s = .next (e.advance (e.latch f (queued e (.mma (fmt e) (quarters e.act).length base
          (e.realLanes.map (fun l => (l, (fmt e).rowElems
            ((List.range nr).flatMap (fun j => leBytes 4 (e.rdV (e.vnum a l + j) l).toNat))))) z) false s)))) ∧
      (32 ≤ e.k.mq.length →
        exec (.mma g a c row z slot) s = .next (s.modGroup e.core e.slot (fun g => { g with wait := .stalled }))))) ∧
  (∀ (g : Guard) (a b c : Reg) (d : Reg) (row : BitVec 10) (z : Bool) (scope : Scope) (rel acq : Bool) (space : Space) (slot : Fin 8),
    let other := fun (e : Env) (_ : State) => e.act ≠ 0 ∧ ∃ j, e.k.mowner = some j ∧ j ≠ e.g.team
    let trap := fun (_ : Env) => ({ cause := Causes.matrixOwner, info := 0, lane := 0 } : Trap)
    Traps (.swpl g) (Form.grouped (engineForm g [] [])) other trap ∧
    Traps (.acz g a b) (Form.grouped (engineForm g [] [a, b])) other trap ∧
    Traps (.mfence g d) (Form.grouped (engineForm g [(d, 1)] [])) other trap ∧
    Traps (.mwait g a) (Form.grouped (engineForm g [] [a])) other trap ∧
    Traps (.lscfg g a) (Form.grouped (engineForm g [] [a])) other trap ∧
    Traps (.lswait g d) (Form.grouped (engineForm g [(d, 1)] [])) other trap ∧
    Traps (.ldstw g a b c scope acq space slot) (Form.grouped (engineForm g [] [a, b, c])) other trap ∧
    Traps (.cbtab g a b scope acq space) (Form.grouped (engineForm g [] [a, b])) other trap ∧
    Traps (.mmas g a b c z slot) (Form.grouped (engineForm g [] [a, b, c])) other trap ∧
    Traps (.acld g a b c scope acq space slot) (Form.grouped (engineForm g [] [a, b, c])) other trap ∧
    Traps (.drain g a b c z scope rel space slot) (Form.grouped (engineForm g [] [a, b, c])) other trap ∧
    -- the words whose registers a format or a descriptor counts
    (∀ (s : State) (e : Env) (n : Nat), n = (if (e.gr.slot slot.val).isRow then (e.gr.slot slot.val).rowBytes / 4 else 1) →
      ({ engineForm g [] [] with srcs := [(a, n), (c, 1)], pre := mmaInBlocks a n } : Form).Ready e s → other e s →
      exec (.mma g a c row z slot) s = .next (e.trapAt s s (trap e) e.sp.pc)) ∧
    (∀ (s : State) (e : Env) (n : Nat), n = (match e.k.cruiser with
        | some x => x.nlev
        | none => 1) →
      (Form.grouped { engineForm g [] [] with srcs := [(a, n)] }).Ready e s → other e s →
      exec (.lsgo g a) s = .next (e.trapAt s s (trap e) e.sp.pc)))

/-- The steps of the matrix and coverage units (R206, R241, R245, R246, R252, R255, R257, R266, R286, R295, R297): each executes the
command at its queue's head when that is ready, or, where the command has begun (R256, log 12), what of it is not done, a matrix
fault making its trap due for the batch, a `cvq.rec` only with a record queued or no run in progress, a `tsave` or `cvend`
closing its context only at its end (R274, R295, R298); a marker completes its batch. A team whose groups have ended ends once
its engine work is done (R110): its scratchpad bytes are zeroed and its aperture is unmapped, its frames freed and zeroed (R206, R361),
the contexts it held open close and the matrix unit that it owned is cleared. A team that owns the unit ends by that event, and the
team whose end is its grid's retirement with that, which is the model's reading of R369 (log 24). On a core that nothing else uses a
command of the unit does not end before the clocks that R246 and R266 give, and a C3 load counts its stall clocks by them as they
pass; how the two rules meet, which commands keep them and where the condition is looked at is the model's reading (log 62). -/
def Obligations.UnitSteps : Prop :=
  (∀ (c : Fin 256),
    (∀ (s : State) (x : MCmd) (rest : List MCmd), (s.core c.val).mq = x :: rest →
      let k := s.core c.val
      -- the first of its rows that the vault cannot give or take, at which it ends early
      let stops := ∃ n, n < x.vaultRows ∧ k.matrixReady x = true ∧ k.endsAt (x.cut (n + 1)) ≤ s.clock ∧
        (s.runMatrix c.val (x.cut (n + 1))).2 = false
      let ends := fun (u : State) (ok : Bool) =>
        let t := u.modCore c.val (fun y => { y.endHead .matrix with mq := rest, times := (k.noteEnd x s.clock).times })
        exec (.matrixCommandExecute c) s = .next (if ok then t else
          t.dueOwner c.val x.slot x.uid Causes.matrixFault ((k.batchOf rest).setWidth 64))
      let r := (s.acquire c.val x.slot x.acq x.acqId).runMatrix c.val x
      (k.matrixDue x s.clock = true ∨ stops →
        (k.begunBy .matrix = none → ends r.1 r.2) ∧ (∀ b, k.begunBy .matrix = some b → ends (s.landCmd x.acqId) b.ok)) ∧
      (k.matrixDue x s.clock = false → ¬ stops → exec (.matrixCommandExecute c) s = .next s)) ∧
    (∀ (s : State) (x : MCmd) (rest : List MCmd) (b : Word), (s.core c.val).mq = x :: rest → x.kind = .mark b →
      exec (.batchComplete c) s = .next (s.modCore c.val (fun k => { k with
        mq := rest, mdone := b
        times := { k.times with batchAt := if x.alone = true ∧ k.aloneSince x.uid x.entry = true then some s.clock else none } }))) ∧
    -- the end of a team, and of the unit that it owns
    (∀ (s : State) (j : Nat) (t : Team), s.team c.val j = some t →
      let k := s.core c.val
      let done := t.ending = true ∧ k.teamSlots j = [] ∧ k.teamBusy j = false
      let last := s.endsGrid (s.grid t.grid) = true
      (done → ¬ last → k.mowner ≠ some j → s.tryEndTeam c.val j = s.endTeam c.val j) ∧
      (¬ done ∨ last ∨ k.mowner = some j → s.tryEndTeam c.val j = s) ∧
      (k.mowner = some j → (done → ¬ last → exec (.matrixUnitClear c) s = .next (s.endTeam c.val j)) ∧
        (¬ done ∨ last → exec (.matrixUnitClear c) s = .next s))) ∧
    (∀ s : State, (s.core c.val).mowner = none → exec (.matrixUnitClear c) s = .next s) ∧
    (∀ (s : State) (j : Nat) (t : Team), s.canonical = true → s.team c.val j = some t →
      let k := s.core c.val
      let u := s.endTeam c.val j
      let v := u.core c.val
      v.team j = none ∧ (∀ i, i ≠ j → v.team i = k.team i) ∧ v.groups = k.groups ∧ v.regs = k.regs ∧
      (∀ a, Store.read v.sp a = if t.spb ≤ a ∧ a < t.spb + t.scratch then 0 else Store.read k.sp a) ∧
      (∀ i y, v.ctxs.getD i none = some y ↔ k.ctxs.getD i none = some y ∧ y.team ≠ j) ∧
      (k.mowner = some j → v.planes = [] ∧ v.acc = [] ∧ v.mclosed = 0 ∧ v.mdone = 0 ∧ v.act = false ∧ v.tables = [] ∧
        v.cruiser = none ∧ v.run = none ∧ v.mowner = none ∧ v.lsRan = false) ∧
      (k.mowner ≠ some j → v.planes = k.planes ∧ v.acc = k.acc ∧ v.mclosed = k.mclosed ∧ v.mdone = k.mdone ∧ v.act = k.act ∧
        v.tables = k.tables ∧ v.cruiser = k.cruiser ∧ v.run = k.run ∧ v.mowner = k.mowner ∧ v.lsRan = k.lsRan) ∧
      u.grids = s.grids.map (fun g => if g.id = t.grid then { g with teamsLeft := g.teamsLeft - 1 } else g) ∧
      u.tier = s.tier ∧ (t.vault = 0 → u.host = s.host ∧ v.vault = k.vault ∧ SameMemories c.val s u) ∧
      -- an aperture of one page, mapped in the host's page table: it is unmapped, and the frame it then names zeroed
      (∀ l x, t.vault = 0x10000 → walk s.host (s.part (s.partOf c.val)) (aperture c.val j) = some l → l.ref = .host x →
        walk u.host (u.part (s.partOf c.val)) (aperture c.val j) = none ∧ Memory.dword u.host x = 0 ∧
        (∀ a, ¬ (x ≤ a ∧ a < x + 8) → Store.read u.host a = Store.read s.host a) ∧
        ∀ d a, Store.read (u.core d).vault a =
          if Pte.res l.pte = true ∧ d = Pte.core l.pte ∧ Pte.frame l.big l.pte ≤ a ∧ a < Pte.frame l.big l.pte + pageSize l.big then 0
          else Store.read (s.core d).vault a)) ∧
    -- the commands that move no rows
    (∀ (s : State) (x : MCmd), x.kind = .swpl →
      s.runMatrix c.val x = (s.modCore c.val (fun k => { k with act := !k.act }), true)) ∧
    (∀ (s : State) (x : MCmd) (first rows : Nat), c.val < s.cores.length → x.kind = .acz first rows → ∃ t,
      s.runMatrix c.val x = (t, true) ∧ t = s.modCore c.val (fun k => { k with acc := (t.core c.val).acc }) ∧
      ∀ a, Store.read (t.core c.val).acc a =
        if 64 * first ≤ a ∧ a < 64 * (first + rows) then 0 else Store.read (s.core c.val).acc a) ∧
    -- a ready command may end in any clock, one of a core that nothing else uses not before those of R246 and R266
    (∀ (k : Core) (x : MCmd) (now : Nat), x.alone = false ∨ k.aloneSince x.uid x.entry = false ∨
      (∃ f spc off k0 rows ids, x.kind = .ldstw f spc off k0 rows ids ∧ (f.isC3 = false ∨ x.direct = false)) →
      k.matrixDue x now = k.matrixReady x) ∧
    (∀ (k : Core) (x : MCmd) (now : Nat), x.alone = true → k.aloneSince x.uid x.entry = true →
      let t := k.times
      let from' := fun (n : Nat) => k.matrixDue x now = true ↔ n ≤ now
      let rate := fun (f : FmtSlot) => if f.kind = 0x08 then 2 else if f.isK then 4 else 1
      -- `rows` rows in the queue since clock `since`, under the rates of their format and of the active plane's
      let pass := fun (f : FmtSlot) (since rows : Nat) =>
        let m := min (rate f) (t.classes.getD k.act.toNat 4)
        from' ((if t.passed then max since t.unitEnd + 1 else max (max since t.unitEnd) t.planeAt + 17) + (rows + m - 1) / m - 1)
      (x.kind = .swpl → from' (max (max t.pathEnd t.unitEnd) x.entry + 1)) ∧
      (∀ first rows, x.kind = .acz first rows → from' (max t.unitEnd x.entry + rows)) ∧
      (∀ f spc first rows off, x.kind = .acld f spc first rows off → from' (max t.unitEnd x.entry + rows)) ∧
      (∀ f spc first rows off z, x.kind = .drain f spc first rows off z → from' (max t.unitEnd x.entry + rows)) ∧
      (∀ f off rows base z, x.kind = .mmas f off rows base z → pass f x.entry rows) ∧
      (∀ f q base rows z, x.kind = .mma f q base rows z → pass f (x.entry + f.rowBytes / 4 - 1) (8 * q))) ∧
    (∀ (k : Core) (x : MCmd) (now : Nat),
      let t := (k.noteEnd x now).times
      { k.noteEnd x now with times := k.times } = k ∧ t.unitEnd = now ∧ t.batchAt = k.times.batchAt ∧
      (t.passed = true ↔ (∃ f q base rows z, x.kind = .mma f q base rows z) ∨ ∃ f off rows base z, x.kind = .mmas f off rows base z) ∧
      t.planeAt = (if x.kind = .swpl then now else k.times.planeAt)) ∧
    (∀ (s : State) (x : MCmd) (spc : Space) (i j r1 r2 : Nat) (t1 t2 : WTable), x.alone = true → x.direct = true →
      (s.core c.val).aloneSince x.uid x.entry = true → (s.core c.val).tables = [t1, t2] → t1.id = i → t2.id = j → i ≠ j →
      t1.since = some r1 → t2.since = some r2 →
      let first := x.entry + (if spc = .vt then 12 else 6)
      let last := max (max (first + 1) (r2 + 4)) (max (max first (r1 + 4)) ((s.core c.val).times.pathEnd + 1) + 2) + 1
      s.countStalls c.val x = s ∧
      (∀ f off k0 rows, f.isC3 = true → x.kind = .ldstw f spc off k0 rows [i, j] →
        ((s.core c.val).matrixDue x s.clock = true ↔ last ≤ s.clock) ∧
        ((s.core c.val).noteEnd x s.clock).times.pathEnd = last)) ∧
    (∀ (s : State) (x : MCmd) (spc : Space) (i r n : Nat) (t : WTable), c.val < s.cores.length →
      (s.core c.val).pathLoad = some (x, spc, [i]) → (s.core c.val).tables = [t] → t.id = i → t.since = some r →
      let first := x.entry + (if spc = .vt then 12 else 6)
      (s.tick n).core c.val = { s.core c.val with stall := BitVec.ofNat 32 (min 0xFFFFFFFF
        ((s.core c.val).stall.toNat + (min (r + 4) (s.clock + n) - max first s.clock))) })) ∧
  (∀ (c : Fin 256) (s : State) (x : CovCmd) (rest : List CovCmd), (s.core c.val).cq = x :: rest →
    ((s.core c.val).covReady x = true → exec (.coverageCommandExecute c) s =
      .next (((s.stepCov c.val x).modCore c.val (fun k => { k with cq := rest })).tryEndTeam c.val x.team)) ∧
    ((s.core c.val).covReady x = false ↔ (∃ d, x.kind = .query .recd d) ∧ (s.core c.val).recq = [] ∧
      (s.core c.val).run.isSome = true) ∧
    ((s.core c.val).covReady x = false → exec (.coverageCommandExecute c) s = .next s) ∧
    -- a context closes at the end of a `tsave` or `cvend` that does not fail, and stays open until then
    (∀ b : Begun, c.val < s.cores.length →
      let after := ((s.endCov c.val x b).core c.val).ctxs
      let closes := (∃ off d, x.kind = .save off d) ∨ ∃ d, x.kind = .close d
      (closes → b.ok = true → after = (s.core c.val).ctxs.set x.tc none) ∧
      (¬ closes ∨ b.ok = false → after = (s.core c.val).ctxs) ∧
      (closes → ((s.runCov c.val x).1.core c.val).ctxs = (s.core c.val).ctxs)))

/-- A pass (R246, R248): row `row` of the accumulators takes, column by column, the entry that R248 gives from the old one (zero
under `.z`) and the 64 exact products with the active plane; no other accumulator and nothing else of the core changes. -/
def Obligations.PassUpdatesRow : Prop :=
  ∀ (k : Core) (row : Nat) (a : List Word) (z : Bool), a.length = 64 →
    let t := k.pass row a z
    { t with acc := k.acc } = k ∧
    (∀ n, n < 64 → Store.read t.acc (64 * row + n) = passEntry (if z then 0 else Store.read k.acc (64 * row + n))
      ((List.range 64).map (fun i => (exact32 (a.getD i 0)).mul
        (exact32 (Store.read k.planes ((if k.act then 4096 else 0) + 64 * i + n)))))) ∧
    (∀ x, ¬ (64 * row ≤ x ∧ x < 64 * row + 64) → Store.read t.acc x = Store.read k.acc x)

/-! ## The coverage unit -/

/-- The coverage words at issue (R272, R274, R283-R298): an allowed word queues its command with its result registers pending;
`cvmono` sends a record's pieces down the transform pipe. That a word is checked against the state that the commands queued before
it will leave is the model's reading (log 30), and so is that `tload` is checked at issue (log 31). -/
def Obligations.CoverageIssue : Prop :=
  ∀ (g : Guard) (d a b c : Reg) (tc : Fin 4) (eo : Bool) (opr : BlendOp) (scope : Scope) (rel acq : Bool) (sel : CvqSel),
    -- a word allowed by `ok` queues `kind` with scalar results `d`
    let does := fun (i : Instr) (f : Form) (ok : Env → State → Prop) (kind : Env → State → CovKind) (acq : Bool)
        (vregs sregs : Env → List Nat) => Ends i (Form.grouped f) (fun e s => e.act ≠ 0 ∧ ok e s)
          (fun e s => e.pushCov tc (kind e s) acq (vregs e) (sregs e) s)
    let one := fun (_ : Env) => (scalarOf d).toList
    let no := fun (_ : Env) => ([] : List Nat)
    let opens := fun (e : Env) (s : State) => ∃ k, e.openTile (e.ahead s) tc = .ok k
    let path := fun (e : Env) (s : State) => ∃ k, e.onPath (e.ahead s) tc = .ok k
    (∀ blk, does (.cvbegTile g a b tc) (engineForm g [] [a, b])
      (fun e s => e.closedTile (e.ahead s) tc = .ok () ∧ e.placeTile (e.ahead s) (e.sc a).toNat = .ok blk)
      (fun e _ => .begTile blk (e.sc b)) false no no) ∧
    (∀ blk, does (.cvbegPath g a tc) (engineForm g [] [a])
      (fun e s => e.openTile (e.ahead s) tc = .ok blk ∧ (hdrPath (tileHdr (e.ahead s).sp blk) = true →
        (tileSeq (e.ahead s).sp blk).toNat < (e.sc a).toNat))
      (fun e _ => .begPath (e.sc a)) false no no) ∧
    Ends (.cvmono g d a) (Form.grouped { engineForm g [(d, 5)] [] with srcs := [(a, 8)], pre := monoRoom d })
      (fun e _ => e.act ≠ 0 ∧ recMalformed false (e.record a) = false ∧ (e.k.pipe (e.slot / 4)).length < 4)
      (fun e s => e.queueTransform (d, 5) ((List.range 32).flatMap (fun l => (List.range 5).map (fun j =>
        (e.vnum d l + j, l, (monoWords (e.record a) (monoPieces (recPoints (e.record a))) l).getD j 0)))) 0 s) ∧
    (∀ blk, does (.cvdep g d a b tc) { engineForm g [(d, 1)] [b] with srcs := [(a, 8), (b, 1)] }
      (fun e s => e.onPath (e.ahead s) tc = .ok blk ∧ recMalformed true (e.record a) = false ∧
        (e.record a).getD 1 0 = tileId (e.ahead s).sp blk ∧ (e.record a).getD 0 0 = tileSeq (e.ahead s).sp blk ∧
        ((e.sc b).toNat ≠ 0 → (e.sc b).toNat < (tileSubs (e.ahead s).sp blk (recPoints (e.record a))).length) ∧
        e.g.live &&& ~~~e.helperAhead (e.ahead s) ≠ 0)
      (fun e s => .dep (e.record a) (e.sc b).toNat (LaneMask.toList (e.g.live &&& ~~~e.helperAhead (e.ahead s))).length
        (scalarOf d)) false no one) ∧
    does (.cvscan g eo tc) (engineForm g [] []) path (fun _ _ => .scan eo) false no no ∧
    does (.cvrefine g d tc) (engineForm g [(d, 1)] []) path (fun _ _ => .refine (scalarOf d)) false no one ∧
    (∀ blk, does (.cvpush g tc) (engineForm g [] [])
      (fun e s => e.openTile (e.ahead s) tc = .ok blk ∧ hdrCdep (tileHdr (e.ahead s).sp blk) ≠ 8) (fun _ _ => .push) false no no) ∧
    (∀ blk, does (.cvpop g tc) (engineForm g [] [])
      (fun e s => e.openTile (e.ahead s) tc = .ok blk ∧ hdrCdep (tileHdr (e.ahead s).sp blk) ≠ 0) (fun _ _ => .pop) false no no) ∧
    does (.cvspan g d a c tc) (engineForm g [(d, 1), (c, 1)] [a]) (fun e s => opens e s ∧ (e.sc a).toNat < 64)
      (fun e _ => .span (e.vnum d 0) (e.sc a).toNat e.g.live (scalarOf c)) false (fun e => e.vregs (d, 1))
      (fun _ => (scalarOf c).toList) ∧
    Ends (.cvblend g a b opr tc) { engineForm g [] [] with srcs := [(a, 2), (b, 1)] }
      (fun e s => e.act ≠ 0 ∧ opens e s)
      (fun e s => e.pushCov tc (.blend opr (((LaneMask.toList (e.act &&& ~~~e.helperAhead (e.ahead s))).map (fun l => (e.rd b l, e.rd a l, e.rd (regPlus a 1) l))).filter
        (fun x => !x.1.msb))) false [] [] s) ∧
    (∀ dem, Ends (.tsave g d a scope rel tc) (Form.grouped (engineForm g [(d, 1)] [a]))
      (fun e s => e.act ≠ 0 ∧ opens e s ∧ (e.sc a).toNat % 256 = 0 ∧ (e.sc a).toNat + 0x2800 ≤ e.t.vault ∧
        e.demote (scope == .sys && rel) = .ok dem)
      (fun e s => e.pushCov tc (.save (e.sc a).toNat (scalarOf d)) false [] (scalarOf d).toList (dem s))) ∧
    (∀ blk, does (.tload g d a b scope acq tc) (engineForm g [(d, 1)] [a, b])
      (fun e s => e.closedTile (e.ahead s) tc = .ok () ∧ e.placeTile (e.ahead s) (e.sc b).toNat = .ok blk ∧
        (e.sc a).toNat % 256 = 0 ∧ (e.sc a).toNat + 0x2800 ≤ e.t.vault)
      (fun e _ => .load (e.sc a).toNat blk (scalarOf d)) acq no one) ∧
    (let n := if sel = .recd then 2 else 1
     does (.cvq g d sel tc) (engineForm g [(d, n)] [])
       (fun e s => sel = .recd ∨ sel = .openMask ∨ opens e s) (fun _ _ => .query sel ((scalarOf d).getD 0)) false no
       (fun _ => (List.range n).map (fun j => (scalarOf d).getD 0 + j))) ∧
    does (.cvend g d tc) (engineForm g [(d, 1)] []) opens (fun _ _ => .close (scalarOf d)) false no one

/-- A tile's block (R273), by what each command does to it. `cvbeg`'s tile form leaves every byte of it zero but the tile's
identity and the tags, which are all ones; its path form keeps COLOUR, the clip levels and their depth and clears the rest
(R287). A sub-curve in tile mode adds to AW and CW of its pixel, or of its row's first when it lies left of the tile, and tags
the pixel, tangling it under a second chain (R276, R277, R279); in refine mode it adds to the strips of the selected pixels
(R282). A scan writes COV (R281, R282), `cvrefine` selects the first 16 tangled pixels (R291), a push writes a clip level and a
pop takes one off (R283). A span hands the next covered quads to the quartets of live lanes (R293), and a blend composites each
channel (R294). Every other byte reads as before. -/
def Obligations.TileBegins : Prop :=
  let aw := fun (m : Memory) (b p : Nat) => Memory.word m (b + 0x40 + 4 * p)
  let cw := fun (m : Memory) (b p : Nat) => Memory.word m (b + 0x440 + 4 * p)
  let tag := fun (m : Memory) (b p : Nat) => Memory.word m (b + 0x840 + 4 * p)
  let cov := fun (m : Memory) (b p : Nat) => Memory.nat m (b + 0xC40 + 2 * p) 2
  let tangled := fun (m : Memory) (b p : Nat) => (Store.read m (b + 0xE40 + p / 8)).getLsbD (p % 8)
  let clip := fun (m : Memory) (b l p : Nat) => Memory.nat m (b + 0x1680 + 0x200 * l + 2 * p) 2
  let hdr := fun (m : Memory) (b : Nat) => (hdrPath (tileHdr m b), hdrRef (tileHdr m b), hdrNsel (tileHdr m b),
    hdrCdep (tileHdr m b), hdrTang (tileHdr m b))
  let keeps := fun (m t : Memory) (out : Nat → Prop) => ∀ a, ¬ out a → Store.read t a = Store.read m a
  let within := fun (lo n a : Nat) => lo ≤ a ∧ a < lo + n
  -- |P| / F as a fraction of F under either rule
  let frac := fun (eo : Bool) (F : Nat) (P : Word) =>
    if eo then (if P.toInt.natAbs % (2 * F) ≤ F then P.toInt.natAbs % (2 * F) else 2 * F - P.toInt.natAbs % (2 * F))
    else min F P.toInt.natAbs
  (∀ (m : Memory) (b : Nat) (tile seq : Word),
    (∀ a, Store.read (tileReset m b tile) a =
      if b ≤ a ∧ a < b + 4 then tile.extractLsb' (8 * (a - b)) 8
      else if b + 0x840 ≤ a ∧ a < b + 0xC40 then 0xFF
      else if b ≤ a ∧ a < b + 0x2800 then 0
      else Store.read m a) ∧
    (let t := pathReset m b seq
     tileSeq t b = seq ∧ hdr t b = (true, false, 0, hdrCdep (tileHdr m b), 0) ∧
     keeps m t (fun a => within (b + 4) 8 a ∨ within (b + 0x40) 0xE20 a) ∧
     (∀ a, within (b + 0x40) 0xE20 a → Store.read t a = if within (b + 0x840) 0x400 a then 0xFF else 0))) ∧
  -- deposits
  (∀ (m : Memory) (b n : Nat) (chain : Word) (c : SubCurve),
    (c.my / 256 < 0 ∨ 15 < c.my / 256 ∨ 15 < c.mx / 256 → depositTile b chain (m, n) c = (m, n)) ∧
    (∀ row : Nat, c.my / 256 = row → row < 16 → c.mx / 256 < 0 →
      let p := 16 * row
      let t := depositTile b chain (m, n) c
      t.2 = n ∧ aw t.1 b p = aw m b p + BitVec.ofInt 32 (15360 * c.dy) ∧ cw t.1 b p = cw m b p + BitVec.ofInt 32 (15360 * c.dy) ∧
      keeps m t.1 (fun a => within (b + 0x40 + 4 * p) 4 a ∨ within (b + 0x440 + 4 * p) 4 a)) ∧
    (∀ col row : Nat, c.mx / 256 = col → col < 16 → c.my / 256 = row → row < 16 → hdrTang (tileHdr m b) < 256 →
      let p := 16 * row + col
      let t := depositTile b chain (m, n) c
      let other := tag m b p ≠ 0xFFFFFFFF ∧ tag m b p ≠ chain
      aw t.1 b p = aw m b p + BitVec.ofInt 32 (15360 * (col + 1) * c.dy - area60 c.pts) ∧
      cw t.1 b p = cw m b p + BitVec.ofInt 32 (15360 * c.dy) ∧
      (tag m b p = 0xFFFFFFFF → tag t.1 b p = chain) ∧ (tag m b p ≠ 0xFFFFFFFF → tag t.1 b p = tag m b p) ∧
      (tangled t.1 b p = true ↔ tangled m b p = true ∨ other) ∧
      (other ∧ tangled m b p = false → t.2 = n + 1) ∧ (¬ (other ∧ tangled m b p = false) → t.2 = n) ∧
      hdrTang (tileHdr t.1 b) + n = hdrTang (tileHdr m b) + t.2 ∧
      (hdr t.1 b).1 = (hdr m b).1 ∧ hdrCdep (tileHdr t.1 b) = hdrCdep (tileHdr m b) ∧
      keeps m t.1 (fun a => within (b + 8) 4 a ∨ within (b + 0x40 + 4 * p) 4 a ∨ within (b + 0x440 + 4 * p) 4 a ∨
        within (b + 0x840 + 4 * p) 4 a ∨ a = b + 0xE40 + p / 8)) ∧
    (∀ sel : List Nat, sel.length ≤ 16 →
      let t := depositRefine b sel m c
      (∀ i s, i < sel.length → s < 16 →
        let x := sel.getD i 0 % 16
        let y := sel.getD i 0 / 16
        aw t b (16 * i + s) = aw m b (16 * i + s) + BitVec.ofInt 32 (
          if (256 * y + 16 * s : Nat) ≤ c.my ∧ c.my < (256 * y + 16 * s + 16 : Nat) ∧ c.mx < (256 * (x + 1) : Nat) then
            (if c.mx < (256 * x : Nat) then 15360 * c.dy else 15360 * (x + 1) * c.dy - area60 c.pts) else 0)) ∧
      keeps m t (fun a => within (b + 0x40) (64 * sel.length) a))) ∧
  -- the area of a sub-curve
  (∀ x0 x1 x2 x3 y0 y1 y2 y3 : Int,
    area60 [(x0, y0), (x1, y1)] = 30 * (x0 + x1) * (y1 - y0) ∧
    area60 [(x0, y0), (x1, y1), (x2, y2)] =
      (y1 - y0) * (30 * x0 + 20 * x1 + 10 * x2) + (y2 - y1) * (10 * x0 + 20 * x1 + 30 * x2) ∧
    area60 [(x0, y0), (x1, y1), (x2, y2), (x3, y3)] = (y1 - y0) * (30 * x0 + 18 * x1 + 9 * x2 + 3 * x3) +
      (y2 - y1) * (12 * x0 + 18 * x1 + 18 * x2 + 12 * x3) + (y3 - y2) * (3 * x0 + 9 * x1 + 18 * x2 + 30 * x3)) ∧
  -- the scan, refinement, the clip stack
  (∀ (m : Memory) (b : Nat) (eo : Bool),
    (hdrRef (tileHdr m b) = false → let t := scan m b eo
      (∀ x y, x < 16 → y < 16 → cov t b (16 * y + x) =
        rneDiv (65535 * frac eo 3932160 ((List.range x).foldl (fun v x' => v + cw m b (16 * y + x')) (aw m b (16 * y + x)))) 3932160) ∧
      keeps m t (fun a => within (b + 0xC40) 0x200 a)) ∧
    (hdrRef (tileHdr m b) = true → (selected m b).Nodup →
      let sel := selected m b
      let t := scan m b eo
      (∀ i, i < sel.length → cov t b (sel.getD i 0) = rneDiv (65535 *
        ((List.range 16).map (fun s => frac eo 245760 (aw m b (16 * i + s)))).sum) (16 * 245760)) ∧
      (∀ p, p < 256 → p ∉ sel → cov t b p = cov m b p) ∧
      (∀ p, p < 256 → (tangled t b p = true ↔ tangled m b p = true ∧ p ∉ sel)) ∧
      hdr t b = (hdrPath (tileHdr m b), false, 0, hdrCdep (tileHdr m b), hdrTang (tileHdr m b) - sel.length) ∧
      keeps m t (fun a => within (b + 8) 4 a ∨ within (b + 0xC40) 0x220 a)) ∧
    (let t := refine m b
     let ps := ((List.range 256).filter (fun p => tangled m b p)).take 16
     selected t.1 b = ps ∧ t.2 = ps.length ∧
     hdr t.1 b = (hdrPath (tileHdr m b), hdrRef (tileHdr m b) || decide (0 < ps.length), ps.length, hdrCdep (tileHdr m b), hdrTang (tileHdr m b)) ∧
     (∀ p, p < 256 → aw t.1 b p = 0 ∧ cw t.1 b p = 0) ∧
     keeps m t.1 (fun a => within (b + 8) 4 a ∨ within (b + 0x10) 16 a ∨ within (b + 0x40) 0x800 a)) ∧
    (∀ d, hdrCdep (tileHdr m b) = d → d < 8 →
      let t := clipPush m b
      let top := fun p => if d = 0 then 65535 else clip m b (d - 1) p
      (∀ p, p < 256 → spanVal m b p = rneDiv (cov m b p * top p) 65535 ∧ clip t b d p = spanVal m b p) ∧
      hdr t b = (hdrPath (tileHdr m b), hdrRef (tileHdr m b), hdrNsel (tileHdr m b), d + 1, hdrTang (tileHdr m b)) ∧
      keeps m t (fun a => within (b + 8) 4 a ∨ within (b + 0x1680 + 0x200 * d) 0x200 a)) ∧
    (∀ d, hdrCdep (tileHdr m b) = d + 1 →
      let t := clipPop m b
      hdr t b = (hdrPath (tileHdr m b), hdrRef (tileHdr m b), hdrNsel (tileHdr m b), d, hdrTang (tileHdr m b)) ∧
      keeps m t (fun a => within (b + 8) 4 a))) ∧
  -- a span
  (∀ (s : State) (c : Nat) (x : CovCmd) (d first b : Nat) (live : LaneMask) (tok : Option Nat),
    x.kind = .span d first live tok → (s.core c).tile x.tc = some b →
    let m := (s.core c).sp
    let pixel := fun q i => 16 * (2 * (q / 8) + i / 2) + (2 * (q % 8) + i % 2)
    let covered := (List.range 64).filter (fun q => decide (first ≤ q) && (List.range 4).any (fun i => decide (0 < spanVal m b (pixel q i))))
    let parts := (List.range 8).filter (fun j => (List.range 4).all (fun i => live.getLsbD (4 * j + i)))
    let r := s.runCov c x
    r.1 = s ∧ r.2.ok = true ∧ r.2.sdata = (match tok with
      | some n => [(n, BitVec.ofNat 32 (covered.getD parts.length 0))]
      | none => []) ∧
    r.2.vdata.map (fun y => (y.1, y.2.1)) = (LaneMask.toList live).map (fun l => (d, l)) ∧
    (∀ y ∈ r.2.vdata,
      (∀ n, n < covered.length → parts[n]? = some (y.2.1 / 4) → let p := pixel (covered.getD n 0) (y.2.1 % 4)
        y.2.2 = BitVec.ofNat 32 (2 ^ 16 * p + spanVal m b p)) ∧
      ((∀ n, n < covered.length → parts[n]? ≠ some (y.2.1 / 4)) → y.2.2 = 0x80000000)) ∧
    (∃ h : LaneMask, r.2.helper = some h ∧ ∀ y ∈ r.2.vdata, (h.getLsbD y.2.1 = true ↔ y.2.2.extractLsb' 0 16 = 0))) ∧
  -- a blend
  (∀ (op : BlendOp) (b : Nat) (m : Memory) (w lo hi : Word),
    let p := (w.extractLsb' 16 8).toNat
    let at' := b + 0xE80 + 8 * p
    let c : Q := { num := (w.extractLsb' 0 16).toNat, den := 65535 }
    let src := fun i => Ext.ofHalf (if i < 2 then lo.extractLsb' (16 * i) 16 else hi.extractLsb' (16 * (i - 2)) 16 : BitVec 16).toNat
    let dst := fun i => Ext.ofHalf (Memory.nat m (at' + 2 * i) 2)
    let one := Ext.num (Q.ofInt 1)
    let less := fun (x : Ext) => one.add x.neg
    let t := blendPixel op b m (w, lo, hi)
    (∀ i, i < 4 →
      let v := match op with
        | .over => (src i).add ((less (src 3)).mul (dst i))
        | .src => src i
        | .dover => (dst i).add ((less (dst 3)).mul (src i))
        | .inn => (src i).mul (dst 3)
        | .out => (src i).mul (less (dst 3))
        | .atop => ((src i).mul (dst 3)).add ((dst i).mul (less (src 3)))
        | .xor => ((src i).mul (less (dst 3))).add ((dst i).mul (less (src 3)))
        | .plus => ((src i).add (dst i)).min1
      Memory.bytes t (at' + 2 * i) 2 = leBytes 2 ((((Ext.num c).mul v).add ((less (.num c)).mul (dst i))).half)) ∧
    keeps m t (fun a => within at' 8 a))

/-! ## Exchanges -/

/-- The exchange words at issue (R301-R313, R326-R328, R330): with fewer than 64 transfers outstanding a checked word advances the
group's transfer sequence and makes its transfer; a bulk transfer of no length completes at once. A 65th waits. An `xcall` of no
words leaves C unread. -/
def Obligations.TransferIssue : Prop :=
  ∀ (g : Guard) (d a b c : Reg) (tg : Fin 8) (rel acq : Bool) (scope : Scope) (rsp : RSpace) (lsp : Space) (get z cl w64 : Bool)
    (op : AtomOp) (words : Fin 9),
    let starts := fun (i : Instr) (f : Form) (ok : Env → State → Prop) (t : Env → State → State) =>
      Ends i f (fun e s => e.act ≠ 0 ∧ (e.k.xfersOf e.g.uid).length < 64 ∧ ok e s) t ∧
      Ends i f (fun e _ => e.act = 0) (fun _ s => s) ∧
      Leads i f (fun e _ => e.act ≠ 0 ∧ 64 ≤ (e.k.xfersOf e.g.uid).length)
        (fun e s => s.modGroup e.core e.slot (fun g => { g with wait := .stalled }))
    let form := fun (dst src : List (Reg × Nat)) => Form.grouped (xferForm g dst src)
    let len := fun (e : Env) => (e.sc c).toNat
    let loc := fun (e : Env) => (e.sc b).toNat
    let lenOk := fun (e : Env) (n : Nat) => len e % 4 = 0 ∧ len e ≤ 0x1000000 ∧ n = len e
    let near := fun (e : Env) (spc : Space) (off n : Nat) => off % 4 = 0 ∧ off + n ≤ Team.size e.t spc
    (∀ (toLocal : Bool) (n : Nat) (rem : Remote) (dem : State → State),
      starts (if toLocal then .xpull g a b c tg rel acq scope rsp lsp else .xpush g a b c tg rel acq scope rsp lsp)
        (form [] [(a, if rsp = .reg then 1 else 2), (b, 1), (c, 1)])
        (fun e _ => e.pullLength rsp a c = .ok n ∧ e.remote rsp a n true = .ok rem ∧ near e lsp (loc e) n ∧
          e.demote (scope == .sys) = .ok dem)
        (fun e s => e.startXfer tg.val (.bulk rem toLocal lsp (loc e) n) acq false (dem s))) ∧
    (∀ (n : Nat) (dem : State → State), starts (.xhost g a b c tg rel acq scope lsp get) (form [] [(a, 2), (b, 1), (c, 1)])
      (fun e _ => lenOk e n ∧ near e lsp (loc e) n ∧ e.demote (scope == .sys) = .ok dem)
      (fun e s => e.startXfer tg.val (.bulk (.host (e.rd64 a 0).toNat) get lsp (loc e) n) acq
        (!get && scope == .sys && rel && !e.pt.tenantScope) (dem s))) ∧
    (∀ (n : Nat) (dem : State → State), starts (.xtier g a b c tg rel acq scope lsp get) (form [] [(a, 2), (b, 1), (c, 1)])
      (fun e _ => lenOk e n ∧ near e lsp (loc e) n ∧ e.demote (scope == .sys) = .ok dem)
      (fun e s => e.startXfer tg.val (.bulk (.tier (e.rd64 a 0).toNat) get lsp (loc e) n) acq false (dem s))) ∧
    (∀ (n : Nat) (rem : Remote) (dem : State → State),
      starts (.xlink g d a b c tg rel acq scope rsp lsp get) (form [] [(d, 1), (a, 2), (b, 1), (c, 1)])
        (fun e s => (e.sc d).toNat ≤ 255 ∧ (e.sc d).toNat ≠ s.pkgnum.toNat ∧ lenOk e n ∧ e.remote rsp a n false = .ok rem ∧
          near e lsp (loc e) n ∧ e.demote (scope == .sys) = .ok dem)
        (fun e s => e.startXfer tg.val (.bulk (.link (e.sc d).toNat rsp (e.rd64 a 0).toNat) get lsp (loc e) n) acq false
          (dem s))) ∧
    (let first := fun (e : Env) => (e.sc a).toNat
     let rows := fun (e : Env) => (e.sc b).toNat
     let drow := fun (e : Env) => ((e.sc c).extractLsb' 16 10).toNat
     let dcore := fun (e : Env) => ((e.sc c).extractLsb' 0 8).toNat
     starts (.xdrain g a b c tg z) (form [] [(a, 1), (b, 1), (c, 1)])
       (fun e s => rows e ≠ 0 ∧ first e + rows e ≤ 1024 ∧ drow e + rows e ≤ 1024 ∧ e.sc c &&& 0xFC00FF00 = 0 ∧
         e.pt.hasCore (dcore e) = true ∧ e.k.mowner = some e.g.team ∧
         (s.cluster (dcore e / 8)).staged.length + (s.cluster (dcore e / 8)).reserved + rows e ≤ 8192)
       (fun e s => e.startXfer tg.val (.drain (first e) (rows e) (drow e) (dcore e) z e.g.xdrainSeq) false false
         ((s.modCluster (dcore e / 8) (fun q => { q with reserved := q.reserved + rows e })).modGroup e.core e.slot (fun g =>
           { g with xdrainSeq := g.xdrainSeq + 1 })))) ∧
    (∀ (co : Option Reg), let n := if w64 then 2 else 1
      let val := fun (e : Env) (r : Reg) (l : Nat) => if w64 then e.rd64 r l else (e.rd r l).setWidth 64
      starts (.xatom g a b co tg cl w64 op) { xferForm g [] ([(a, 2), (b, n)] ++ (co.map (fun r => (r, n))).toList) with group := false }
        (fun e _ => ∀ l ∈ e.realLanes, e.atomTarget a cl w64 l ≠ none)
        (fun e s => e.startXfer tg.val (.atoms (e.realLanes.filterMap (fun l => (e.atomTarget a cl w64 l).map (fun p => {
            key := { order := e.gr.order, team := e.t.num, group := e.g.index, lane := l, seq := e.g.xatomSeq }
            grid := e.g.grid, place := p, op := op, w64 := w64, data := val e b l
            cmp := (co.map (fun r => val e r l)).getD 0 }))) e.gr.lrec.det) false false
          (s.modGroup e.core e.slot (fun g => { g with xatomSeq := g.xatomSeq + 1 })))) ∧
    starts (.xcall g a b c tg words) (form [] ([(a, 1), (b, 1)] ++ if words.val = 0 then [] else [(c, 1)]))
      (fun e _ => loc e % 8 = 0 ∧ (words.val ≠ 0 → near e .sp (len e) (128 * words.val)))
      (fun e s => e.startXfer tg.val (.call (e.sc a).toNat (loc e) words.val (len e) e.g.xcallSeq) false false
        (s.modGroup e.core e.slot (fun g => { g with xcallSeq := g.xcallSeq + 1 })))

/-- The paging words (R313, R315, R321, R373): `.list` takes the core's page requests and its cluster's notifications from their
queues, and their records are in the scratchpad, or on their way there, until its transfer completes; `.map` and `.evict` record
a move for the closing landing, answer 1 where no valid leaf maps the address, and fault without a move where they need a second
tier that is disabled. That bits [63:48] of the address pair are dropped, and that D is 0 beside the FAULT where the second tier
is disabled, are the model's readings (logs 38 and 49). -/
def Obligations.PagingIssue : Prop :=
  ∀ (g : Guard) (d a b : Reg) (tg : Fin 8) (host : Bool),
    let room := fun (e : Env) => e.act ≠ 0 ∧ (e.k.xfersOf e.g.uid).length < 64
    let va := fun (e : Env) => (e.rd64 a 0).toNat % 2 ^ 48
    Ends (.xpageList g d a b tg) (Form.grouped (xferForm g [(d, 1)] [(a, 1), (b, 1)]))
      (fun e _ => room e ∧ (e.sc a).toNat % 8 = 0 ∧ (e.sc a).toNat + 8 * (e.sc b).toNat ≤ e.t.scratch)
      (fun e s =>
        let n := (e.sc b).toNat
        let q := s.cluster (e.core / 8)
        let reqs := (q.pageReq.getD (e.core % 8) []).take n
        let notes := q.notify.take (n - reqs.length)
        let recs := reqs.flatMap (pageRecord 0 e.core) ++ notes.flatMap (fun x => pageRecord 1 x.2 x.1)
        e.pageResult d tg.val ((if q.notifyOvf && n != 0 then 0x80000000 else 0) + BitVec.ofNat 32 (reqs.length + notes.length))
          false ((s.lateRecords e.core ((e.t.spb + (e.sc a).toNat) / 4) (lateTag (s.nextId + 1) e.g.grid e.g.uid [] false) recs).modCluster
            (e.core / 8) (fun q => { q with pageReq := q.pageReq.set (e.core % 8) ((q.pageReq.getD (e.core % 8) []).drop n),
                                            notify := q.notify.drop notes.length, notifyOvf := q.notifyOvf && n == 0 }))) ∧
    -- the records: on their way, the scratchpad as it was, until the transfer of that number completes (R315, R329)
    (∀ (s : State) (c i grid uid cmd : Nat) (recs : List Byte), s.canonical = true → c < s.cores.length → recs.length % 4 = 0 →
      (∀ w ∈ s.late, w.cmd ≠ cmd) →
      let u := s.lateRecords c i (lateTag cmd grid uid [] false) recs
      let v := u.landCmd cmd
      u.late.take s.late.length = s.late ∧ (u.late.drop s.late.length).map (fun w => w.cmd) = List.replicate (recs.length / 4) cmd ∧
      v.late = s.late ∧
      ∀ t, t = u ∨ t = v → { t with cores := s.cores, late := s.late } = s ∧ (∀ d, d ≠ c → t.core d = s.core d) ∧
        { t.core c with sp := (s.core c).sp, shownSp := (s.core c).shownSp } = s.core c ∧
        ∀ a, Store.read (t.core c).sp a =
          if t = v ∧ 4 * i ≤ a ∧ a < 4 * i + recs.length then recs.getD (a - 4 * i) 0 else Store.read (s.core c).sp a) ∧
    (let f := Form.grouped (xferForm g [(d, 1)] [(a, 2), (b, 1)])
     let frame := fun (e : Env) => (e.sc b).toNat
     -- the second tier is needed and disabled
     let off := fun (s : State) (l : Leaf) => s.tierSize = 0 ∧ Pte.res l.pte = false ∧ Pte.tier l.pte = 1
     Ends (.xpageMap g d a b tg) f
       (fun e s => room e ∧ walk s.host e.pt (va e) = none ∧ frame e % 0x10000 = 0 ∧ frame e < 0x1F000000)
       (fun e s => e.pageResult d tg.val 1 false s) ∧
     (∀ l, Ends (.xpageMap g d a b tg) f
       (fun e s => room e ∧ walk s.host e.pt (va e) = some l ∧ frame e % pageSize l.big = 0 ∧ frame e < 0x1F000000 ∧ ¬ off s l)
       (fun e s => e.pageResult d tg.val 0 false (s.modCore e.core (fun k => { k with moves := k.moves ++ [{
         grid := e.g.grid, core := e.core, va := va e / pageSize l.big * pageSize l.big, big := l.big, leaf := l.pte
         newLeaf := (l.pte &&& 0xCB) ||| 4 ||| BitVec.ofNat 64 (frame e + e.core * 2 ^ 56), evict := false, frame := frame e
         tier := 0, backing := 0 }] })))) ∧
     (∀ l, Ends (.xpageMap g d a b tg) f
       (fun e s => room e ∧ walk s.host e.pt (va e) = some l ∧ frame e % pageSize l.big = 0 ∧ frame e < 0x1F000000 ∧ off s l)
       (fun e s => e.pageResult d tg.val 0 true s)) ∧
     Traps (.xpageMap g d a b tg) f
       (fun e s => room e ∧ (frame e % ((walk s.host e.pt (va e)).elim 0x10000 (fun l => pageSize l.big)) ≠ 0 ∨
         0x1F000000 ≤ frame e))
       (fun _ => { cause := Causes.exchangeOperand, info := 0, lane := 0 })) ∧
    (let f := Form.grouped (xferForm g [(d, 1)] [(a, 2), (b, 2)])
     let off := fun (s : State) (l : Leaf) => s.tierSize = 0 ∧ (host = false ∨ (Pte.res l.pte = false ∧ Pte.tier l.pte = 1))
     -- the leaf's V, leaf and W bits, and the backing that B names
     let new := fun (e : Env) (l : Leaf) => (l.pte &&& 0x0B) ||| (if host then 0x80 else 0x40) ||| (e.rd64 b 0 &&& 0x000FFFFFFFFFF000)
     Ends (.xpageEvict g d a b tg host) f (fun e s => room e ∧ walk s.host e.pt (va e) = none)
       (fun e s => e.pageResult d tg.val 1 false s) ∧
     (∀ l, Ends (.xpageEvict g d a b tg host) f
       (fun e s => room e ∧ walk s.host e.pt (va e) = some l ∧ ¬ off s l)
       (fun e s => e.pageResult d tg.val 0 false (s.modCore e.core (fun k => { k with moves := k.moves ++ [{
         grid := e.g.grid, core := e.core, va := va e / pageSize l.big * pageSize l.big, big := l.big, leaf := l.pte
         newLeaf := new e l, evict := true, frame := 0, tier := if host then 2 else 1
         backing := (e.rd64 b 0).toNat % 2 ^ 52 / 4096 * 4096 }] })))) ∧
     (∀ l, Ends (.xpageEvict g d a b tg host) f
       (fun e s => room e ∧ walk s.host e.pt (va e) = some l ∧ off s l) (fun e s => e.pageResult d tg.val 0 true s)))

/-- A transfer completes with what R307 to R313 say of its kind: a bulk transfer moves its pieces that are left, between the
scratchpad and a window, a slice, host memory or the second tier byte for byte, with a page that is not resident read as zeros
with MISS and written to the pool, and a host put's bytes on their way; one over a link keeps to the link and the training on
which it started (R374), and a put there completes only once every payload of its pieces is acknowledged (R325); drain rows are
staged, and zeroed with `.z`; atomics are buffered, and past a full buffer applied at once or, in deterministic mode, discarded;
a call packet is queued or refused; a page word's result returns. Its group's status takes its flags and its count, and a fault
becomes due; `xwait` returns and clears the status of the named groups once none of their transfers is outstanding, and waits
until then; a late packet counts in `XLATE` (R314, R318, R328). Host bytes that are on their way when a put completes are the
model's form of R330 (log 12), and whether the far package refuses a put is a free choice (log 32). -/
def Obligations.TransferSteps : Prop :=
  (∀ (c : Fin 256) (i : Nat) (x : Transfer) (s : State), (s.core c.val).xfers[i]? = some x →
    let ends := fun (u : State) (o : Outcome) =>
      let v := (u.modCore c.val (fun k => { k with xfers := k.xfers.eraseIdx i })).modOwner c.val x.slot x.uid (fun g =>
        let t := g.tg.getD x.tg TgStatus.zero
        { g with tg := g.tg.set x.tg {
            fault := t.fault || o.fault, miss := t.miss || o.miss, refused := t.refused || o.refused, late := t.late || o.late
            count := min 0xFFFF (t.count + 1) } })
      exec (.transferComplete c i) s = .next ((if o.fault then
        v.dueOwner c.val x.slot x.uid Causes.transferFault (BitVec.ofNat 64 (x.tg + x.seq % 65536 * 65536)) else v).tryEndTeam
          c.val x.team)
    let clean : Outcome := { fault := false, miss := false, refused := false, late := false }
    let t := (s.team c.val x.team).getD Team.zero
    (∀ rem toLocal lsp loc len, x.op = .bulk rem toLocal lsp loc len → (∀ pkg rsp a, rem ≠ .link pkg rsp a) →
      let r := s.runBulk c.val x rem toLocal lsp loc len
      ends r.1 r.2) ∧
    -- over a link: on the stream on which it started; a put waits until the far end has acknowledged the payloads of its pieces
    (∀ pkg rsp a toLocal lsp loc len, x.op = .bulk (.link pkg rsp a) toLocal lsp loc len →
      let y := { x with stream := x.stream.orElse (fun _ => s.streamTo pkg) }
      let r := s.runBulk c.val y (.link pkg rsp a) toLocal lsp loc len
      (r.2.fault = true ∨ toLocal = true → ends r.1 r.2) ∧
      (∀ l, r.2.fault = false → toLocal = false → y.stream = some l →
        let k := r.1.link l.1
        let n := (len + 127) / 128
        let sent := if n = x.moved then x.sent else k.queued
        let acked := k.queued - k.txq.length - k.unacked.length
        let same := k.up = true ∧ k.stream = l.2
        (¬ same → ends r.1 { r.2 with fault := true }) ∧
        (same → sent ≤ acked → ends { r.1 with free := r.1.free + 1 } { r.2 with fault := Config.freeBit r.1.free }) ∧
        (same → acked < sent → exec (.transferComplete c i) s = .next (r.1.modCore c.val (fun k => { k with
          xfers := k.xfers.set i { y with moved := n, miss := r.2.miss, sent := sent } }))))) ∧
    (∀ first rows drow dcore z seq, x.op = .drain first rows drow dcore z seq →
      let u := if z then s.modCore c.val (fun k => { k with
        acc := Store.clear k.acc (fun a => decide (first ≤ a / 64) && decide (a / 64 < first + rows)) }) else s
      ends (u.modCluster (dcore / 8) (fun q => { q with
        reserved := q.reserved - rows
        staged := q.staged ++ (List.range rows).map (fun r => {
          dcore := dcore, drow := drow + r, core := c.val, team := t.num, group := x.group, seq := seq, grid := t.grid
          vals := (List.range 64).map (fun n => Store.read (s.core c.val).acc ((first + r) * 64 + n)) }) })) clean) ∧
    (∀ l det, x.op = .atoms l det →
      let r := l.foldl (fun (a : State × Bool × Bool) y =>
        let q := match y.place with
          | .scratch d _ => d / 8
          | .vault d _ => d / 8
          | .slice q _ => q
        if (a.1.cluster q).ratoms.length < 16384 then (a.1.modCluster q (fun k => { k with ratoms := k.ratoms ++ [y] }), a.2)
        else if det then (a.1, true, true)
        else (a.1.applyAtom y, true, a.2.2)) (s, false, false)
      ends r.1 { clean with late := r.2.1, fault := r.2.2 }) ∧
    (∀ team handler words payload seq, x.op = .call team handler words payload seq →
      let target := (s.part (s.partOf c.val)).coreList.find? (fun d =>
        (s.core d).teamList.any (fun y => y.2.grid == t.grid && y.2.num == team && !y.2.ending))
      (target = none → ends s { clean with fault := true }) ∧
      (∀ d, target = some d →
        let bs := Memory.bytes (s.core c.val).sp (t.spb + payload) (128 * words)
        let pkt : CallPkt := {
          grid := t.grid, team := team, handler := handler, core := c.val, steam := t.num, group := x.group, seq := seq
          payload := (List.range (32 * words)).map (fun j => BitVec.ofNat 32 (leNat ((bs.drop (4 * j)).take 4))) }
        let q := (s.cluster (d / 8)).calls.getD (d % 8) []
        if (q.foldl (fun n p => n + (16 + 4 * p.payload.length)) 0) + 16 + 128 * words ≤ 32768 then
          ends (s.modCluster (d / 8) (fun k => { k with calls := k.calls.set (d % 8) (q ++ [pkt]) })) clean
        else ends s { clean with refused := true })) ∧
    (∀ id fault g f, x.op = .page id fault → s.group c.val x.slot = some g → g.flight id = some f → f.vdata = [] →
      ends ((s.landCmd x.acqId).modGroup c.val x.slot (fun g => { (f.sdata.foldl (fun g x => g.setScalar x.1 x.2) g) with
        fpflg := g.fpflg ||| f.flags, inflight := g.inflight.filter (fun y => y.id != id) })) { clean with fault := fault })) ∧
  -- a bulk transfer between the scratchpad and a plain memory
  (∀ (c : Fin 256) (x : Transfer) (s : State) (t : Team) (rem : Remote) (toLocal : Bool) (loc len : Nat),
    s.shaped = true → s.canonical = true → s.team c.val x.team = some t → x.moved = 0 → x.miss = false → x.acq = false →
    x.after = [] → s.late = [] → len % 4 = 0 →
    let fits := match rem with
      | .win a => winCore a < 256 ∧ winCore a ≠ c.val ∧ a % 2 ^ 24 + len ≤ 0x80000
      | .cl a => winSlice a < 32
      | .host a => a + len ≤ 2 ^ 64
      | .tier a => a + len ≤ s.tierSize
      | _ => False
    -- the scratchpad of another core, as it shows itself in the phase (R329)
    let shown := fun (u : State) (a : Nat) => (u.core (winCore a)).shownSp.getD (u.core (winCore a)).sp
    let far := fun (u : State) (i : Nat) => match rem with
      | .win a => Store.read (shown u a) (a % 2 ^ 24 + i)
      | .cl a => Store.read (u.cluster (winSlice a)).prog (a % 2 ^ 24 + i)
      | .host a => Store.read u.host (a + i)
      | .tier a => Store.read u.tier (a + i)
      | _ => 0
    let near := fun (u : State) (i : Nat) => Store.read (u.core c.val).sp (t.spb + loc + i)
    fits →
    let r := s.runBulk c.val x rem toLocal .sp loc len
    (r.2.fault = false ∧ r.2.miss = false ∧ r.2.refused = false ∧ r.2.late = false) ∧
    (toLocal = true →
      r.1 = { s.modCore c.val (fun k => { k with sp := (r.1.core c.val).sp, shownSp := (r.1.core c.val).shownSp }) with free := r.1.free } ∧
      (∀ i, i < len → near r.1 i = far s i) ∧
      (∀ a, ¬ (t.spb + loc ≤ a ∧ a < t.spb + loc + len) →
        Store.read (r.1.core c.val).sp a = Store.read (s.core c.val).sp a)) ∧
    (toLocal = false → match rem with
      | .win a => r.1 = s.modCore (winCore a) (fun k =>
          { k with sp := (r.1.core (winCore a)).sp, shownSp := (r.1.core (winCore a)).shownSp }) ∧
        (∀ i, i < len → far r.1 i = near s i ∧ Store.read (r.1.core (winCore a)).sp (a % 2 ^ 24 + i) = near s i) ∧
        (∀ y, ¬ (a % 2 ^ 24 ≤ y ∧ y < a % 2 ^ 24 + len) →
          Store.read (r.1.core (winCore a)).sp y = Store.read (s.core (winCore a)).sp y ∧
          Store.read (shown r.1 a) y = Store.read (shown s a) y)
      | .cl a => r.1 = s.modCluster (winSlice a) (fun q => { q with prog := (r.1.cluster (winSlice a)).prog }) ∧
        (∀ i, i < len → far r.1 i = near s i) ∧
        (∀ y, ¬ (a % 2 ^ 24 ≤ y ∧ y < a % 2 ^ 24 + len) →
          Store.read (r.1.cluster (winSlice a)).prog y = Store.read (s.cluster (winSlice a)).prog y)
      | .tier a => r.1 = { s with tier := r.1.tier } ∧ (∀ i, i < len → far r.1 i = near s i) ∧
        (∀ y, ¬ (a ≤ y ∧ y < a + len) → Store.read r.1.tier y = Store.read s.tier y)
      | .host a => r.1 = { s with host := r.1.host, late := r.1.late } ∧
        (∀ y, Store.read r.1.host y = Store.read s.host y) ∧
        (∀ i, i < len → far (r.1.landCmd x.acqId) i = near s i) ∧
        (∀ y, ¬ (a ≤ y ∧ y < a + len) → Store.read (r.1.landCmd x.acqId).host y = Store.read s.host y)
      | _ => False)) ∧
  -- a piece on one page of the partition, a piece of a register, and the ports' refusals
  (∀ (c : Nat) (x : Transfer) (s : State) (va n : Nat) (near : Bool) (bs : List Byte),
    va < 2 ^ 48 → va % 0x10000 + n ≤ 0x10000 → 0 < n → bs.length = n →
    let rd := s.translate c (s.partOf c) va false
    let wr := s.translate c (s.partOf c) va true
    let held := fun (l : Leaf) => Pte.res l.pte = true ∧ (near = false ∨ Pte.core l.pte = c)
    (rd.2 = none → s.vtRead c va n near = (rd.1, none, false)) ∧
    (∀ l, rd.2 = some l → held l →
      s.vtRead c va n near = (rd.1, some (Memory.bytes (rd.1.core (Pte.core l.pte)).vault (l.offset va) n), false)) ∧
    (∀ l, rd.2 = some l → ¬ held l → s.vtRead c va n near = (rd.1, some (List.replicate n 0), true)) ∧
    (wr.2 = none → s.vtWrite c va bs near = (wr.1, false)) ∧
    (∀ l, wr.2 = some l → held l → s.vtWrite c va bs near =
      (wr.1.modCore (Pte.core l.pte) (fun k => { k with vault := Memory.store k.vault (l.offset va) bs }), true)) ∧
    (∀ l, wr.2 = some l → ¬ held l → s.vtWrite c va bs near = wr.1.bounceSome (c / 8) (wr.1.partOf c) va bs) ∧
    (∀ w len t g i, s.regTarget (s.partOf c) (s.teamGrid c x.team) w (len / 128) = some t → s.group t.1 t.2 = some g →
      let r := (w.extractLsb' 4 8).toNat + i / 128
      let k := s.core t.1
      let bytes := fun (word : Nat → Word) => some ((List.range 32).flatMap (fun l => leBytes 4 (word l).toNat))
      -- another core's registers: each word old or new (R329)
      (t.1 = c ∨ k.shownRegs = none → s.readSide c x (.far (.reg w)) i 128 len = (s, bytes (fun l => k.readV t.2 g r l), false)) ∧
      (∀ old, t.1 ≠ c → k.shownRegs = some old → s.readSide c x (.far (.reg w)) i 128 len = ({ s with free := s.free + 32 },
        bytes (fun l => if Config.freeBit (s.free + l) then k.readV t.2 g r l else { k with regs := old }.readV t.2 g r l), false)) ∧
      let vals := (List.range 32).map (fun l => (r, l, (bytesWords bs).getD l 0))
      let put := fun (m : Store 32) => Store.writeAll m (vals.map (fun y => (g.cell t.2 y.1 y.2.1, y.2.2)))
      s.writeSide c x (.far (.reg w)) i len bs = (((if g.spill = none then
          s.modCore t.1 (fun k => { k with regs := put k.regs, shownRegs := k.shownRegs.map put })
        else s.writeV t.1 t.2 vals).modGroup t.1 t.2 (fun g => { g with inflight := g.inflight.map (fun f => { f with
          vregs := f.vregs.filter (fun y => y != r), vdata := f.vdata.filter (fun y => y.1 != r) }) })), true)) ∧
    (∀ a i len, s.tierSize < a + i + n → s.readSide c x (.far (.tier a)) i n len = (s, none, false) ∧
      s.writeSide c x (.far (.tier a)) i len bs = (s, false))) ∧
  (∀ (c : Fin 256) (i : Nat) (x : Transfer) (s : State), (s.core c.val).xfers[i]? = some x →
    exec (.packetDeliver c i false) s = .next s ∧
    (x.deadline < s.clock → ∃ t, exec (.packetDeliver c i true) s = .next t ∧
      (c.val < s.cores.length → (t.core c.val).xlate =
        if (s.core c.val).xlate = 0xFFFFFFFF then 0xFFFFFFFF else (s.core c.val).xlate + 1))) ∧
  (∀ (g : Guard) (d : Reg) (tg : Fin 8) (all : Bool),
    let f := Form.grouped (xferForm g [(d, 1)] [])
    let tgs := if all then List.range 8 else [tg.val]
    Ends (.xwait g d tg all) f (fun e _ => e.act ≠ 0 ∧ ∀ x ∈ e.k.xfersOf e.g.uid, x.tg ∉ tgs)
      (fun e s => (e.wrS d (statusWord (tgs.map (fun i => e.g.tg.getD i TgStatus.zero))) s).modGroup e.core e.slot (fun g =>
        { g with tg := tgs.foldl (fun l i => l.set i TgStatus.zero) g.tg })) ∧
    Leads (.xwait g d tg all) f (fun e _ => e.act ≠ 0 ∧ ∃ x ∈ e.k.xfersOf e.g.uid, x.tg ∈ tgs)
      (fun e s => s.modGroup e.core e.slot (fun g => { g with wait := .xwait (if all then none else some tg.val) d })))

/-! ## Control -/

/-- Branches where no lane or every lane of the split takes them, and `nop` (R76, R106, R107, R111): the split goes to the
target or to the next word; `call` writes the link in the passing lanes; an indirect branch takes the lowest passing lane's
target for the lanes that share it, and a lane whose target is not a multiple of 8 traps (R107). That the trap's `TINFO` is CODE
plus the register's value is the model's reading (log 18). -/
def Obligations.UniformBranches : Prop :=
  ∀ (g : Guard) (h : Hold) (d a : Reg) (disp : BitVec 24) (rdisp : BitVec 15),
    let plain := Form.plain g
    let fc : Form := { Form.plain g with dsts := [(d, 1)] }
    let fi : Form := { Form.plain g with held := heldReg h (some a) none none, srcs := [(a, 1)] }
    let goes := fun (e : Env) (pc : Word) (s : State) =>
      s.modGroup e.core e.slot (fun g => { g.setPc e.split pc with wait := .ready })
    let all := fun (e : Env) (_ : State) => e.act = e.sp.mask ∧ e.act ≠ 0
    let none' := fun (e : Env) (_ : State) => e.act = 0
    let dest := fun (e : Env) => e.sp.pc + BitVec.ofInt 32 (8 * disp.toInt)
    let same := fun (e : Env) (s : State) => all e s ∧ (e.rd a (LaneMask.lowest e.act)).toNat % 8 = 0 ∧
      ∀ l ∈ e.lanes, e.rd a l = e.rd a (LaneMask.lowest e.act)
    Ends (.nop g) plain (fun _ _ => True) (fun _ s => s) ∧
    Leads (.bra g disp rdisp) plain all (fun e s => goes e (dest e) (e.latch plain s)) ∧
    Leads (.bra g disp rdisp) plain none' (fun e s => goes e (e.sp.pc + 8) (e.latch plain s)) ∧
    Leads (.call g d disp rdisp) fc all (fun e s => goes e (dest e)
      ((e.wr d (fun _ => e.sp.pc + 8) (e.latch fc s)).modGroup e.core e.slot (fun g =>
        { g with retPred := ((e.sp.pc + 8) :: g.retPred).take 4 }))) ∧
    Leads (.call g d disp rdisp) fc none' (fun e s => goes e (e.sp.pc + 8) (e.latch fc s)) ∧
    Leads (.brx g h a rdisp) fi same (fun e s => goes e (e.rd a (LaneMask.lowest e.act)) (e.latch fi s)) ∧
    Leads (.ret g h a rdisp) fi same (fun e s => goes e (e.rd a (LaneMask.lowest e.act))
      ((e.latch fi s).modGroup e.core e.slot (fun g => { g with retPred := g.retPred.drop 1 }))) ∧
    Leads (.brx g h a rdisp) fi none' (fun e s => goes e (e.sp.pc + 8) (e.latch fi s)) ∧
    Leads (.ret g h a rdisp) fi none' (fun e s => goes e (e.sp.pc + 8) (e.latch fi s)) ∧
    (∀ i, i = Instr.brx g h a rdisp ∨ i = Instr.ret g h a rdisp → ∀ l, Traps i fi
      (fun e _ => e.lanes.find? (fun l => (e.rd a l).toNat % 8 != 0) = some l)
      (fun e => { cause := Causes.misalignedTarget, info := e.gr.lrec.code + (e.rd a l).setWidth 64, lane := l }))

/-- Divergence and reconvergence (R76, R77, R106, R107), in spec/04_control.md. A `bra`, `call`, `brx` or `ret` that some lanes of
the split take and some do not needs a reconvergence displacement and fewer than eight records, and otherwise traps with nothing
written; with a free entry the taking lanes go to the target in this one and the others to the next word, or for an indirect branch
with passing lanes left to the same word, in the lowest free one, both with a record of the join; with none free the others wait as
the record's deferred path. The word's other effect (the link, the return predictor) takes place. A split whose program counter
reaches its top record's J switches to the deferred path there is, or is held; held splits that together make up MJ fuse in the
lowest of their entries, the record popped, lanes waiting in outer records of either stack kept, and every latch record cleared. -/
def Obligations.DivergentBranch : Prop :=
  (∀ (g : Guard) (h : Hold) (d a : Reg) (disp : BitVec 24) (rdisp : BitVec 15),
    -- an instruction whose lanes `taking` go to `dest` and whose others go to `next`, with a further effect
    let splits := fun (i : Instr) (f : Form) (ok : Env → Prop) (taking : Env → LaneMask) (dest next : Env → Word)
        (eff : Env → State → State) => ∀ (s : State) (e : Env), f.Ready e s → ok e → e.act ≠ 0 → taking e ≠ e.sp.mask →
      let pc := e.sp.pc
      let t := taking e
      let rest := e.sp.mask &&& ~~~t
      let u := eff e (e.latch f s)
      (rdisp = 0 → exec i s = .next (e.trapAt s s { cause := Causes.divergentUniform, info := t.setWidth 64, lane := 0 } pc)) ∧
      (rdisp ≠ 0 → 8 ≤ e.sp.stack.length → exec i s = .next (e.trapAt s s { cause := Causes.reconvOverflow, info := 0, lane := 0 } pc)) ∧
      (rdisp ≠ 0 → e.sp.stack.length < 8 → ∃ g0 sp0, u.group e.core e.slot = some g0 ∧ g0.split e.split = some sp0 ∧
        sp0.pc = pc ∧ sp0.mask = e.sp.mask ∧ sp0.stack = e.sp.stack ∧
        let r : JoinRec := { j := pc + BitVec.ofInt 32 (8 * rdisp.toInt), mj := e.sp.mask, dpc := 0, dmask := 0, amask := 0 }
        exec i s = .next (u.setGroup e.core e.slot (match lowestFree e.g.splits with
          | some k =>
            let taken := { sp0 with pc := dest e, mask := t, stack := r :: sp0.stack }
            let other := { sp0 with pc := next e, mask := rest, stack := r :: sp0.stack.map (fun x => { x with amask := 0 }) }
            { ((g0.setSplit e.split taken).setSplit k other).reconverge with wait := .ready }
          | none =>
            let taken := { sp0 with pc := dest e, mask := t, stack := { r with dpc := next e, dmask := rest } :: sp0.stack }
            { (g0.setSplit e.split taken).reconverge with wait := .ready })))
    let fb := Form.plain g
    let fc : Form := { Form.plain g with dsts := [(d, 1)] }
    let fi : Form := { Form.plain g with held := heldReg h (some a) none none, srcs := [(a, 1)] }
    let dest := fun (e : Env) => e.sp.pc + BitVec.ofInt 32 (8 * disp.toInt)
    let first := fun (e : Env) => e.rd a (LaneMask.lowest e.act)
    let same := fun (e : Env) => LaneMask.ofFn (fun l => e.act.getLsbD l && e.rd a l == first e)
    let aligned := fun (e : Env) => ∀ l ∈ e.lanes, (e.rd a l).toNat % 8 = 0
    let after := fun (e : Env) => if e.act &&& ~~~same e = 0 then e.sp.pc + 8 else e.sp.pc
    splits (.bra g disp rdisp) fb (fun _ => True) (fun e => e.act) dest (fun e => e.sp.pc + 8) (fun _ s => s) ∧
    splits (.call g d disp rdisp) fc (fun _ => True) (fun e => e.act) dest (fun e => e.sp.pc + 8) (fun e s =>
      (e.wr d (fun _ => e.sp.pc + 8) s).modGroup e.core e.slot (fun g =>
        { g with retPred := ((e.sp.pc + 8) :: g.retPred).take 4 })) ∧
    splits (.brx g h a rdisp) fi aligned same first after (fun _ s => s) ∧
    splits (.ret g h a rdisp) fi aligned same first after (fun e s =>
      s.modGroup e.core e.slot (fun g => { g with retPred := g.retPred.drop 1 }))) ∧
  -- a `nop` whose next word is at the J of the split's top record
  (∀ (g : Guard) (s : State) (e : Env) (g0 : Group) (sp : Split) (r : JoinRec) (rest : List JoinRec),
    let u := e.latch (Form.plain g) s
    (Form.plain g).Ready e s → u.group e.core e.slot = some g0 → g0.split e.split = some sp → sp.stack = r :: rest →
    sp.pc + 8 = r.j →
    let leaves := fun (l : List (Option Split)) =>
      exec (.nop g) s = .next (u.setGroup e.core e.slot { g0 with splits := l, wait := .ready })
    let outside := fun (l : List JoinRec) => ∀ x ∈ l.head?, x.j ≠ r.j
    ((∀ k, k ≠ e.split → g0.split k = none) →
      (r.dmask ≠ 0 → r.dpc ≠ r.j → leaves (g0.splits.set e.split (some { sp with
        pc := r.dpc, mask := r.dmask, stack := { r with amask := r.amask ||| sp.mask, dmask := 0 } :: rest }))) ∧
      (r.dmask = 0 → sp.mask ||| r.amask ≠ r.mj → leaves (g0.splits.set e.split (some { sp with pc := r.j }))) ∧
      (r.dmask = 0 → sp.mask ||| r.amask = r.mj → outside rest → leaves (g0.splits.set e.split (some {
        pc := r.j, mask := r.mj, stack := rest, latch := [], since := 0 })))) ∧
    (∀ (k : Nat) (sq : Split) (q : JoinRec) (rest' : List JoinRec), k ≠ e.split → g0.split k = some sq →
      (∀ n, n ≠ e.split → n ≠ k → g0.split n = none) → sq.pc = r.j → sq.stack = q :: rest' → q.j = r.j → q.mj = r.mj →
      r.dmask = 0 → q.dmask = 0 → rest'.length = rest.length → sp.mask ||| r.amask ||| sq.mask ||| q.amask = r.mj →
      outside rest → outside rest' →
      let waiting := fun (a b : List JoinRec) => List.zipWith (fun x y => { x with amask := x.amask ||| y.amask }) a b
      leaves ((g0.splits.set (max e.split k) none).set (min e.split k) (some {
        pc := r.j, mask := r.mj, stack := if e.split < k then waiting rest rest' else waiting rest' rest
        latch := [], since := 0 }))))

/-- Barriers (R108): `barr` sets the group's flag in the team's generation; a second one, or a `barw` with no flag, traps;
`barw` clears the flag once the generation has advanced and waits until then; `bar` does both; the last flag of the groups that have
not exited advances the generation. Two points are the model's readings: a flag counts in the generation in which it was set (log 37),
and a `bar` that issues again in its waiting half, which the group's own note of it tells, does not set its flag a second time
(log 36). -/
def Obligations.Barriers : Prop :=
  ∀ (g : Guard),
    let f := Form.grouped (Form.plain g)
    let clears := fun (e : Env) (s : State) => s.modGroup e.core e.slot (fun g => { g with barFlag := false, barAt := none })
    let waits := fun (e : Env) (s : State) => s.modGroup e.core e.slot (fun g => { g with wait := .barw })
    let trap := fun (_ : Env) => ({ cause := Causes.barrierSequence, info := 0, lane := 0 } : Trap)
    Ends (.barr g) f (fun e _ => e.act ≠ 0 ∧ e.g.barFlag = false)
      (fun e s => s.modGroup e.core e.slot (fun g => { g with barFlag := true, barGen := e.t.gen })) ∧
    Traps (.barr g) f (fun e _ => e.act ≠ 0 ∧ e.g.barFlag = true) trap ∧
    Ends (.barw g) f (fun e _ => e.act ≠ 0 ∧ e.g.barFlag = true ∧ e.g.barGen < e.t.gen) clears ∧
    Leads (.barw g) f (fun e _ => e.act ≠ 0 ∧ e.g.barFlag = true ∧ e.t.gen ≤ e.g.barGen) waits ∧
    Traps (.barw g) f (fun e _ => e.act ≠ 0 ∧ e.g.barFlag = false) trap ∧
    Leads (.bar g) f (fun e _ => e.act ≠ 0 ∧ e.g.barFlag = false) (fun e s => s.modGroup e.core e.slot (fun g =>
      { g with barFlag := true, barGen := e.t.gen, barAt := some e.sp.pc, wait := .barw })) ∧
    Ends (.bar g) f (fun e _ => e.act ≠ 0 ∧ e.g.barFlag = true ∧ e.g.barAt = some e.sp.pc ∧ e.g.barGen < e.t.gen) clears ∧
    Leads (.bar g) f (fun e _ => e.act ≠ 0 ∧ e.g.barFlag = true ∧ e.g.barAt = some e.sp.pc ∧ e.t.gen ≤ e.g.barGen) waits ∧
    Traps (.bar g) f (fun e _ => e.act ≠ 0 ∧ e.g.barFlag = true ∧ e.g.barAt ≠ some e.sp.pc) trap ∧
    (∀ (c : Fin 256) (j : Fin 16), Happens (.barrierRelease c j)
      (fun s => ∃ t, s.team c.val j.val = some t ∧
        let mine := fun (i : Nat) (x : Group) => s.group c.val i = some x ∧ i < 16 ∧ x.team = j.val ∧ x.index < 16 ∧ x.live ≠ 0
        (∃ i x, mine i x) ∧ ∀ i x, mine i x → x.barFlag = true ∧ x.barGen = t.gen)
      (fun s => s.modTeam c.val j.val (fun t => { t with gen := t.gen + 1 })))

/-- Phases, results and exits (R78, R102, R109, R110, R114, R115): `phase` arrives once nothing is pending; `post` ORs A into
the grid's result; `yield` goes to its target once the named copies are complete; `exit` removes the passing lanes from the
group, from every split and from every join record, a group's last lanes once nothing is pending; its split goes on with the
lanes left, or with none takes its top record's deferred path, else drops the records at which no lane waits and is held at the
J of the next, or, with no record left, is freed; and what is then complete at a join fuses. A group with no live lane and
nothing pending ends. Which of two splits takes a deferred path that both hold is log 15's reading, and no clause speaks of that
case. -/
def Obligations.GroupProgress : Prop :=
  ∀ (g : Guard) (d a : Reg) (disp : BitVec 24),
    let f := Form.grouped (Form.plain g)
    let fa := Form.grouped { Form.plain g with srcs := [(a, 1)] }
    let fd := Form.grouped { Form.plain g with srcs := [(d, 1)] }
    let fe : Form := { Form.plain g with log := true }
    Leads (.phase g) f (fun e _ => e.act ≠ 0 ∧ e.g.anyPending = false)
      (fun e s => ((e.advance s).modGroup e.core e.slot (fun g => { g.clearLatch with arrived := true })).startCount e.core) ∧
    Leads (.phase g) f (fun e _ => e.act ≠ 0 ∧ e.g.anyPending = true)
      (fun e s => s.modGroup e.core e.slot (fun g => { g with wait := .settle })) ∧
    Ends (.post g a) fa (fun e _ => e.act ≠ 0)
      (fun e s => s.modGrid e.g.grid (fun gr => { gr with result := gr.result ||| e.sc a, posted := true })) ∧
    Leads (.yield g d disp) fd (fun e _ => e.act ≠ 0 ∧ e.k.tagWait e.slot e.g (e.tagOf d) = some true)
      (fun e s => s.modGroup e.core e.slot (fun g =>
        { (g.setPc e.split (e.sp.pc + BitVec.ofInt 32 (8 * disp.toInt))).clearLatch with wait := .ready })) ∧
    Leads (.yield g d disp) fd (fun e _ => e.act ≠ 0 ∧ e.k.tagWait e.slot e.g (e.tagOf d) = some false)
      (fun e s => s.modGroup e.core e.slot (fun g => { g with wait := .yield (e.tagOf d) })) ∧
    Ends (.exit g) fe (fun e _ => e.act = 0) (fun _ s => s) ∧
    (∀ (s : State) (e : Env), fe.Ready e s → e.act ≠ 0 → e.g.live &&& ~~~e.act ≠ 0 ∨ e.g.anyPending = false →
      ∃ t g', exec (.exit g) s = .next t ∧ OnlyGroup e s t g' ∧ (t.core e.core).regs = e.k.regs ∧
        { g' with splits := e.g.splits, wait := e.g.wait, live := e.g.live, helper := e.g.helper } = e.g ∧
        g'.live = e.g.live &&& ~~~e.act ∧ g'.helper = e.g.helper &&& ~~~e.act ∧
        (∀ i sp, g'.split i = some sp → sp.mask &&& e.act = 0 ∧ ∀ r ∈ sp.stack, (r.mj ||| r.dmask ||| r.amask) &&& e.act = 0) ∧
        -- the splits and their records as they stand without the lanes that leave, latch records apart
        let bare := fun (sp : Split) => { sp with latch := [], since := 0 }
        let left := fun (sp : Split) => { bare sp with
          mask := sp.mask &&& ~~~e.act
          stack := sp.stack.map (fun r => { r with mj := r.mj &&& ~~~e.act, dmask := r.dmask &&& ~~~e.act, amask := r.amask &&& ~~~e.act }) }
        let mine := left { e.sp with pc := e.sp.pc + 8 }
        let becomes := fun (o : Option Split) =>
          g'.splits.map (Option.map bare) = (e.g.splits.map (Option.map left)).set e.split o
        let apart := fun (pc : Word) (l : List JoinRec) => ∀ r ∈ l.head?, pc ≠ r.j
        -- no other split stands at its join
        ((∀ k sq, k ≠ e.split → e.g.split k = some sq → (left sq).mask ≠ 0 ∧ apart sq.pc sq.stack ∧
            (mine.mask = 0 → ∀ r ∈ (left sq).stack, r.dmask = 0)) →
          (mine.mask ≠ 0 → apart mine.pc mine.stack → becomes (some mine)) ∧
          (∀ r rest, mine.mask = 0 → mine.stack = r :: rest → r.dmask ≠ 0 → r.dpc ≠ r.j →
            becomes (some { mine with pc := r.dpc, mask := r.dmask, stack := { r with dmask := 0 } :: rest })) ∧
          (mine.mask = 0 → (∀ r ∈ mine.stack, r.dmask = 0 ∧ r.amask = 0) → becomes none) ∧
          (∀ popped r rest, mine.mask = 0 → mine.stack = popped ++ r :: rest → (∀ x ∈ popped, x.dmask = 0 ∧ x.amask = 0) →
            r.dmask = 0 → r.amask ≠ 0 →
            (r.amask ≠ r.mj → becomes (some { mine with pc := r.j, stack := r :: rest })) ∧
            (r.amask = r.mj → apart r.j rest → becomes (some { mine with pc := r.j, mask := r.mj, stack := rest })))) ∧
        -- one other split, held at the join that the lanes that leave were to reach
        (∀ k sq r rest, k ≠ e.split → e.g.split k = some sq → (∀ n, n ≠ e.split → n ≠ k → e.g.split n = none) →
          mine.mask = 0 → (∀ x ∈ mine.stack, x.dmask = 0 ∧ x.amask = 0) → (left sq).mask ≠ 0 → (left sq).stack = r :: rest →
          sq.pc = r.j → r.dmask = 0 → (left sq).mask ||| r.amask = r.mj → apart r.j rest →
          g'.splits.map (Option.map bare) = (e.g.splits.map (fun _ => none)).set k
            (some { pc := r.j, mask := r.mj, stack := rest, latch := [], since := 0 }))) ∧
    Leads (.exit g) fe (fun e _ => e.act ≠ 0 ∧ e.g.live &&& ~~~e.act = 0 ∧ e.g.anyPending = true)
      (fun e s => s.modGroup e.core e.slot (fun g => { g with wait := .settle })) ∧
    (∀ (c : Fin 256) (i : Fin 16), Happens (.groupEnd c i)
      (fun s => ∃ g, s.group c.val i.val = some g ∧ g.live = 0 ∧ g.anyPending = false)
      (fun s => (s.freeGroup c.val i.val).startCount c.val))

/-- Children (R89, R94, R100, R112, R113): the leader's `launch` submits the record it names under a free handle, or marks the handle
failed; anyone else, a grid without the right, a nest too deep or a ninth handle traps. `chwait` takes the results of the children it
names once all are done, frees their handles and sets the status, and waits until then; a handle that names no child traps. The
landing that finds a waiting group's children done gives it the results, frees the handles, and lets it go on after the word,
where the join records that its split comes to are popped (R77). -/
def Obligations.Children : Prop :=
  (∀ (g : Guard) (d a : Reg) (st : Fin 8),
    let f := Form.grouped { Form.plain g with dsts := [(d, 1)], srcs := [(a, 2)] }
    let fw := Form.grouped { Form.plain g with dsts := [(d, 1)], srcs := [(a, 1)] }
    let leads := fun (e : Env) => e.act ≠ 0 ∧ e.g.index = 0 ∧ e.gr.lrec.child = true ∧ e.gr.depth < e.gr.limit
    let may := fun (e : Env) (h : Nat) => leads e ∧ h < e.t.children.length ∧ e.t.children.getD h none = none ∧
      ∀ k, k < h → e.t.children.getD k none ≠ none
    let sub := fun (e : Env) (h : Nat) (s : State) => s.submit e.gr.part
      (s.bytesAt e.gr.part ((e.rd64 a 0).toNat % 2 ^ 48) 256) (e.rd64 a 0) false 0 e.gr.queue (some (e.gr.id, e.t.num, h))
      (e.gr.depth + 1) e.gr.limit
    let put := fun (e : Env) (h : Nat) (c : Child) (s : State) =>
      s.modTeam e.core e.g.team (fun t => { t with children := t.children.set h (some c) })
    let trap := fun (c : Cause) (_ : Env) => ({ cause := c, info := 0, lane := 0 } : Trap)
    (∀ (s s' : State) (e : Env) (h : Nat), f.Ready e s → may e h → sub e h s = .ok s' →
      exec (.launch g d a) s = .next (e.advance (e.latch f (e.wrS d (BitVec.ofNat 32 h)
        (put e h { grid := s.nextId, done := false, result := 0, ok := true } s'))))) ∧
    (∀ (s : State) (e : Env) (h : Nat) (c : Cause), f.Ready e s → may e h → sub e h s = .error c →
      ∃ v, exec (.launch g d a) s = .next (e.advance (e.latch f (e.wrS d (BitVec.ofNat 32 h)
        { (put e h { grid := s.nextId, done := true, result := v, ok := false } s) with
          nextId := s.nextId + 1, free := s.free + 1 })))) ∧
    Traps (.launch g d a) f (fun e _ => e.act ≠ 0 ∧ e.g.index ≠ 0) (trap Causes.launchNotLeader) ∧
    Traps (.launch g d a) f (fun e _ => e.act ≠ 0 ∧ e.g.index = 0 ∧ e.gr.lrec.child = false) (trap Causes.childDenied) ∧
    Traps (.launch g d a) f (fun e _ => e.act ≠ 0 ∧ e.g.index = 0 ∧ e.gr.lrec.child = true ∧ e.gr.limit ≤ e.gr.depth)
      (trap Causes.nestingDepth) ∧
    Traps (.launch g d a) f (fun e _ => leads e ∧ ∀ o ∈ e.t.children, o ≠ none) (trap Causes.childLimit) ∧
    (let used := fun (e : Env) => (List.range 8).filterMap (fun h => (e.t.children.getD h none).map (fun c => (h, c)))
     -- the children that the operand names: those of every handle in use for `c0`, else the one of its handle
     let named := fun (e : Env) => match a with
       | .c _ => used e
       | _ => (used e).filter (fun x => x.1 == (e.sc a).toNat)
     let names := fun (e : Env) => (∃ n, a = .c n) ∨ named e ≠ []
     Ends (.chwait g d a st) fw (fun e _ => e.act ≠ 0 ∧ names e ∧ ∀ x ∈ named e, x.2.done = true)
       (fun e s => (s.modTeam e.core e.g.team (fun t => { t with
           children := (named e).foldl (fun l x => l.set x.1 none) t.children })).modGroup e.core e.slot (fun g =>
         (g.putS d ((named e).foldl (fun w x => w ||| x.2.result) 0)).setPred st.val allLanes
           (if (named e).all (fun x => x.2.ok) then allLanes else 0))) ∧
     Leads (.chwait g d a st) fw (fun e _ => e.act ≠ 0 ∧ names e ∧ ∃ x ∈ named e, x.2.done = false)
       (fun e s => ((e.latch fw s).modGroup e.core e.slot (fun g => { g with wait := .chwait (named e) d st.val })).modPart
         (s.partOf e.core) (fun p => { p with stragOn := true })) ∧
     Traps (.chwait g d a st) fw (fun e _ => e.act ≠ 0 ∧ ¬ names e)
       (fun e => { cause := Causes.invalidChild, info := (e.sc a).setWidth 64, lane := 0 }))) ∧
  -- what a submitted grid is
  (∀ (s s' : State) (p : Nat) (rec : Option (List Byte)) (at' node : Dword) (dep : Bool) (q : Nat)
    (parent : Option (Nat × Nat × Nat)) (depth limit : Nat), s.submit p rec at' dep node q parent depth limit = .ok s' →
    ∃ gr, s' = { s with nextId := s.nextId + 1, grids := s.grids ++ [gr] } ∧ gr.id = s.nextId ∧ gr.part = p ∧
      gr.parent = parent ∧ gr.depth = depth ∧ gr.limit ≤ limit ∧ gr.phase = .hashing ∧ gr.teamsLeft = gr.lrec.teams) ∧
  -- a landing and a group that waits
  (∀ (k : Core) (slot : Nat) (x : Group) (l : List (Nat × Child)) (d : Reg) (st : Nat),
    k.group slot = some x → slot < 16 → x.wait = .chwait l d st →
    ((∃ y ∈ l, y.2.done = false) → k.releaseChildren.group slot = some x) ∧
    ((∀ y ∈ l, y.2.done = true) →
      -- a converged group: the joins that its split comes to at the next word are popped, and end latch service
      (∀ i sp, x.split i = some sp → (∀ j, j ≠ i → x.split j = none) → i < 4 → sp.stack.length ≤ 8 →
        (∀ r ∈ sp.stack, r.mj = sp.mask ∧ r.dmask = 0 ∧ r.amask = 0) →
        let joins := sp.stack.head?.any (fun r => r.j == sp.pc + 8)
        let x1 := (x.putS d (l.foldl (fun w y => w ||| y.2.result) 0)).setPred st allLanes
          (if l.all (fun y => y.2.ok) then allLanes else 0)
        k.releaseChildren.group slot = some { x1 with wait := .ready, splits := x.splits.set i (some { sp with
          pc := sp.pc + 8, stack := sp.stack.dropWhile (fun r => r.j == sp.pc + 8)
          latch := if joins then [] else sp.latch, since := if joins then 0 else sp.since }) }) ∧
      (∀ t, k.releaseChildren.team x.team = some t → ∀ y ∈ l, ∀ ch, t.children.getD y.1 none = some ch → ch.grid ≠ y.2.grid)))

/-- Block growth (R90, R116, R117, R120): `regrow` adds the lowest free blocks of its scheduler below the affine storage, their
registers zero, and waits where too few are free or a party that waits for blocks takes them; `regshrink` drops blocks there;
both reset the window, and a count out of range traps; freed blocks go to the oldest waiting party, and on a deadlock groups
other than the oldest that asks are spilled for it, youngest first, until its request fits; a spilled group keeps its registers
and everything else, and gets them back in free blocks. A `regrow` that waits is latched once, when it issues. Which free
blocks, and their order in the map, is the model's choice (log 54); that a spilled group without room, or behind an older
waiting party, counts as blocked, and that a spilled group whose straggler trap is due asks for its own blocks alone (R102), are
its readings (log 55). -/
def Obligations.BlockGrowth : Prop :=
  ∀ (g : Guard) (n : BitVec 4),
    let f := Form.grouped (Form.plain g)
    let quiet := fun (e : Env) => e.act ≠ 0 ∧ e.g.anyPending = false
    let needs := fun (x : Group) (m : Nat) => (if x.stragglerDue then 0 else m) + if x.spill.isSome then x.blocks.length else 0
    let free := fun (e : Env) => (e.k.freeBlocks (e.slot / 4)).length
    -- the free blocks go to the oldest of the parties that wait for some, if they are enough for it
    let owed := fun (e : Env) => ∃ y, e.k.waitingParty e.pt.isX (e.slot / 4) = some y ∧ needs y.2 (y.2.asks.getD 0) ≤ free e
    let trap := fun (_ : Env) => ({ cause := Causes.allocationLimit, info := BitVec.ofNat 64 n.toNat, lane := 0 } : Trap)
    let below := fun (g : Group) (aff k : Nat) (new : List Nat) =>
      let bs := g.blocks.take (g.blocks.length - aff - k) ++ new ++ g.blocks.drop (g.blocks.length - aff)
      { g with blocks := bs, winLo := 0, winHi := BitVec.ofNat 32 (16 * bs.length) }
    Ends (.regrow g n) f
      (fun e _ => quiet e ∧ e.g.blocks.length + n.toNat ≤ 12 ∧ n.toNat ≤ free e ∧ ¬ owed e)
      (fun e s =>
        let new := (e.k.freeBlocks (e.slot / 4)).take n.toNat
        (s.modCore e.core (fun k => k.zeroBlocks (e.slot / 4) new)).modGroup e.core e.slot (fun g =>
          below g e.gr.lrec.aff 0 new)) ∧
    Leads (.regrow g n) f
      (fun e _ => quiet e ∧ e.g.blocks.length + n.toNat ≤ 12 ∧ (free e < n.toNat ∨ owed e))
      (fun e s => (e.latch f s).modGroup e.core e.slot (fun g => { g with wait := .regrow n.toNat })) ∧
    Traps (.regrow g n) f (fun e _ => quiet e ∧ 12 < e.g.blocks.length + n.toNat) trap ∧
    Ends (.regshrink g n) f (fun e _ => quiet e ∧ e.gr.lrec.aff + 1 + n.toNat ≤ e.g.blocks.length)
      (fun e s => s.modGroup e.core e.slot (fun g => below g e.gr.lrec.aff n.toNat [])) ∧
    Traps (.regshrink g n) f (fun e _ => quiet e ∧ e.g.blocks.length < e.gr.lrec.aff + 1 + n.toNat) trap ∧
    -- freed blocks, a deadlock, and a spilled group
    (let granted := fun (s : State) (c slot m : Nat) =>
       let new := ((s.core c).freeBlocks (slot / 4)).take m
       ((s.modCore c (fun k => k.zeroBlocks (slot / 4) new)).modGroup c slot (fun g =>
         below g (s.grid g.grid).lrec.aff 0 new)).modGroup c slot Group.endWait
     -- a group that the straggler trap takes out of its `regrow` gets its own blocks back and goes on at that word (R102)
     let back := fun (x : Group) (u : State) (c slot m : Nat) =>
       let v := u.modCore c (fun k => k.unspill slot)
       if x.stragglerDue then v else granted v c slot m
     (∀ (c : Fin 256) (q : Fin 4) (s : State) (slot : Nat) (x : Group) (m : Nat),
       (s.core c.val).waitingParty (s.part (s.partOf c.val)).isX q.val = some (slot, x) → x.wait = .regrow m →
       needs x m ≤ ((s.core c.val).freeBlocks q.val).length →
       (x.spill = none → exec (.regrowGrant c q) s = .next (granted s c.val slot m)) ∧
       (x.spill ≠ none → exec (.groupSpillRestore c q) s = .next (back x s c.val slot m))) ∧
     (∀ (c : Fin 256) (q : Fin 4) (s : State) (slot : Nat) (x : Group),
       (s.core c.val).waitingParty (s.part (s.partOf c.val)).isX q.val = some (slot, x) → x.asks = none → x.spill ≠ none →
       x.blocks.length ≤ ((s.core c.val).freeBlocks q.val).length →
       exec (.groupSpillRestore c q) s = .next (s.modCore c.val (fun k => k.unspill slot))) ∧
     (∀ (c : Fin 256) (q : Fin 4) (s : State) (slot : Nat) (x : Group) (m : Nat),
       ((s.core c.val).schedGroups q.val).find? (fun y => y.2.asks.isSome) = some (slot, x) → x.wait = .regrow m →
       (∀ y ∈ (s.core c.val).schedGroups q.val, (s.core c.val).deadlocked (s.part (s.partOf c.val)).isX y.1 y.2 = true) →
       let others := (((s.core c.val).schedGroups q.val).filter (fun y => y.1 != slot && y.2.spill.isNone)).reverse.map
         (fun y => y.1)
       let u := s.setCore c.val ((s.core c.val).spillUntil q.val (needs x m) others)
       exec (.groupSpill c q) s = .next (back x u c.val slot m)) ∧
     (∀ (k : Core) (q n : Nat) (i : Nat) (l : List Nat), k.spillUntil q n [] = k ∧
       k.spillUntil q n (i :: l) = if n ≤ (k.freeBlocks q).length then k else (k.spill i).spillUntil q n l)) ∧
    (∀ (k : Core) (slot : Nat) (x : Group), k.group slot = some x → slot < 16 → Store.wf k.regs = true →
      (x.spill = none → x.blocks.Nodup → ∃ y, (k.spill slot).group slot = some y ∧ y.spill.isSome = true ∧
        { y with spill := none } = x ∧
        ∀ r l, r < x.nregs → l < 32 → (k.spill slot).readV slot y r l = k.readV slot x r l) ∧
      (∀ m, x.spill = some m → Store.wf m = true → (∀ z ∈ m, z.1 < 32 * x.nregs) →
        x.blocks.length ≤ (k.freeBlocks (slot / 4)).length → ∃ y, (k.unspill slot).group slot = some y ∧ y.spill = none ∧
        { y with spill := x.spill, blocks := x.blocks } = x ∧ y.blocks.length = x.blocks.length ∧
        ∀ r l, r < x.nregs → l < 32 → (k.unspill slot).readV slot y r l = k.readV slot x r l))

/-! ## Traps and levels -/

/-- Trap entry (R344): with nothing pending that R85 waits for, a group at U whose raised trap has a handler, read at `TVEC` + 8
× class as code is, saves its split table, trapping split and helper mask, writes `TCAUSE`, `TEPC`, `TINFO` and `TLANE`, and
becomes one split at H at the handler, of every lane that has not exited, with no joins, latch records or helpers; the read sets
A in the page's leaf (R320) and its translation joins the instruction TLB (R215), where none was held for that page; nothing
else changes. Without a handler (R53, R336) the grid is removed as a fatal fault: with the cause where `TVEC` is 0 or the
handler's dword is all ones, with 0x224 where it lies on an invalid page, with trap-in-handler where the group is at H. A group
with no raised trap, or with results pending that R85 waits for, stays as it is. -/
def Obligations.TrapEntry : Prop :=
  (∀ (c : Fin 256) (i : Fin 16) (s : State) (g : Group) (r : Raised) (l : Leaf) (bs : List Byte),
    let p := (s.grid g.grid).part
    let at' := (g.tvec.toNat + 8 * (r.cause.toNat / 128)) % 2 ^ 48
    s.group c.val i.val = some g → g.raised = some r → g.entryPending = false → g.atH = false → g.tvec ≠ 0 →
    g.tvec.toNat % 8 = 0 → (∀ x ∈ (s.core c.val).itlb, x.covers at' = false) → walk s.host (s.part p) at' = some l →
    s.bytesAt p at' 8 = some bs →
    let a : Dword := BitVec.ofNat 64 (leNat bs)
    a ≠ 0xFFFFFFFFFFFFFFFF →
    exec (.trapEntry c i) s = .next (((s.touchLeaf p l false).modCore c.val (fun k => k.fillCode at' l)).setGroup c.val i.val { g with
      frame := { splits := g.splits, trapping := r.split, helper := g.helper }
      tcause := r.cause, tepc := r.tepc, tinfo := r.info, tlane := BitVec.ofNat 5 r.lane
      splits := [some { pc := (a - (s.grid g.grid).lrec.code).setWidth 32, mask := g.live, stack := [], latch := [], since := 0 },
        none, none, none]
      helper := 0, atH := true, raised := none, wait := .ready })) ∧
  (∀ (c : Fin 256) (i : Fin 16) (s : State) (g : Group), s.group c.val i.val = some g →
    let gone := fun (u : State) (code : Cause) => exec (.trapEntry c i) s = .next ((u.setGroup c.val i.val { g with
      raised := none }).removeGrid g.grid 4 code)
    (∀ r, g.raised = some r → g.entryPending = false →
      let p := (s.grid g.grid).part
      let at' := (g.tvec.toNat + 8 * (r.cause.toNat / 128)) % 2 ^ 48
      (g.atH = true → gone s 0x0B8) ∧
      (g.atH = false → g.tvec = 0 → gone s r.cause) ∧
      (g.atH = false → g.tvec ≠ 0 → g.tvec.toNat % 8 = 0 → (∀ x ∈ (s.core c.val).itlb, x.covers at' = false) →
        (walk s.host (s.part p) at' = none → gone s 0x224) ∧
        (∀ l bs, walk s.host (s.part p) at' = some l → s.bytesAt p at' 8 = some bs →
          (BitVec.ofNat 64 (leNat bs) : Dword) = 0xFFFFFFFFFFFFFFFF →
          gone ((s.touchLeaf p l false).modCore c.val (fun k => k.fillCode at' l)) r.cause))) ∧
    (g.raised = none ∨ g.entryPending = true → exec (.trapEntry c i) s = .next s))

/-- Software traps (R341, R347): `trap` raises the software-trap with its number, `TEPC` at the next word, and `brk` the
breakpoint with its low word, unless `DBGCTL`.BRKF makes it freeze the cluster and go on. -/
def Obligations.SoftwareTraps : Prop :=
  ∀ (g : Guard) (k : BitVec 8) (hi : BitVec 2) (lo : BitVec 53),
    let f := Form.plain g
    Leads (.trap g k) f (fun e _ => e.act ≠ 0 ∧ (e.g.gatherDue = false ∨ e.g.atH = true))
      (fun e s => (e.latch f s).raiseTrap e.core e.slot e.split
        { cause := Causes.softwareTrap, info := k.setWidth 64, lane := 0 } (e.sp.pc + 8)) ∧
    Ends (.trap g k) f (fun e _ => e.act = 0) (fun _ s => s) ∧
    (∀ (s : State) (e : Env), s.env 0 false = some e →
      (e.k.brkf = false → e.g.gatherDue = false ∨ e.g.atH = true → exec (.brk hi lo) s = .next (s.raiseTrap e.core e.slot e.split
        { cause := Causes.breakpoint, info := (lo.setWidth 32).setWidth 64, lane := 0 } e.sp.pc)) ∧
      (e.k.brkf = true → exec (.brk hi lo) s = .next (e.advance (e.latch (Form.plain { settle := false, pg := 0, pn := false })
        ((s.freeze (e.core / 8)).modGroup e.core e.slot (fun g => { g with gskHit := true, gskWp := 0 }))))))

/-- `tret` (R226, R345): at H, after the replay of a firm gather, the split table and helper mask of the frame return, every entry
with the lanes that have not exited meanwhile, the trapping split at `TEPC`; the latch records are cleared and the group is at U.
Exits are those of R78: a split left with no lane and no record is gone. Where no lane has exited, every entry returns as it was
saved, a sibling that waits at its join too. The replay reissues the logged gather's unfinished lanes:
those whose pages are now resident complete with their data in flight, the others write new records and leave the trap due. -/
def Obligations.TrapReturn : Prop :=
  ∀ (g : Guard) (s : State) (e : Env),
    let f := { Form.plain g with pre := handlerOnly }
    f.Ready e s → e.act ≠ 0 →
    let u := if e.g.tcause = Causes.firmGather then s.replay e.core e.slot e.g.gatherLog else s
    -- the frame's table, the trapping split at TEPC
    let table := e.g.frame.splits.set e.g.frame.trapping
      ((e.g.frame.splits.getD e.g.frame.trapping none).map (fun sp => { sp with pc := e.g.tepc }))
    let live := e.g.live
    (∃ g1, u.group e.core e.slot = some g1 ∧
      { g1 with inflight := e.g.inflight, logs := e.g.logs, gatherDue := e.g.gatherDue } = e.g ∧
      ∃ l, exec (.tret g) s = .next (u.setGroup e.core e.slot { g1 with
          splits := l, helper := e.g.frame.helper &&& live, atH := false }) ∧
        (∀ o ∈ l, ∀ sp, o = some sp → sp.latch = [] ∧ sp.since = 0 ∧ sp.mask &&& ~~~live = 0) ∧
        -- where no exit empties a split that waits and no split stands at its join
        ((∀ o ∈ table, ∀ sp, o = some sp → if sp.mask &&& live = 0 then sp.stack = [] else ∀ r ∈ sp.stack.head?, sp.pc ≠ r.j) →
          l = table.map (fun o => o.bind (fun sp => if sp.mask &&& live = 0 then none else some {
            pc := sp.pc, mask := sp.mask &&& live, latch := [], since := 0
            stack := sp.stack.map (fun r => { r with
              mj := r.mj &&& live, dmask := r.dmask &&& live, amask := r.amask &&& live }) }))) ∧
        -- where no lane of the table has exited, its splits stand at a join only to wait there, and no join has all its lanes
        (let lives := fun (m : LaneMask) => m &&& ~~~live = 0
         let held := fun (sp : Split) (r : JoinRec) => some sp ∈ table ∧ sp.stack.head? = some r ∧ sp.pc = r.j
         (∀ sp, some sp ∈ table → lives sp.mask ∧ (∀ r ∈ sp.stack, lives r.mj ∧ lives r.dmask ∧ lives r.amask) ∧
           (sp.mask = 0 → ∃ r, held sp r ∧ r.amask ≠ 0)) →
         (∀ sp r, held sp r → r.dmask = 0 ∧ ∃ lane, r.mj.getLsbD lane = true ∧ ∀ q x, held q x → x.j = r.j → x.mj = r.mj →
           q.stack.length = sp.stack.length → q.mask.getLsbD lane = false ∧ x.amask.getLsbD lane = false) →
         l = table.map (fun o => o.map (fun sp => { sp with latch := [], since := 0 })))) ∧
    (e.g.tcause ≠ Causes.firmGather → u = s) ∧
    (∀ o, e.g.tcause = Causes.firmGather → e.g.logs.getD e.g.gatherLog none = some o → e.k.tlb = [] → e.k.lastPage = [] →
      let leaf := fun (l : Nat) => walk s.host e.pt (o.addrs.getD l 0).toNat
      let here := fun (l : Nat) => (leaf l).any (fun x => Pte.res x.pte && Pte.core x.pte == e.core)
      let todo := LaneMask.toList (o.guard &&& ~~~o.pcm)
      let words := fun (l : Nat) => loadWords o.size ((List.range o.size.bytes).map (fun i =>
        e.g.seen e.k.vault (((leaf l).map (fun x => x.offset (o.addrs.getD l 0).toNat)).getD 0 + i)))
      ∃ g1 dropped flight, u.group e.core e.slot = some g1 ∧
        g1.logs = e.g.logs.set e.g.gatherLog (some { o with
          pcm := o.pcm ||| LaneMask.ofFn (fun l => todo.contains l && here l), dropped := dropped, flight := flight }) ∧
        (g1.gatherDue = true ↔ ∃ y, some y ∈ g1.logs ∧ y.guard &&& ~~~y.pcm ≠ 0) ∧
        (todo.any here = false → g1.inflight = e.g.inflight) ∧
        (todo.any here = true → ∃ r, g1.inflight = e.g.inflight ++ [r] ∧ r.kind = .gather ∧ r.ready = true ∧
          r.vdata = (todo.filter here).flatMap (fun l => (List.range (words l).length).map (fun j =>
            (o.dregs.getD l 0 + j, l, (words l).getD j 0))) ∧
          (∀ x, x ∈ r.vregs ↔ ∃ y ∈ r.vdata, y.1 = x) ∧ (todo.all here = true → flight = r.id)) ∧
        u.host = s.host ∧ (u.core e.core).vault = e.k.vault ∧ (u.core e.core).regs = e.k.regs ∧
        (todo.all here = true → dropped = false ∧ (u.core e.core).sp = e.k.sp ∧ (u.core e.core).teams = e.k.teams))

/-- What stops a word before its own effect, in the order of R72: registers outside the allocation, privilege (R335, R338:
`tret`, `halt` and a hidden register at U, and a write to a register that is read-only at the level), the phase (R101), a
group-level word while diverged (R105), a scalar register while diverged (R122), a pending register (R83). Each takes its trap
with nothing written. That the phase and the pending registers are checked whatever the guard is log 51, and the register that
TINFO names is log 18: both are the model's readings. -/
def Obligations.ChecksTrap : Prop :=
  ∀ (g : Guard) (h : Hold) (d a b : Reg) (sat hi : Bool) (ty : IntTy) (csr : BitVec 12) (rnd : Rnd) (tg : Fin 8),
    let stops := fun (i : Instr) (f : Form) (cond : Env → Prop) (t : Env → Trap) => ∀ (s : State) (e : Env),
      s.env f.g.pg.val f.g.pn = some e → f.dueFirst e s = none → (f.g.settle && e.g.anyPending) = false → cond e →
      exec i s = .next (e.trapAt s s (t e) e.sp.pc)
    let trap := fun (c : Cause) (_ : Env) => ({ cause := c, info := 0, lane := 0 } : Trap)
    let fa := aluForm g h d (some a) (some b) none
    let ff := fpForm g h d (some a) (some b) none
    let fx := Form.grouped (xferForm g [(d, 1)] [])
    let fr := Form.grouped (csrForm g d [] csr false)
    let fw := Form.grouped (csrForm g d [(a, 1)] csr true)
    let fh := { Form.plain g with pre := handlerOnly }
    let fl := Form.grouped { Form.plain g with srcs := [(a, 1)], inX := false, pre := handlerOnly }
    let hidden := (0x020 ≤ csr.toNat ∧ csr.toNat ≤ 0x025) ∨ 0x091 ≤ csr.toNat
    -- the registers that are read-only at a level
    let fixed := fun (e : Env) =>
      csr.toNat ∈ [0x002, 0x010, 0x011, 0x012, 0x032, 0x042, 0x060, 0x080, 0x081, 0x090] ∨
      (e.g.atH = false ∧ csr.toNat ∈ [0x030, 0x031]) ∨ (e.g.atH = true ∧ csr.toNat ∈ [0x020, 0x022, 0x023, 0x096])
    let denied := fun (i : Instr) => stops i fw (fun e => fw.regsIn e = true ∧ (e.g.atH = false ∧ hidden ∨ fixed e))
      (fun _ => { cause := Causes.privilege, info := csr.setWidth 64, lane := 0 })
    let phase := fun (e : Env) =>
      ({ cause := Causes.phaseIllegal, info := BitVec.ofNat 64 (e.pt.phcnt.toNat % 2 ^ 32), lane := 0 } : Trap)
    stops (.iadd g h d a b sat ty) fa (fun e => ∃ n, (d = .v n ∨ a = .v n ∨ b = .v n) ∧ 16 * e.g.blocks.length ≤ n.val)
      (trap Causes.reservedRegister) ∧
    stops (.csrr g d hi csr) fr (fun e => fr.regsIn e = true ∧ e.g.atH = false ∧ hidden)
      (fun _ => { cause := Causes.privilege, info := csr.setWidth 64, lane := 0 }) ∧
    denied (.csrw g d a hi csr) ∧ denied (.csrs g d a hi csr) ∧ denied (.csrc g d a hi csr) ∧
    stops (.tret g) fh (fun e => e.g.atH = false) (trap Causes.privilege) ∧
    stops (.halt g a) fl (fun e => fl.regsIn e = true ∧ e.g.atH = false) (trap Causes.privilege) ∧
    stops (.fadd g h d a b rnd) ff (fun e => ff.regsIn e = true ∧ e.pt.isX = true) phase ∧
    stops (.xwait g d tg false) fx (fun e => fx.regsIn e = true ∧ e.pt.isX = false) phase ∧
    stops (.barr g) (Form.grouped (Form.plain g)) (fun e => e.g.converged = false) (trap Causes.groupDiverged) ∧
    stops (.iadd g h d a b sat ty) fa
      (fun e => fa.regsIn e = true ∧ (∃ n, d = .s n ∨ a = .s n ∨ b = .s n) ∧ e.g.converged = false) (trap Causes.scalarDiverged) ∧
    (∀ n, stops (.iadd g h d a b sat ty) fa
      (fun e => fa.regsIn e = true ∧ (fa.usesScalar = true → e.g.converged = true) ∧ fa.unsettled e = some n)
      (fun _ => { cause := Causes.unsettledRead, info := BitVec.ofNat 64 n, lane := 0 }))

/-- The system-register words (R338, R339, R347): each returns the named half as it was, the register made up of the fields that
R339 lists, every other bit zero (R6); `csrw`, `csrs` and `csrc` then write, set or clear the bits of that half; `lpinv` sweeps
the core once its walks have returned, and `halt` removes the grid. -/
def Obligations.SystemWords : Prop :=
  ∀ (g : Guard) (d a : Reg) (hi : Bool) (csr : BitVec 12),
    let fr := Form.grouped (csrForm g d [] csr false)
    let fw := Form.grouped (csrForm g d [(a, 1)] csr true)
    let half := fun (e : Env) (s : State) => (if hi then (s.csr e.core e.slot csr.toNat).extractLsb' 32 32
      else (s.csr e.core e.slot csr.toNat).extractLsb' 0 32 : Word)
    let puts := fun (i : Instr) (op : CsrOp) => Ends i fw (fun e _ => e.act ≠ 0) (fun e s =>
      e.wr d (fun _ => half e s) (s.putCsr e.core e.slot csr.toNat op (if hi then (e.sc a) ++ 0#32 else (e.sc a).setWidth 64)
        (if hi then 0xFFFFFFFF00000000 else 0xFFFFFFFF)))
    (∀ (s : State) (e : Env), fr.Ready e s → e.act ≠ 0 →
      ∃ t g', exec (.csrr g d hi csr) s = .next t ∧ Wrote e d (fun _ => half e s) 0 s t g') ∧
    puts (.csrw g d a hi csr) .write ∧ puts (.csrs g d a hi csr) .set ∧ puts (.csrc g d a hi csr) .clear ∧
    (let f := Form.grouped { Form.plain g with inX := false }
     Ends (.lpinv g) f (fun e _ => e.act ≠ 0 ∧ e.k.walks = []) (fun e s => s.modCore e.core Core.sweep) ∧
     Leads (.lpinv g) f (fun e _ => e.act ≠ 0 ∧ e.k.walks ≠ []) (fun e s => s.modGroup e.core e.slot (fun g => { g with wait := .stalled }))) ∧
    Ends (.halt g a) (Form.grouped { Form.plain g with srcs := [(a, 1)], inX := false, pre := handlerOnly })
      (fun e _ => e.act ≠ 0) (fun e s => s.removeGrid e.g.grid 4 (haltCode (e.sc a))) ∧
    -- what the registers read as
    (∀ (s : State) (c slot : Nat) (g : Group) (t : Team), s.group c slot = some g → s.team c g.team = some t →
      let k := s.core c
      let i := s.partOf c
      let p := s.part i
      let is := fun (n v : Nat) => s.csr c slot n = BitVec.ofNat 64 v
      let flag := fun (b : Bool) (n : Nat) => if b then 2 ^ n else 0
      let flags := fun (n : Nat) (f : Nat → Bool) => ((List.range n).map (fun i => flag (f i) i)).sum
      let odd := p.phcnt.getLsbD 0
      is 0x000 g.fpctl.toNat ∧ is 0x001 g.fpflg.toNat ∧ is 0x002 g.repsig.toNat ∧
      is 0x010 p.phcnt.toNat ∧ is 0x012 p.phtmo.toNat ∧
      is 0x011 (flag g.xgrp 5 + flag g.arrived 4 + flag (!odd || g.xgrp) 3 + flag g.strag 2 + flag p.preemptReq 1 + flag odd 0) ∧
      is 0x020 g.tcause.toNat ∧ is 0x021 g.tepc.toNat ∧ is 0x022 g.tinfo.toNat ∧ is 0x023 g.tlane.toNat ∧
      is 0x024 g.tvec.toNat ∧ is 0x025 g.tsave.toNat ∧
      is 0x030 t.afnext.toNat ∧ is 0x031 t.aflive.toNat ∧ is 0x032 t.afquota.toNat ∧
      is 0x040 (t.frqSz.toNat * 2 ^ 28 + t.frqBase.toNat) ∧ is 0x041 t.frqhd.toNat ∧ is 0x042 t.frqtl.toNat ∧
      is 0x050 g.resmiss.toNat ∧
      is 0x051 (g.cpyerr.toNat * 2 ^ 16 + flags 8 (fun i =>
        k.copies.any (fun x => x.uid == g.uid && x.cruiser.isNone && x.cslot.toNat == i))) ∧
      is 0x060 (flag k.run.isSome 31 + flag k.lsFault 30 + k.lsEmit % 16 * 2 ^ 24 + min k.lsCount 0xFFFFFF) ∧
      is 0x061 (k.stall.toNat * 2 ^ 32 + k.mdone.toNat) ∧
      is 0x062 (k.tangc.toNat * 2 ^ 16 + min k.recq.length 15 * 2 ^ 8 + flags 4 (fun i => (k.ctxs.getD i none).isSome)) ∧
      is 0x070 k.xlate.toNat ∧ is 0x071 (flag g.xdln 0) ∧ is 0x072 (flag g.scopeEn 1 + flag g.scopeDem 0) ∧
      is 0x080 (i * 2 ^ 20 + p.first * 2 ^ 8 + p.ncl) ∧ is 0x081 (flag p.key.isSome 31 + p.gen.toNat) ∧
      is 0x090 (flag g.gskHit 7 + g.gskWp.toNat * 2 ^ 5 + g.gskSkid) ∧
      (∀ n, n < 4 → is (0x091 + n) (k.wpa.getD n 0).toNat) ∧ is 0x095 k.wpctl.toNat ∧
      is 0x096 (flag k.stepb 9 + k.sgrp.toNat * 2 ^ 5 + flag k.step 4 + flag k.brkf 2 + flag k.wpact 1 +
        flag (s.cluster (c / 8)).frozen 0))

/-- What a write does to each register that software may write (R5, R152, R156, R339, R347): `FPFLG`, the errors of `CPYSTAT` and DEM
of `SCOPEST` clear the bits written 1, or named by `csrc`, and `csrs` leaves them; `FPCTL` keeps its reserved bits zero, and a change
rehashes `REPSIG`; `TVEC` and `TEPC` keep their low bits zero; `AFNEXT` ignores 0; `FRQBASE` ignores a ring outside the scratchpad
and a size above 12, and otherwise empties the ring; any write to `MBATCH` or `CVSTAT` clears its count; the others keep what is
written to their fields. Nothing else of the group, the team and the core changes. -/
def Obligations.RegisterWrites : Prop :=
  ∀ (g : Guard) (a : Reg),
    let does := fun (i : Instr) (n : BitVec 12) (r : Env → Word → Group) (rt : Word → Team → Team) (rk : Word → Core → Core) =>
      ∀ (s : State) (e : Env) (x : Team), (Form.grouped (csrForm g (.c 0) [(a, 1)] n true)).Ready e s → e.act ≠ 0 →
      e.k.team e.g.team = some x →
      ∃ t g', exec i s = .next t ∧ t.group e.core e.slot = some g' ∧
        { g' with splits := e.g.splits, wait := e.g.wait } = { r e (e.sc a) with splits := e.g.splits, wait := e.g.wait } ∧
        t = s.modCore e.core (fun k =>
          { rk (e.sc a) k with groups := (t.core e.core).groups, teams := k.teams.set e.g.team (some (rt (e.sc a) x)) }) ∧
        (∀ j, j ≠ e.slot → (t.core e.core).group j = e.k.group j)
    let writesBy := fun (i : Instr) (n : BitVec 12) (r : Env → Word → Group) => does i n r (fun _ x => x) (fun _ k => k)
    let csrw := fun (n : BitVec 12) => Instr.csrw g (.c 0) a false n
    let csrs := fun (n : BitVec 12) => Instr.csrs g (.c 0) a false n
    let csrc := fun (n : BitVec 12) => Instr.csrc g (.c 0) a false n
    let writes := fun (n : BitVec 12) (r : Env → Word → Group) => writesBy (csrw n) n r
    let team := fun (n : BitVec 12) (r : Word → Team → Team) => does (csrw n) n (fun e _ => e.g) r (fun _ k => k)
    let core := fun (i : Instr) (n : BitVec 12) (r : Word → Core → Core) => does i n (fun e _ => e.g) (fun _ x => x) r
    writes 0x001 (fun e v => { e.g with fpflg := e.g.fpflg &&& ~~~(v.setWidth 6) }) ∧
    writes 0x000 (fun e v =>
      if v &&& 0x3F1F = e.g.fpctl then e.g
      else { e.g with fpctl := v &&& 0x3F1F, repsig := nextSig e.g.repsig (v &&& 0x3F1F) }) ∧
    writes 0x021 (fun e v => { e.g with tepc := v &&& 0xFFFFFFF8 }) ∧
    writes 0x024 (fun e v => { e.g with tvec := (e.g.tvec &&& 0xFFFFFFFF00000000) ||| (v &&& 0xFFFFFFF8).setWidth 64 }) ∧
    writes 0x025 (fun e v => { e.g with tsave := (e.g.tsave &&& 0xFFFFFFFF00000000) ||| v.setWidth 64 }) ∧
    writes 0x050 (fun e v => { e.g with resmiss := v }) ∧
    writes 0x051 (fun e v => { e.g with cpyerr := e.g.cpyerr &&& ~~~(v.extractLsb' 16 8) }) ∧
    writes 0x071 (fun e v => { e.g with xdln := v.getLsbD 0 }) ∧
    writes 0x072 (fun e v => { e.g with scopeEn := v.getLsbD 1, scopeDem := e.g.scopeDem && !v.getLsbD 0 }) ∧
    -- fields that a written 1 clears, by the other two words
    writesBy (csrc 0x001) 0x001 (fun e v => { e.g with fpflg := e.g.fpflg &&& ~~~(v.setWidth 6) }) ∧
    writesBy (csrc 0x051) 0x051 (fun e v => { e.g with cpyerr := e.g.cpyerr &&& ~~~(v.extractLsb' 16 8) }) ∧
    writesBy (csrc 0x072) 0x072 (fun e v =>
      { e.g with scopeEn := e.g.scopeEn && !v.getLsbD 1, scopeDem := e.g.scopeDem && !v.getLsbD 0 }) ∧
    writesBy (csrs 0x001) 0x001 (fun e _ => e.g) ∧ writesBy (csrs 0x051) 0x051 (fun e _ => e.g) ∧
    writesBy (csrs 0x072) 0x072 (fun e v => { e.g with scopeEn := e.g.scopeEn || v.getLsbD 1 }) ∧
    -- a team's registers
    team 0x030 (fun v x => if v.setWidth 16 = 0#16 then x else { x with afnext := v.setWidth 16 }) ∧
    team 0x031 (fun v x => { x with aflive := v.setWidth 16 }) ∧
    team 0x040 (fun v x =>
      let sz := v.toNat / 2 ^ 28
      let base := v.toNat / 16 % 2 ^ 15 * 16
      if 12 < sz ∨ (sz ≠ 0 ∧ x.scratch < base + 16 * 2 ^ sz) then x
      else { x with frqSz := BitVec.ofNat 4 sz, frqBase := BitVec.ofNat 19 base, frqhd := 0, frqtl := 0 }) ∧
    team 0x041 (fun v x => { x with frqhd := v.setWidth 12 }) ∧
    -- a core's
    (∀ op ∈ [csrw, csrs, csrc], core (op 0x061) 0x061 (fun _ k => { k with stall := 0 }) ∧
      core (op 0x062) 0x062 (fun _ k => { k with tangc := 0 })) ∧
    core (csrw 0x070) 0x070 (fun v k => { k with xlate := v }) ∧
    core (csrw 0x095) 0x095 (fun v k => { k with wpctl := v }) ∧
    (∀ n, n < 4 → core (csrw (BitVec.ofNat 12 (0x091 + n))) (BitVec.ofNat 12 (0x091 + n)) (fun v k =>
      { k with wpa := k.wpa.set n ((k.wpa.getD n 0 &&& 0xFFFF00000000) ||| v.setWidth 48) }))

/-! ## Landings and grids -/

/-- Landings (R99, R100, R102, R334, R348, R352): the straggler time-out makes its trap due for every eligible group that has not
arrived; an engine acknowledges once every group has arrived and it has nothing left but for grids that are being removed (R349);
a landing takes place once all have, with nothing frozen; a restore that waits for a thaw takes its landing, and otherwise an
empty partition admits its waiting teams, in a C-phase at once and with no straggler count running, once each team that is over has
ended: the model's reading (logs 24 and 57). -/
def Obligations.LandingSteps : Prop :=
  (∀ (p : Fin 16), Happens (.stragglerTimeout p)
    (fun s => (s.part p.val).opened = true ∧ (s.part p.val).stragOn = true ∧ (s.part p.val).stragFired = false ∧
      s.noGroups (s.part p.val) = false ∧
      s.timeout p.val ≠ 0 ∧ s.timeout p.val ≤ (s.part p.val).strag)
    (fun s => ((s.part p.val).coreList.foldl (fun s' c => s'.modCore c (fun k => { k with groups := k.groups.map (fun o =>
        o.map (fun g => if s'.arrivedAt (s.part p.val) g || g.strag then g
          else g.makeDue { cause := Causes.straggler, info := BitVec.ofNat 64 (s.timeout p.val), lane := 0 })) })) s).modPart p.val
      (fun q => { q with stragFired := true }))) ∧
  (∀ (c : Fin 256) (x : Engine), Happens (.engineLandingAck c x)
    (fun s => s.allArrived (s.part (s.partOf c.val)) = true ∧ (s.present c.val).idle x = true ∧ x ∉ (s.present c.val).acks)
    (fun s => s.modCore c.val (fun k => { k with acks := k.acks ++ [x] }))) ∧
  (∀ (p : Fin 16) (s : State),
    ((s.part p.val).opened = false → exec (.landing p) s = .next s) ∧
    ((s.part p.val).opened = true → (s.part p.val).restoreReq = true → exec (.landing p) s = .next (s.tryRestore p.val)) ∧
    ((s.part p.val).opened = true → (s.part p.val).restoreReq = false →
      (s.canLand (s.part p.val) = true → exec (.landing p) s = .next (s.land p.val)) ∧
      (s.canLand (s.part p.val) = false → exec (.landing p) s = .next (s.admitWaiting p.val)))) ∧
  -- a partition with no resident group in a C-phase
  (∀ (p : Nat) (s : State), s.noGroups (s.part p) = true → (s.part p).isX = false →
    let u := s.modPart p (fun q => { q with preemptReq := false })
    (u.teamsWait p = false ∨ u.overLeft (s.part p) = true → s.admitWaiting p = u) ∧
    (u.teamsWait p = true → u.overLeft (s.part p) = false → s.admitWaiting p =
      (u.modPart p (fun q => { q with stragOn := false, strag := 0, stragFired := false })).placeAll p)) ∧
  (∀ (p : Fin 16) (s : State),
    (s.canLand (s.part p.val) = true → s.allArrived (s.part p.val) = true ∧
      (∀ i ∈ (s.part p.val).clusterList, (s.cluster i).frozen = false) ∧
      (∀ c ∈ (s.part p.val).coreList, ∀ x, (s.present c).idle x = true) ∧
      (∀ c ∈ (s.part p.val).coreList, ∀ i g, (s.present c).group i = some g → ∀ x, x ∈ (s.present c).acks)))

/-- A landing advances the partition's `PHCNT` by one (R17, R100), empties its cores' write queues (R227) and buffers of atomics
(R230), and clears the arrivals of the groups that stay (R100). That every landing, and not only one after a change of
translations, also clears the TLBs and last-page registers (R213) is the model's choice (log 17). -/
def Obligations.LandingAdvances : Prop :=
  ∀ (p : Fin 16) (s t : State), s.shaped = true → s.canLand (s.part p.val) = true → (s.part p.val).restoreReq = false →
    exec (.landing p) s = .next t →
    (t.part p.val).phcnt = (s.part p.val).phcnt + 1 ∧
    (∀ q, q ≠ p.val → (t.part q).phcnt = (s.part q).phcnt) ∧
    (∀ c ∈ (s.part p.val).coreList, c < 256 → (t.core c).atoms = [] ∧ (t.core c).tlb = [] ∧ (t.core c).lastPage = [] ∧
      ∀ i g, (t.core c).group i = some g → g.wq = [] ∧ g.arrived = false)

/-- The command processor (R92-R94, R96, R98, R113, R156): a queue with nothing of its last entry left takes the next node; a
ready node's record is checked, and launches or faults; a finished hash makes the grid wait; a finished grid retires with
its result, everything of it being visible (R331), a last team that is over ending with it (log 24).
That ring, node, record and RESADDR are host addresses is the model's reading (log 42). -/
def Obligations.CommandSteps : Prop :=
  (∀ (q : Fin 64), Happens (.nodeTake q)
    (fun s => s.queueRuns q.val = true ∧ (s.queue q.val).ready = [] ∧ s.queueBusy q.val = false ∧
      (s.queue q.val).head ≠ (s.queue q.val).tail)
    (fun s => s.modQueue q.val (fun x => { x with head := x.head + 1
                                                  ready := [Memory.dword s.host (x.base.toNat + 8 * (x.head.toNat % 2 ^ x.size.toNat))] }))) ∧
  (∀ (q : Fin 64) (i : Nat) (s : State) (node : Dword), s.queueRuns q.val = true → (s.queue q.val).ready[i]? = some node →
    let s1 := s.modQueue q.val (fun x => { x with ready := x.ready.eraseIdx i })
    let lrec := Memory.dword s.host node.toNat
    let sub := s1.submit ((s.queuePart q.val).getD 0) (some (Memory.bytes s.host lrec.toNat 256)) lrec
      (Memory.nat s.host (node.toNat + 0x0A) 2 != 0) node q.val none 1 10
    (∀ c, sub = .error c → exec (.nodeLaunch q i) s = .next ((s1.nodeState node 3 c).stopQueue q.val)) ∧
    (∀ s2, sub = .ok s2 → exec (.nodeLaunch q i) s =
      .next ((s2.nodeState node 1 0).setDepcnt node.toNat (Memory.nat s.host (node.toNat + 8) 2)))) ∧
  (∀ (id : Nat) (s : State) (x : Grid), s.grid? id = some x →
    (x.phase = .hashing → exec (.repsigHashComplete id) s = .next ((s.modGrid id (fun g => { g with phase := .waiting })).admitWaiting x.part)) ∧
    (x.phase ≠ .hashing → exec (.repsigHashComplete id) s = .next s) ∧
    (s.finished x = true →
      let result : Word := if x.posted then x.result else 0xF
      let put := fun (a : Nat) (t : State) => { t with host := Memory.store t.host a (leBytes 4 result.toNat) }
      let done := (s.part x.part).coreList.flatMap (fun c => ((s.core c).teamList.filter (fun y => y.2.grid == x.id && y.2.ending &&
        ((s.core c).teamSlots y.1).isEmpty && !(s.core c).teamBusy y.1)).map (fun y => (c, y.1)))
      let s1 := (done.foldl (fun t y => t.endTeam y.1 y.2) (s.flush x)).dropGrid id
      let s2 := if x.lrec.resaddr = 0 then s1 else put x.lrec.resaddr.toNat s1
      exec (.gridRetire id) s = .next (if x.parent.isSome then s2.endChild x result true
        else ((put (x.node.toNat + 0x30) s2).nodeState x.node 2 0).releaseAll x.queue x.node result)) ∧
    (s.finished x = false → exec (.gridRetire id) s = .next s))

/-- Pre-emption, restore, removal and reset (R348, R349, R352, R353): each acts where its rule lets it. A restore does nothing
unless an image is saved and the partition is idle, and waits for a thaw as any landing (R334); its landing loads the image, the
phase count with it. Which image a restore may load is the model's reading (log 14), and so is what a reset clears besides (log
47). -/
def Obligations.ContextSteps : Prop :=
  ∀ (p : Fin 16),
    let idle := fun (s : State) => (∀ g ∈ s.grids, g.part = p.val → g.phase ≠ .resident) ∧ s.noGroups (s.part p.val) = true ∧
      ∀ c ∈ (s.part p.val).coreList, (s.core c).teamList = []
    let asks := fun (on : Bool) (s : State) => s.modPart p.val (fun q => { q with restoreReq := on })
    Happens (.preempt p) (fun s => (s.part p.val).opened = true ∧ s.noGroups (s.part p.val) = false)
      (fun s => s.modPart p.val (fun q => { q with preemptReq := true, stragOn := true })) ∧
    (∀ s : State, (s.part p.val).opened = false → exec (.restore p) s = .next s) ∧
    (∀ s : State, (s.part p.val).opened = true → ¬ idle s ∨ (s.part p.val).restorable = none →
      exec (.restore p) s = .next (asks false s)) ∧
    (∀ img, ∀ s : State, (s.part p.val).opened = true → idle s → (s.part p.val).restorable = some img →
      (s.anyFrozen (s.part p.val) = true → exec (.restore p) s = .next (asks true s)) ∧
      (s.anyFrozen (s.part p.val) = false → exec (.restore p) s = .next (s.loadImage p.val img) ∧
        (s.shaped = true → ∃ t, exec (.restore p) s = .next t ∧
          (t.part p.val).phcnt = Memory.dword (s.readImage (s.part p.val) (8 * (s.part p.val).first)) 8 ∧
          (t.part p.val).hasImage = false ∧ (t.part p.val).held = false ∧ (t.part p.val).restoreReq = false))) ∧
    (∀ s : State, ∀ img, (s.part p.val).restorable = some img ↔ (s.part p.val).hasImage = true ∧
      (s.part p.val).key.isSome = true ∧ ((s.part p.val).ctxtier = 1 ∨ (s.part p.val).ctxtier = 2) ∧
      (s.part p.val).image = some img ∧ img.gen = (s.part p.val).gen) ∧
    Happens (.remove p) (fun s => (s.part p.val).opened = true)
      (fun s => (((s.thawPart (s.part p.val)).removeAll p.val [.hashing, .waiting, .resident]).modPart p.val (fun q =>
        { q with removeReq := true })).settlePart p.val) ∧
    (∀ (id : Nat), Happens (.contextRemovalComplete id) (fun s => ∃ x, s.grid? id = some x ∧ x.phase = .removing)
      (fun s => (s.finishRemoval (s.grid id)).settlePart (s.grid id).part)) ∧
    (∀ s : State, (s.part p.val).opened = false → exec (.reset p) s = .next s) ∧
    (∀ s : State, s.shaped = true → (s.part p.val).opened = true → ∃ t, exec (.reset p) s = .next t ∧
      (t.part p.val).phcnt = 0 ∧ (t.part p.val).hasImage = false ∧ (t.part p.val).image = none ∧
      (t.part p.val).preemptReq = false ∧ (t.part p.val).removeReq = false ∧ (t.part p.val).restoreReq = false ∧
      (∀ c ∈ (s.part p.val).coreList, c < 256 → t.core c = Core.reset) ∧
      (∀ c ∈ (s.part p.val).clusterList, c < 32 → t.cluster c = Cluster.reset) ∧
      -- closed, where a cluster was fenced
      (if (t.part p.val).closed = true then
        (t.part p.val).opened = false ∧ (t.part p.val).key = none ∧ (t.part p.val).ncl = 0 ∧
        ∃ k ∈ (s.part p.val).clusterList, k < 32 → t.fenced.getLsbD k = true
      else (t.part p.val).opened = true ∧ (t.part p.val).key = (s.part p.val).key ∧ t.fenced = s.fenced))

/-! ## The host, the debugger and the package -/

/-- The management controller, the host and the debugger (R5, R25, R353, R354, R356, R375, R378, R380): partitions open on free,
unfenced clusters and queues with a new key and the next generation, and closing ends their grids and discards key and image
(what opening and closing do to storage is the model's choice, log 6); an update takes a verified image in an idle partition. A
register field of access RW reads back what was written, one of access RO or HS ignores a write, a reserved bit reads zero, the
queue registers outside QMASK read zero and ignore writes, and every other register reads as before; EN written 1 ends a queue's
stop. Freezing and thawing act on a cluster, once; STEP and SGRP take what is written; the window reads and writes the selected
state of a core of the partition while its cluster is frozen, a debug register at any time, and is shut otherwise: a read
returns all ones, a write is ignored. What a freeze and a thaw do to HIT, WP, SKID and STEP, that a second freeze changes
nothing, that a STEP written with no freeze stands and that what comes before a word leaves STEP set are the model's readings
(log 22), and that EN moves by QUEUE_ENABLE alone is its choice (log 68). -/
def Obligations.ControllerSteps : Prop :=
  (∀ (p : Fin 16) (first : Fin 32) (ncl : Fin 33) (queues : BitVec 64) (tenant : Bool) (q : Fin 64) (en ok : Bool) (version : Nat)
    (addr : BitVec 16) (val : BitVec 64),
    Happens (.partitionOpen p first ncl queues tenant)
      (fun s => s.canOpen p.val first.val ncl.val queues = true) (fun s => s.openPart p.val first.val ncl.val queues tenant) ∧
    (∀ s : State, s.shaped = true → s.canOpen p.val first.val ncl.val queues = true →
      let t := s.openPart p.val first.val ncl.val queues tenant
      (t.part p.val).opened = true ∧ (t.part p.val).phcnt = 0 ∧ (t.part p.val).gen = (s.part p.val).gen + 1 ∧
      (t.part p.val).key.isSome = true ∧ (t.part p.val).qmask = queues ∧
      (∀ c ∈ (t.part p.val).coreList, c < 256 → t.core c = Core.reset)) ∧
    Happens (.partitionClose p) (fun s => (s.part p.val).opened = true)
      (fun s => (s.removeNow p.val).modPart p.val (fun q =>
        { q with opened := false, key := none, first := 0, ncl := 0, image := none, hasImage := false, apLeaves := [] })) ∧
    Happens (.partitionUpdate p version ok)
      (fun s => (s.part p.val).opened = true ∧ ok = true ∧ s.partIdle p.val = true)
      (fun s => s.modPart p.val (fun q => { q with cpImage := version })) ∧
    Happens (.queueEnable p q en)
      (fun s => ((s.part p.val).opened = true ∨ (s.part p.val).closed = true) ∧ (s.part p.val).qmask.getLsbD q.val = true)
      (fun s => s.modQueue q.val (fun x => { x with en := en, stop := x.stop && !en })) ∧
    (∀ s : State, (s.part p.val).opened = false → (s.part p.val).closed = false →
      exec (.registerWrite (.partition p) addr val) s = .next s) ∧
    (∀ s : State, s.power = false ∨ s.recov = true → exec (.registerWrite .device addr val) s = .next s)) ∧
  -- a partition's registers
  (∀ (p : Fin 16) (addr : BitVec 16) (val : BitVec 64) (s : State), s.shaped = true →
    (s.part p.val).opened = true ∨ (s.part p.val).closed = true →
    let a := addr.toNat
    ∃ t, exec (.registerWrite (.partition p) addr val) s = .next t ∧
      let took := fun (mask : Dword) => t.partRead p.val a = val &&& mask
      (a = 0x10 → took 0x000FFFFFFFFFF000) ∧ (a = 0x18 → took 0xC000FFFFFFE00000) ∧ (a = 0x20 → took 0x00000000FFFFFFFF) ∧
      (a = 0x30 → took 0x000000FFFFFFFFFF) ∧ (a = 0x08 ∨ a = 0x28 → t = s) ∧
      (∀ q, q < 64 → ((s.part p.val).qmask.getLsbD q = true →
          (a = 0x1000 + 0x40 * q → took 0xFFFFFFFFFFFFFFFF) ∧ (a = 0x1008 + 0x40 * q → took 0xF0F) ∧
          (a = 0x1018 + 0x40 * q → took 0xFFFFFFFF) ∧ (a = 0x1010 + 0x40 * q ∨ a = 0x1020 + 0x40 * q → t = s)) ∧
        (∀ r, r < 0x40 → (s.part p.val).qmask.getLsbD q = false → a = 0x1000 + 0x40 * q + r → t = s ∧ s.partRead p.val a = 0)) ∧
      (∀ b, b ≠ a → t.partRead p.val b = s.partRead p.val b)) ∧
  -- the device's registers
  (∀ (addr : BitVec 16) (val : BitVec 64) (s : State), s.power = true → s.recov = false →
    let a := addr.toNat
    ∃ t, exec (.registerWrite .device addr val) s = .next t ∧
      let took := fun (mask : Dword) => t.deviceRead a = val &&& mask
      (a = 0x100 ∨ a = 0x108 → took 0xFFFFFFFFFFFFFFFF) ∧ (∀ n, n < 256 → a = 0x300 + 2 * n → took 0xFFF) ∧
      (∀ q n, q < 16 → n < 256 → a = 0x1000 + 0x100 * q + n → took 0x8F) ∧
      (a = 0x00 ∨ a = 0x08 ∨ a = 0x10 ∨ a = 0x110 ∨ (0x200 ≤ a ∧ a < 0x260) → t = s) ∧
      (∀ b, b ≠ a → t.deviceRead b = s.deviceRead b)) ∧
  -- freezing, thawing and stepping
  (∀ (c : Fin 256) (i : Fin 16) (s : State), s.shaped = true →
    let cl := c.val / 8
    ((s.cluster cl).frozen = true → exec (.debugFreeze c) s = .next s) ∧
    ((s.cluster cl).frozen = false → ∃ t, exec (.debugFreeze c) s = .next t ∧
      t.cluster cl = { s.cluster cl with frozen := true, skidUntil := s.clock + 16 } ∧
      (∀ k, k ≠ cl → t.cluster k = s.cluster k) ∧
      (∀ k, k / 8 = cl → t.core k = { s.core k with groups := (s.core k).groups.map (fun o => o.map (fun g =>
        { g with gskHit := false, gskWp := 0, gskSkid := 0 })) }) ∧
      (∀ k, k / 8 ≠ cl → t.core k = s.core k)) ∧
    (∃ t, exec (.debugThaw c) s = .next t ∧ t.cluster cl = { s.cluster cl with frozen := false, skidUntil := 0 } ∧
      (∀ k, k ≠ cl → t.cluster k = s.cluster k) ∧
      (∀ k, k / 8 = cl → t.core k = { s.core k with step := false }) ∧ (∀ k, k / 8 ≠ cl → t.core k = s.core k)) ∧
    exec (.debugStep c i) s = .next (s.modCore c.val (fun k => { k with sgrp := BitVec.ofNat 4 i.val, step := true }))) ∧
  -- a clock in which STEP lets its group go: its word issues and STEP clears, or what comes before the word happens and STEP stays
  (∀ (c sched slot split : Nat) (stalled : BitVec 16) (s : State), s.stepChoice c sched = some (slot, split) →
    (s.cluster (c / 8)).frozen = true ∧ (s.core c).step = true ∧ (s.core c).sgrp.toNat = slot ∧ slot / 4 = sched ∧
    (s.issues c slot split = true → s.issue c sched stalled = (s.modCore c (fun k => { k with
      step := false, stepb := blocked c slot (s.attempt c slot split) })).attempt c slot split) ∧
    (s.issues c slot split = false → s.issue c sched stalled = s.attempt c slot split)) ∧
  -- the debug window
  (∀ (p : Fin 16) (val : BitVec 64) (s : State) (k : Nat), (s.part p.val).opened = true →
    (s.part p.val).dcore.toNat < 8 * (s.part p.val).ncl → k = 8 * (s.part p.val).first + (s.part p.val).dcore.toNat →
    let q := s.part p.val
    let n := q.didx.toNat
    let put := fun (v : Dword) => s.modPart p.val (fun q => { q with ddata := v })
    let reads := fun (v : Dword) => exec (.debugWindowRead p) s = .next (put v)
    let writes := fun (f : State → State) => exec (.debugWindowWrite p val) s = .next (f (put val))
    let frozen := (s.cluster (k / 8)).frozen = true
    let debugReg := q.dkind = 0 ∧ 0x091 ≤ n ∧ n ≤ 0x096
    (¬ frozen → ¬ debugReg → reads 0xFFFFFFFFFFFFFFFF ∧ exec (.debugWindowWrite p val) s = .next s) ∧
    (frozen ∨ debugReg → q.dkind = 0 → n < 4096 → (csrWidth (BitVec.ofNat 12 n)).isSome = true →
      reads (s.csr k q.dslot.toNat n) ∧
      (n ≠ 0x096 → writes (fun t => t.putCsr k q.dslot.toNat n .write val 0xFFFFFFFFFFFFFFFF))) ∧
    (q.dkind = 0 → n = 0x096 → s.shaped = true → k < 256 → ∃ t, exec (.debugWindowWrite p val) s = .next t ∧
      (t.cluster (k / 8)).frozen = val.getLsbD 0 ∧ (t.core k).wpact = val.getLsbD 1 ∧ (t.core k).brkf = val.getLsbD 2 ∧
      (t.core k).step = val.getLsbD 4 ∧ (t.core k).sgrp = val.extractLsb' 5 4) ∧
    (frozen → q.dkind = 1 → ∀ g, s.group k q.dslot.toNat = some g → n / 32 % 256 < g.nregs →
      reads (((s.core k).readV q.dslot.toNat g (n / 32 % 256) (n % 32)).setWidth 64) ∧
      writes (fun t => t.writeV k q.dslot.toNat [(n / 32 % 256, n % 32, val.setWidth 32)])) ∧
    (frozen → q.dkind = 2 → n < 24 → ∀ g, s.group k q.dslot.toNat = some g →
      reads ((g.scalar n).setWidth 64) ∧ writes (fun t => t.modGroup k q.dslot.toNat (fun g => g.setScalar n (val.setWidth 32)))) ∧
    (frozen → q.dkind = 3 → 4 * n < 0x80000 →
      reads ((Memory.word (s.core k).sp (4 * n)).setWidth 64) ∧
      let put := fun (m : Memory) => Memory.store m (4 * n) (leBytes 4 (val.toNat % 2 ^ 32))
      writes (fun t => t.modCore k (fun c => { c with sp := put c.sp, shownSp := c.shownSp.map put }))))

/-- Links (R322-R326, R374, R375, R377): a flit acts on a trained link, and the puts that its payload carries are staged where
they lie mapped and find lines in the pool; a retry resends from the named flit on and counts; outside recovery training starts
a link afresh, and the twelfth link tried completes bring-up; a pairing entry is taken from the package it comes from. A flit
whose CRC fails is discarded and a retry asked for; one of an unknown kind is discarded (R325). A put staged is numbered in the
order of arrival, and a training numbers the streams that start on the link (R374). Data given to a link goes in order, at most
240 bytes a flit, and an acknowledgement ends with the flit that it names. That a trained link starts with every number zero and
nothing outstanding, and in what form a payload carries a put, are the model's choices (log 32). -/
def Obligations.LinkSteps : Prop :=
  (∀ (l : Fin 12) (flit : BitVec 2048) (seq : BitVec 12) (trained : Bool) (peer pkg : BitVec 8) (q p : Fin 16) (pen : Bool),
    Happens (.flitReceive l flit) (fun s => (s.link l.val).up = true)
      (fun s =>
        let s1 := s.modLink l.val (fun x => x.receive (parseFlit flit))
        (((s1.link l.val).delivered.drop (s.link l.val).delivered.length).filterMap linkPutOf).foldl State.stagePut s1) ∧
    (∀ (s : State) (i : Nat), (s.link l.val).up = true → (s.link l.val).unacked.findIdx? (fun x => x.1 == seq) = some i →
      let fs := ((s.link l.val).unacked.drop i).map (fun x => x.2.2)
      exec (.retryRequest l seq) s = .next { s.modLink l.val (fun x => { x with resent := fs }) with
        retry := BitVec.ofNat 32 (min 0xFFFFFFFF (s.retry.toNat + fs.length)) }) ∧
    (∀ s : State, (s.link l.val).up = false ∨ (s.link l.val).unacked.findIdx? (fun x => x.1 == seq) = none →
      exec (.retryRequest l seq) s = .next s) ∧
    Happens (.linkTraining l trained peer) (fun s => s.power = true ∧ s.recov = false)
      (fun s =>
        let s1 := { s.modLink l.val (fun _ =>
            if trained then { Link.reset with up := true, peer := peer, stream := s.nextId } else Link.reset) with
          tried := s.tried ||| (1#12 <<< l.val), nextId := s.nextId + 1 }
        { s1 with vfs := s.vfs || (s.cpGood && decide (s1.tried = 0xFFF)) }) ∧
    Happens (.pairingExchange pkg q p pen) (fun s => ∃ x ∈ s.links, x.up = true ∧ x.peer = pkg)
      (fun s => { s with peerPair := Store.write s.peerPair (pkg.toNat * 16 + p.val) (BitVec.ofNat 8 (q.val + if pen then 128 else 0)) })) ∧
  (∀ (l : Link) (f : Flit),
    (f.good = false → l.receive f = { l with retryAsked := some l.rxNext }) ∧
    (f.good = true → 3 < f.kind → l.receive f = l) ∧
    (l.receive f).delivered.length ≤ l.delivered.length + 1 ∧
    ((l.receive f).delivered ≠ l.delivered → f.good = true ∧ f.kind = 1 ∧ f.seq = l.rxNext)) ∧
  (∀ (s : State) (x : LinkPut),
    (s.putMapped x = false ∨ (s.cluster (s.putCluster x)).roomFor x.part (s.putLines x) = false → s.stagePut x = s) ∧
    (s.shaped = true → s.putCluster x < 32 → s.putMapped x = true →
      (s.cluster (s.putCluster x)).roomFor x.part (s.putLines x) = true →
      ((s.stagePut x).cluster (s.putCluster x)).linkPuts =
        (s.cluster (s.putCluster x)).linkPuts ++ [{ x with arrival := s.nextId }] ∧
      (s.stagePut x).nextId = s.nextId + 1 ∧ { s.stagePut x with clusters := s.clusters, nextId := s.nextId } = s)) ∧
  -- what a link is given, and what of it has been acknowledged
  (∀ (l : Link) (bs : List Byte), bs ≠ [] →
    let n := (bs.length + 239) / 240
    (l.send bs).queued = l.queued + n ∧ (l.send bs).stream = l.stream ∧
    (l.send bs).txq.length + (l.send bs).unacked.length = l.txq.length + l.unacked.length + n ∧
    ((l.send bs).unacked.map (fun x => x.2.1) ++ (l.send bs).txq).flatten = (l.unacked.map (fun x => x.2.1) ++ l.txq).flatten ++ bs) ∧
  (∀ (l : Link) (ack : BitVec 12) (i : Nat), l.unacked.findIdx? (fun x => x.1 == ack) = some i →
    (l.acked ack).queued = l.queued ∧
    (l.acked ack).txq.length + (l.acked ack).unacked.length + (i + 1) = l.txq.length + l.unacked.length)

/-- Power, bring-up, throttling, scrubbing and errors (R370, R371, R373, R375, R377-R382): power-on brings the device up with its
failed cores repaired or their clusters fenced and the second tier that its ports make, or into recovery; an uncorrectable error is
recorded, leaves its unit zero and a word's destinations zero, and makes the trap due or ends the grid. How bring-up and errors
come about, and the unit and TINFO of an error, are the model's reading (log 33). The SPDM responder (R376): a request before its
turn answers an error; in turn it answers what the rule gives and the connection moves on. The error answers, signatures, digests
and nonces are the model's choices (log 7). -/
def Obligations.PackageSteps : Prop :=
  (∀ (v : Nat) (good fw cp up corr : Bool) (flash : Option (Nat × Bool)) (pkg : BitVec 8) (failed : List (Fin 288)) (ports : List Nat)
    (place : DataPlace) (victim : ErrorVictim),
    Happens .powerOff (fun s => s.power = true) State.unpowered ∧
    (∀ s : State, s.power = true → exec (.powerOn flash cp pkg failed ports) s = .next s) ∧
    -- the firmware that bring-up checks: one that the host has put into flash, or the one that was there
    (∀ s : State, s.power = false → (flash = some (v, good) ∨ flash = none ∧ v = s.fwVersion ∧ good = s.fwGood) →
      (good = true → s.rollback ≤ v → exec (.powerOn flash cp pkg failed ports) s = .next { s.unpowered with
        power := true, fwVersion := v, fwGood := good, fenced := fencedAt failed, pkgnum := pkg, cpGood := cp
        spares := (List.range 32).filter (fun k => failedCores failed k == 0)
        failMap := failed.eraseDups.map (fun f => f.val), tierSize := tierFrom ports }) ∧
      (good = false ∨ v < s.rollback →
        exec (.powerOn flash cp pkg failed ports) s = .next { s.unpowered with
          power := true, fwVersion := v, fwGood := good, recov := true })) ∧
    (∀ n gb, 0 < n → tierFrom (List.replicate n gb) =
      if (n = 1 ∨ n = 2 ∨ n = 4 ∨ n = 8) ∧ gb ≤ 128 then n * gb * 2 ^ 30 else 0) ∧
    (∀ x ∈ ports, ∀ y ∈ ports, x ≠ y → tierFrom ports = 0) ∧ tierFrom [] = 0 ∧
    Happens (.recoveryImageWrite v fw) (fun s => s.power = true ∧ s.recov = true) (fun s => { s with fwVersion := v, fwGood := fw }) ∧
    Happens (.thermalThrottle up) (fun s => s.power = true)
      (fun s => { s with throttle := if up then s.throttle - 1 else min 15 (s.throttle + 1) }) ∧
    Happens .thermalShutdown (fun s => s.power = true) (fun s => ((List.range 16).foldl State.removeNow s).unpowered) ∧
    (∀ s : State, s.power = true → ∃ t, exec (.scrub place corr) s = .next t ∧ { t with vce := s.vce, sce := s.sce } = s ∧
      (corr = false → t = s)) ∧
    (∀ s : State, s.power = false → exec (.uncorrectableError place victim) s = .next s ∧ exec (.scrub place corr) s = .next s) ∧
    (∀ s : State, s.power = true → s.shaped = true → ∃ t, exec (.uncorrectableError place victim) s = .next t ∧
      t.ue = BitVec.ofNat 32 (min 0xFFFFFFFF (s.ue.toNat + 1)) ∧ t.ueKind = placeKind place ∧
      t.ueCore = BitVec.ofNat 8 (placeCore place victim) ∧ t.ueAddr = BitVec.ofNat 48 (placeAddr place) ∧
      -- the unit is zero, and every other cell of its memory reads as before
      (match place with
        | .vault c o => ∀ x, Store.read (t.core c.val).vault x = if x / 32 = o.toNat / 32 then 0 else Store.read (s.core c.val).vault x
        | .scratch c o => ∀ x, Store.read (t.core c.val).sp x = if x / 8 = o.toNat / 8 then 0 else Store.read (s.core c.val).sp x
        | .register c i => ∀ x, x / 2 = i.toNat / 2 → Store.read (t.core c.val).regs x = 0
        | .accum c i => ∀ x, Store.read (t.core c.val).acc x = if x / 2 = i.toNat / 2 then 0 else Store.read (s.core c.val).acc x
        | .plane c i => ∀ x, Store.read (t.core c.val).planes x =
            if x / 2 = i.toNat / 2 then 0 else Store.read (s.core c.val).planes x
        | .slice k o => o.toNat < 0x400000 → ∀ x, Store.read (t.cluster k.val).prog x =
            if x / 8 = o.toNat / 8 then 0 else Store.read (s.cluster k.val).prog x
        | .tier a => ∀ x, Store.read t.tier x = if x / 64 = a.toNat / 64 then 0 else Store.read s.tier x) ∧
      (let isDue := fun (lane : Nat) (g g' : Group) => g'.due = (g.makeDue {
         cause := Causes.uncorrectableData, info := BitVec.ofNat 64 (placeAddr place / 0x10000), lane := lane }).due
       match victim with
        | .word c i dsts preds idxs lanes => ∀ g, s.group c.val i.val = some g → ∃ g', t.group c.val i.val = some g' ∧
            isDue (LaneMask.lowest lanes) g g' ∧
            (∀ k ∈ idxs, ∀ l, lanes.getLsbD l = true → g'.idxReg k.val l = 0) ∧
            (∀ n l, Reg.v n ∈ dsts → lanes.getLsbD l = true → n.val < g'.nregs → (t.core c.val).readV i.val g' n.val l = 0) ∧
            (∀ n, Reg.s n ∈ dsts → g'.scalar n.val = 0) ∧
            (∀ q ∈ preds, q.val ≠ 0 → ∀ l, lanes.getLsbD l = true → (g'.pred q.val).getLsbD l = false)
        | .engine c i => ∀ g, s.group c.val i.val = some g → ∃ g', t.group c.val i.val = some g' ∧ isDue 0 g g'
        | .saved id => ∀ g ∈ s.grids, g.id = id → g.phase ≠ .removing → ∃ g' ∈ t.grids, g'.id = id ∧ g'.phase = .removing ∧
            g'.remState = 4 ∧ g'.remCode = Causes.uncorrectableData))) ∧
  (∀ (ecdsa sha sign : Bool) (slot : Fin 8) (off len : BitVec 16) (nonce : BitVec 256) (index : BitVec 8) (s : State),
    s.power = true →
    let answers := fun (i : Instr) (need : Nat) (stage : Nat) (a : SpdmAnswer) (draws : Nat) =>
      exec i s = .next (if s.spdm.stage < need then { s with spdm := { s.spdm with answer := .error } }
        else { s with spdm := { stage := stage, answer := a }, free := s.free + draws })
    answers .getVersion 0 1 (.version 1 2) 0 ∧
    answers .getCapabilities 1 2 (.capabilities false) 0 ∧
    answers (.negotiateAlgorithms ecdsa sha) 2 (if ecdsa && sha then 3 else 2)
      (if ecdsa && sha then .algorithms true true else .error) 0 ∧
    answers .getDigests 3 3 (.digests [digestOf Config.certChain]) 0 ∧
    answers (.getCertificate slot off len) 3 3
      (if slot.val = 0 then .certificate 0 off.toNat ((Config.certChain.drop off.toNat).take len.toNat) else .error) 0 ∧
    answers (.challenge slot nonce) 3 3
      (if slot.val = 0 then .challengeAuth 0 (Config.freeNonce s.free) s.signature else .error) (if slot.val = 0 then 1 else 0) ∧
    answers (.getMeasurements index sign nonce) 3 3
      (match s.blocks index.toNat with
        | none => .error
        | some bs => .measurements bs (Config.freeNonce s.free) (if sign then some s.signature else none))
      (if (s.blocks index.toNat).isSome then 1 else 0))

/-! ## Reset and invariants -/

/-- Reset (R353, R354, R375): no partition is open and nothing is resident, every phase count and register that the rules reset
is zero, and queues are off with class 1. That all storage of the cores reads zero is log 1, that host and second-tier memory do
is log 5, and that the state after bring-up stands for reset is log 6: the model's choices. -/
def Obligations.ResetState : Prop :=
  let s := State.reset
  s.grids = [] ∧ s.host = [] ∧ s.tier = [] ∧ s.power = true ∧ s.recov = false ∧
  (∀ p, p < 16 → (s.part p).opened = false ∧ (s.part p).phcnt = 0 ∧ (s.part p).hasImage = false ∧ (s.part p).key = none) ∧
  (∀ q, q < 64 → (s.queue q).en = false ∧ (s.queue q).qclass = 1 ∧ (s.queue q).head = 0 ∧ (s.queue q).tail = 0) ∧
  (∀ c, c < 256 → (s.core c).regs = [] ∧ (s.core c).sp = [] ∧ (s.core c).vault = [] ∧ (s.core c).acc = [] ∧
    (s.core c).groupList = [] ∧ (s.core c).teamList = [] ∧ (s.core c).mowner = none) ∧
  s.vce = 0 ∧ s.sce = 0 ∧ s.ue = 0 ∧ s.retry = 0

/-- The lists of the reset device have their sizes, and its memories are in canonical form. -/
def Obligations.ResetMeetsInvariants : Prop :=
  (State.reset.shaped = true) ∧
  (State.reset.canonical = true)

/-- Every step keeps the sizes of the lists that stand for the device's parts and registers (R9-R11, R61-R63, R75). -/
def Obligations.StepKeepsShaped : Prop :=
  ∀ s t : State, s.shaped = true → step s = .next t → t.shaped = true

/-- Every step keeps every byte memory and register file in canonical form (the model's own representation, log 5). -/
def Obligations.StepKeepsCanonical : Prop :=
  ∀ s t : State, s.canonical = true → step s = .next t → t.canonical = true

/-- `p0` reads true in every lane and a write of it is discarded (R63); constants read as R62 gives them and a write of one
changes nothing (R61). -/
def Obligations.HardwiredRegisters : Prop :=
  (∀ (g : Group) (m v : LaneMask), g.pred 0 = 0xFFFFFFFF ∧ g.setPred 0 m v = g) ∧
  (∀ (e : Env) (n : Fin 16) (f : Nat → Word) (s : State), e.wr (.c n) f s = s) ∧
  (∀ (e : Env) (l : Nat), (List.range 16).map (fun n => e.rd (.c (Fin.ofNat 16 n)) l) =
    [0x00000000, 0x00000001, 0xFFFFFFFF, 0x3F800000, 0xBF800000, 0x3F000000, 0x40000000, 0x7F800000, 0xFF800000, 0x7FC00000,
     0x80000000, 0x7FFFFFFF, 0x3C003C00, 0x3F317218, 0x3FB8AA3B, 0x40490FDB])
end

