-- ==== Sys2Proof/Laws/State.lean ====
section
/-! SUPPORT. One lemma per field per update of the device, and what each accessor reads after each update. -/

namespace Sys2Proof.Machine

open Sys2Proof

/-! ## The device's fields after an update of one of them -/

@[simp] theorem setCore_clock (s : State) (c : Nat) (k : Core) : (s.setCore c k).clock = s.clock := rfl
@[simp] theorem setCore_agenda (s : State) (c : Nat) (k : Core) : (s.setCore c k).agenda = s.agenda := rfl
@[simp] theorem setCore_free (s : State) (c : Nat) (k : Core) : (s.setCore c k).free = s.free := rfl
@[simp] theorem setCore_cur (s : State) (c : Nat) (k : Core) : (s.setCore c k).cur = s.cur := rfl
@[simp] theorem setCore_host (s : State) (c : Nat) (k : Core) : (s.setCore c k).host = s.host := rfl
@[simp] theorem setCore_tier (s : State) (c : Nat) (k : Core) : (s.setCore c k).tier = s.tier := rfl
@[simp] theorem setCore_clusters (s : State) (c : Nat) (k : Core) : (s.setCore c k).clusters = s.clusters := rfl
@[simp] theorem setCore_parts (s : State) (c : Nat) (k : Core) : (s.setCore c k).parts = s.parts := rfl
@[simp] theorem setCore_queues (s : State) (c : Nat) (k : Core) : (s.setCore c k).queues = s.queues := rfl
@[simp] theorem setCore_grids (s : State) (c : Nat) (k : Core) : (s.setCore c k).grids = s.grids := rfl
@[simp] theorem setCore_nextId (s : State) (c : Nat) (k : Core) : (s.setCore c k).nextId = s.nextId := rfl
@[simp] theorem setCore_power (s : State) (c : Nat) (k : Core) : (s.setCore c k).power = s.power := rfl
@[simp] theorem setCore_recov (s : State) (c : Nat) (k : Core) : (s.setCore c k).recov = s.recov := rfl
@[simp] theorem setCore_vfs (s : State) (c : Nat) (k : Core) : (s.setCore c k).vfs = s.vfs := rfl
@[simp] theorem setCore_tried (s : State) (c : Nat) (k : Core) : (s.setCore c k).tried = s.tried := rfl
@[simp] theorem setCore_cpGood (s : State) (c : Nat) (k : Core) : (s.setCore c k).cpGood = s.cpGood := rfl
@[simp] theorem setCore_tierSize (s : State) (c : Nat) (k : Core) : (s.setCore c k).tierSize = s.tierSize := rfl
@[simp] theorem setCore_pkgnum (s : State) (c : Nat) (k : Core) : (s.setCore c k).pkgnum = s.pkgnum := rfl
@[simp] theorem setCore_fenced (s : State) (c : Nat) (k : Core) : (s.setCore c k).fenced = s.fenced := rfl
@[simp] theorem setCore_vce (s : State) (c : Nat) (k : Core) : (s.setCore c k).vce = s.vce := rfl
@[simp] theorem setCore_sce (s : State) (c : Nat) (k : Core) : (s.setCore c k).sce = s.sce := rfl
@[simp] theorem setCore_retry (s : State) (c : Nat) (k : Core) : (s.setCore c k).retry = s.retry := rfl
@[simp] theorem setCore_ue (s : State) (c : Nat) (k : Core) : (s.setCore c k).ue = s.ue := rfl
@[simp] theorem setCore_ueKind (s : State) (c : Nat) (k : Core) : (s.setCore c k).ueKind = s.ueKind := rfl
@[simp] theorem setCore_ueCore (s : State) (c : Nat) (k : Core) : (s.setCore c k).ueCore = s.ueCore := rfl
@[simp] theorem setCore_ueAddr (s : State) (c : Nat) (k : Core) : (s.setCore c k).ueAddr = s.ueAddr := rfl
@[simp] theorem setCore_links (s : State) (c : Nat) (k : Core) : (s.setCore c k).links = s.links := rfl
@[simp] theorem setCore_route (s : State) (c : Nat) (k : Core) : (s.setCore c k).route = s.route := rfl
@[simp] theorem setCore_pair (s : State) (c : Nat) (k : Core) : (s.setCore c k).pair = s.pair := rfl
@[simp] theorem setCore_peerPair (s : State) (c : Nat) (k : Core) : (s.setCore c k).peerPair = s.peerPair := rfl
@[simp] theorem setCore_throttle (s : State) (c : Nat) (k : Core) : (s.setCore c k).throttle = s.throttle := rfl
@[simp] theorem setCore_failed (s : State) (c : Nat) (k : Core) : (s.setCore c k).failed = s.failed := rfl
@[simp] theorem setCore_failMap (s : State) (c : Nat) (k : Core) : (s.setCore c k).failMap = s.failMap := rfl
@[simp] theorem setCore_spares (s : State) (c : Nat) (k : Core) : (s.setCore c k).spares = s.spares := rfl
@[simp] theorem setCore_coreErrs (s : State) (c : Nat) (k : Core) : (s.setCore c k).coreErrs = s.coreErrs := rfl
@[simp] theorem setCore_late (s : State) (c : Nat) (k : Core) : (s.setCore c k).late = s.late := rfl
@[simp] theorem setCore_rollback (s : State) (c : Nat) (k : Core) : (s.setCore c k).rollback = s.rollback := rfl
@[simp] theorem setCore_fwVersion (s : State) (c : Nat) (k : Core) : (s.setCore c k).fwVersion = s.fwVersion := rfl
@[simp] theorem setCore_fwGood (s : State) (c : Nat) (k : Core) : (s.setCore c k).fwGood = s.fwGood := rfl
@[simp] theorem setCore_spdm (s : State) (c : Nat) (k : Core) : (s.setCore c k).spdm = s.spdm := rfl

@[simp] theorem modCore_clock (s : State) (c : Nat) (f : Core → Core) : (s.modCore c f).clock = s.clock := rfl
@[simp] theorem modCore_agenda (s : State) (c : Nat) (f : Core → Core) : (s.modCore c f).agenda = s.agenda := rfl
@[simp] theorem modCore_free (s : State) (c : Nat) (f : Core → Core) : (s.modCore c f).free = s.free := rfl
@[simp] theorem modCore_cur (s : State) (c : Nat) (f : Core → Core) : (s.modCore c f).cur = s.cur := rfl
@[simp] theorem modCore_host (s : State) (c : Nat) (f : Core → Core) : (s.modCore c f).host = s.host := rfl
@[simp] theorem modCore_tier (s : State) (c : Nat) (f : Core → Core) : (s.modCore c f).tier = s.tier := rfl
@[simp] theorem modCore_clusters (s : State) (c : Nat) (f : Core → Core) : (s.modCore c f).clusters = s.clusters := rfl
@[simp] theorem modCore_parts (s : State) (c : Nat) (f : Core → Core) : (s.modCore c f).parts = s.parts := rfl
@[simp] theorem modCore_queues (s : State) (c : Nat) (f : Core → Core) : (s.modCore c f).queues = s.queues := rfl
@[simp] theorem modCore_grids (s : State) (c : Nat) (f : Core → Core) : (s.modCore c f).grids = s.grids := rfl
@[simp] theorem modCore_nextId (s : State) (c : Nat) (f : Core → Core) : (s.modCore c f).nextId = s.nextId := rfl
@[simp] theorem modCore_power (s : State) (c : Nat) (f : Core → Core) : (s.modCore c f).power = s.power := rfl
@[simp] theorem modCore_recov (s : State) (c : Nat) (f : Core → Core) : (s.modCore c f).recov = s.recov := rfl
@[simp] theorem modCore_vfs (s : State) (c : Nat) (f : Core → Core) : (s.modCore c f).vfs = s.vfs := rfl
@[simp] theorem modCore_tried (s : State) (c : Nat) (f : Core → Core) : (s.modCore c f).tried = s.tried := rfl
@[simp] theorem modCore_cpGood (s : State) (c : Nat) (f : Core → Core) : (s.modCore c f).cpGood = s.cpGood := rfl
@[simp] theorem modCore_tierSize (s : State) (c : Nat) (f : Core → Core) : (s.modCore c f).tierSize = s.tierSize := rfl
@[simp] theorem modCore_pkgnum (s : State) (c : Nat) (f : Core → Core) : (s.modCore c f).pkgnum = s.pkgnum := rfl
@[simp] theorem modCore_fenced (s : State) (c : Nat) (f : Core → Core) : (s.modCore c f).fenced = s.fenced := rfl
@[simp] theorem modCore_vce (s : State) (c : Nat) (f : Core → Core) : (s.modCore c f).vce = s.vce := rfl
@[simp] theorem modCore_sce (s : State) (c : Nat) (f : Core → Core) : (s.modCore c f).sce = s.sce := rfl
@[simp] theorem modCore_retry (s : State) (c : Nat) (f : Core → Core) : (s.modCore c f).retry = s.retry := rfl
@[simp] theorem modCore_ue (s : State) (c : Nat) (f : Core → Core) : (s.modCore c f).ue = s.ue := rfl
@[simp] theorem modCore_ueKind (s : State) (c : Nat) (f : Core → Core) : (s.modCore c f).ueKind = s.ueKind := rfl
@[simp] theorem modCore_ueCore (s : State) (c : Nat) (f : Core → Core) : (s.modCore c f).ueCore = s.ueCore := rfl
@[simp] theorem modCore_ueAddr (s : State) (c : Nat) (f : Core → Core) : (s.modCore c f).ueAddr = s.ueAddr := rfl
@[simp] theorem modCore_links (s : State) (c : Nat) (f : Core → Core) : (s.modCore c f).links = s.links := rfl
@[simp] theorem modCore_route (s : State) (c : Nat) (f : Core → Core) : (s.modCore c f).route = s.route := rfl
@[simp] theorem modCore_pair (s : State) (c : Nat) (f : Core → Core) : (s.modCore c f).pair = s.pair := rfl
@[simp] theorem modCore_peerPair (s : State) (c : Nat) (f : Core → Core) : (s.modCore c f).peerPair = s.peerPair := rfl
@[simp] theorem modCore_throttle (s : State) (c : Nat) (f : Core → Core) : (s.modCore c f).throttle = s.throttle := rfl
@[simp] theorem modCore_failed (s : State) (c : Nat) (f : Core → Core) : (s.modCore c f).failed = s.failed := rfl
@[simp] theorem modCore_failMap (s : State) (c : Nat) (f : Core → Core) : (s.modCore c f).failMap = s.failMap := rfl
@[simp] theorem modCore_spares (s : State) (c : Nat) (f : Core → Core) : (s.modCore c f).spares = s.spares := rfl
@[simp] theorem modCore_coreErrs (s : State) (c : Nat) (f : Core → Core) : (s.modCore c f).coreErrs = s.coreErrs := rfl
@[simp] theorem modCore_late (s : State) (c : Nat) (f : Core → Core) : (s.modCore c f).late = s.late := rfl
@[simp] theorem modCore_rollback (s : State) (c : Nat) (f : Core → Core) : (s.modCore c f).rollback = s.rollback := rfl
@[simp] theorem modCore_fwVersion (s : State) (c : Nat) (f : Core → Core) : (s.modCore c f).fwVersion = s.fwVersion := rfl
@[simp] theorem modCore_fwGood (s : State) (c : Nat) (f : Core → Core) : (s.modCore c f).fwGood = s.fwGood := rfl
@[simp] theorem modCore_spdm (s : State) (c : Nat) (f : Core → Core) : (s.modCore c f).spdm = s.spdm := rfl

@[simp] theorem modCluster_clock (s : State) (i : Nat) (f : Cluster → Cluster) : (s.modCluster i f).clock = s.clock := rfl
@[simp] theorem modCluster_agenda (s : State) (i : Nat) (f : Cluster → Cluster) : (s.modCluster i f).agenda = s.agenda := rfl
@[simp] theorem modCluster_free (s : State) (i : Nat) (f : Cluster → Cluster) : (s.modCluster i f).free = s.free := rfl
@[simp] theorem modCluster_cur (s : State) (i : Nat) (f : Cluster → Cluster) : (s.modCluster i f).cur = s.cur := rfl
@[simp] theorem modCluster_host (s : State) (i : Nat) (f : Cluster → Cluster) : (s.modCluster i f).host = s.host := rfl
@[simp] theorem modCluster_tier (s : State) (i : Nat) (f : Cluster → Cluster) : (s.modCluster i f).tier = s.tier := rfl
@[simp] theorem modCluster_cores (s : State) (i : Nat) (f : Cluster → Cluster) : (s.modCluster i f).cores = s.cores := rfl
@[simp] theorem modCluster_parts (s : State) (i : Nat) (f : Cluster → Cluster) : (s.modCluster i f).parts = s.parts := rfl
@[simp] theorem modCluster_queues (s : State) (i : Nat) (f : Cluster → Cluster) : (s.modCluster i f).queues = s.queues := rfl
@[simp] theorem modCluster_grids (s : State) (i : Nat) (f : Cluster → Cluster) : (s.modCluster i f).grids = s.grids := rfl
@[simp] theorem modCluster_nextId (s : State) (i : Nat) (f : Cluster → Cluster) : (s.modCluster i f).nextId = s.nextId := rfl
@[simp] theorem modCluster_power (s : State) (i : Nat) (f : Cluster → Cluster) : (s.modCluster i f).power = s.power := rfl
@[simp] theorem modCluster_recov (s : State) (i : Nat) (f : Cluster → Cluster) : (s.modCluster i f).recov = s.recov := rfl
@[simp] theorem modCluster_vfs (s : State) (i : Nat) (f : Cluster → Cluster) : (s.modCluster i f).vfs = s.vfs := rfl
@[simp] theorem modCluster_tried (s : State) (i : Nat) (f : Cluster → Cluster) : (s.modCluster i f).tried = s.tried := rfl
@[simp] theorem modCluster_cpGood (s : State) (i : Nat) (f : Cluster → Cluster) : (s.modCluster i f).cpGood = s.cpGood := rfl
@[simp] theorem modCluster_tierSize (s : State) (i : Nat) (f : Cluster → Cluster) : (s.modCluster i f).tierSize = s.tierSize := rfl
@[simp] theorem modCluster_pkgnum (s : State) (i : Nat) (f : Cluster → Cluster) : (s.modCluster i f).pkgnum = s.pkgnum := rfl
@[simp] theorem modCluster_fenced (s : State) (i : Nat) (f : Cluster → Cluster) : (s.modCluster i f).fenced = s.fenced := rfl
@[simp] theorem modCluster_vce (s : State) (i : Nat) (f : Cluster → Cluster) : (s.modCluster i f).vce = s.vce := rfl
@[simp] theorem modCluster_sce (s : State) (i : Nat) (f : Cluster → Cluster) : (s.modCluster i f).sce = s.sce := rfl
@[simp] theorem modCluster_retry (s : State) (i : Nat) (f : Cluster → Cluster) : (s.modCluster i f).retry = s.retry := rfl
@[simp] theorem modCluster_ue (s : State) (i : Nat) (f : Cluster → Cluster) : (s.modCluster i f).ue = s.ue := rfl
@[simp] theorem modCluster_ueKind (s : State) (i : Nat) (f : Cluster → Cluster) : (s.modCluster i f).ueKind = s.ueKind := rfl
@[simp] theorem modCluster_ueCore (s : State) (i : Nat) (f : Cluster → Cluster) : (s.modCluster i f).ueCore = s.ueCore := rfl
@[simp] theorem modCluster_ueAddr (s : State) (i : Nat) (f : Cluster → Cluster) : (s.modCluster i f).ueAddr = s.ueAddr := rfl
@[simp] theorem modCluster_links (s : State) (i : Nat) (f : Cluster → Cluster) : (s.modCluster i f).links = s.links := rfl
@[simp] theorem modCluster_route (s : State) (i : Nat) (f : Cluster → Cluster) : (s.modCluster i f).route = s.route := rfl
@[simp] theorem modCluster_pair (s : State) (i : Nat) (f : Cluster → Cluster) : (s.modCluster i f).pair = s.pair := rfl
@[simp] theorem modCluster_peerPair (s : State) (i : Nat) (f : Cluster → Cluster) : (s.modCluster i f).peerPair = s.peerPair := rfl
@[simp] theorem modCluster_throttle (s : State) (i : Nat) (f : Cluster → Cluster) : (s.modCluster i f).throttle = s.throttle := rfl
@[simp] theorem modCluster_failed (s : State) (i : Nat) (f : Cluster → Cluster) : (s.modCluster i f).failed = s.failed := rfl
@[simp] theorem modCluster_failMap (s : State) (i : Nat) (f : Cluster → Cluster) : (s.modCluster i f).failMap = s.failMap := rfl
@[simp] theorem modCluster_spares (s : State) (i : Nat) (f : Cluster → Cluster) : (s.modCluster i f).spares = s.spares := rfl
@[simp] theorem modCluster_coreErrs (s : State) (i : Nat) (f : Cluster → Cluster) : (s.modCluster i f).coreErrs = s.coreErrs := rfl
@[simp] theorem modCluster_late (s : State) (i : Nat) (f : Cluster → Cluster) : (s.modCluster i f).late = s.late := rfl
@[simp] theorem modCluster_rollback (s : State) (i : Nat) (f : Cluster → Cluster) : (s.modCluster i f).rollback = s.rollback := rfl
@[simp] theorem modCluster_fwVersion (s : State) (i : Nat) (f : Cluster → Cluster) : (s.modCluster i f).fwVersion = s.fwVersion := rfl
@[simp] theorem modCluster_fwGood (s : State) (i : Nat) (f : Cluster → Cluster) : (s.modCluster i f).fwGood = s.fwGood := rfl
@[simp] theorem modCluster_spdm (s : State) (i : Nat) (f : Cluster → Cluster) : (s.modCluster i f).spdm = s.spdm := rfl

@[simp] theorem modPart_clock (s : State) (p : Nat) (f : Partition → Partition) : (s.modPart p f).clock = s.clock := rfl
@[simp] theorem modPart_agenda (s : State) (p : Nat) (f : Partition → Partition) : (s.modPart p f).agenda = s.agenda := rfl
@[simp] theorem modPart_free (s : State) (p : Nat) (f : Partition → Partition) : (s.modPart p f).free = s.free := rfl
@[simp] theorem modPart_cur (s : State) (p : Nat) (f : Partition → Partition) : (s.modPart p f).cur = s.cur := rfl
@[simp] theorem modPart_host (s : State) (p : Nat) (f : Partition → Partition) : (s.modPart p f).host = s.host := rfl
@[simp] theorem modPart_tier (s : State) (p : Nat) (f : Partition → Partition) : (s.modPart p f).tier = s.tier := rfl
@[simp] theorem modPart_cores (s : State) (p : Nat) (f : Partition → Partition) : (s.modPart p f).cores = s.cores := rfl
@[simp] theorem modPart_clusters (s : State) (p : Nat) (f : Partition → Partition) : (s.modPart p f).clusters = s.clusters := rfl
@[simp] theorem modPart_queues (s : State) (p : Nat) (f : Partition → Partition) : (s.modPart p f).queues = s.queues := rfl
@[simp] theorem modPart_grids (s : State) (p : Nat) (f : Partition → Partition) : (s.modPart p f).grids = s.grids := rfl
@[simp] theorem modPart_nextId (s : State) (p : Nat) (f : Partition → Partition) : (s.modPart p f).nextId = s.nextId := rfl
@[simp] theorem modPart_power (s : State) (p : Nat) (f : Partition → Partition) : (s.modPart p f).power = s.power := rfl
@[simp] theorem modPart_recov (s : State) (p : Nat) (f : Partition → Partition) : (s.modPart p f).recov = s.recov := rfl
@[simp] theorem modPart_vfs (s : State) (p : Nat) (f : Partition → Partition) : (s.modPart p f).vfs = s.vfs := rfl
@[simp] theorem modPart_tried (s : State) (p : Nat) (f : Partition → Partition) : (s.modPart p f).tried = s.tried := rfl
@[simp] theorem modPart_cpGood (s : State) (p : Nat) (f : Partition → Partition) : (s.modPart p f).cpGood = s.cpGood := rfl
@[simp] theorem modPart_tierSize (s : State) (p : Nat) (f : Partition → Partition) : (s.modPart p f).tierSize = s.tierSize := rfl
@[simp] theorem modPart_pkgnum (s : State) (p : Nat) (f : Partition → Partition) : (s.modPart p f).pkgnum = s.pkgnum := rfl
@[simp] theorem modPart_fenced (s : State) (p : Nat) (f : Partition → Partition) : (s.modPart p f).fenced = s.fenced := rfl
@[simp] theorem modPart_vce (s : State) (p : Nat) (f : Partition → Partition) : (s.modPart p f).vce = s.vce := rfl
@[simp] theorem modPart_sce (s : State) (p : Nat) (f : Partition → Partition) : (s.modPart p f).sce = s.sce := rfl
@[simp] theorem modPart_retry (s : State) (p : Nat) (f : Partition → Partition) : (s.modPart p f).retry = s.retry := rfl
@[simp] theorem modPart_ue (s : State) (p : Nat) (f : Partition → Partition) : (s.modPart p f).ue = s.ue := rfl
@[simp] theorem modPart_ueKind (s : State) (p : Nat) (f : Partition → Partition) : (s.modPart p f).ueKind = s.ueKind := rfl
@[simp] theorem modPart_ueCore (s : State) (p : Nat) (f : Partition → Partition) : (s.modPart p f).ueCore = s.ueCore := rfl
@[simp] theorem modPart_ueAddr (s : State) (p : Nat) (f : Partition → Partition) : (s.modPart p f).ueAddr = s.ueAddr := rfl
@[simp] theorem modPart_links (s : State) (p : Nat) (f : Partition → Partition) : (s.modPart p f).links = s.links := rfl
@[simp] theorem modPart_route (s : State) (p : Nat) (f : Partition → Partition) : (s.modPart p f).route = s.route := rfl
@[simp] theorem modPart_pair (s : State) (p : Nat) (f : Partition → Partition) : (s.modPart p f).pair = s.pair := rfl
@[simp] theorem modPart_peerPair (s : State) (p : Nat) (f : Partition → Partition) : (s.modPart p f).peerPair = s.peerPair := rfl
@[simp] theorem modPart_throttle (s : State) (p : Nat) (f : Partition → Partition) : (s.modPart p f).throttle = s.throttle := rfl
@[simp] theorem modPart_failed (s : State) (p : Nat) (f : Partition → Partition) : (s.modPart p f).failed = s.failed := rfl
@[simp] theorem modPart_failMap (s : State) (p : Nat) (f : Partition → Partition) : (s.modPart p f).failMap = s.failMap := rfl
@[simp] theorem modPart_spares (s : State) (p : Nat) (f : Partition → Partition) : (s.modPart p f).spares = s.spares := rfl
@[simp] theorem modPart_coreErrs (s : State) (p : Nat) (f : Partition → Partition) : (s.modPart p f).coreErrs = s.coreErrs := rfl
@[simp] theorem modPart_late (s : State) (p : Nat) (f : Partition → Partition) : (s.modPart p f).late = s.late := rfl
@[simp] theorem modPart_rollback (s : State) (p : Nat) (f : Partition → Partition) : (s.modPart p f).rollback = s.rollback := rfl
@[simp] theorem modPart_fwVersion (s : State) (p : Nat) (f : Partition → Partition) : (s.modPart p f).fwVersion = s.fwVersion := rfl
@[simp] theorem modPart_fwGood (s : State) (p : Nat) (f : Partition → Partition) : (s.modPart p f).fwGood = s.fwGood := rfl
@[simp] theorem modPart_spdm (s : State) (p : Nat) (f : Partition → Partition) : (s.modPart p f).spdm = s.spdm := rfl

@[simp] theorem modQueue_clock (s : State) (q : Nat) (f : Queue → Queue) : (s.modQueue q f).clock = s.clock := rfl
@[simp] theorem modQueue_agenda (s : State) (q : Nat) (f : Queue → Queue) : (s.modQueue q f).agenda = s.agenda := rfl
@[simp] theorem modQueue_free (s : State) (q : Nat) (f : Queue → Queue) : (s.modQueue q f).free = s.free := rfl
@[simp] theorem modQueue_cur (s : State) (q : Nat) (f : Queue → Queue) : (s.modQueue q f).cur = s.cur := rfl
@[simp] theorem modQueue_host (s : State) (q : Nat) (f : Queue → Queue) : (s.modQueue q f).host = s.host := rfl
@[simp] theorem modQueue_tier (s : State) (q : Nat) (f : Queue → Queue) : (s.modQueue q f).tier = s.tier := rfl
@[simp] theorem modQueue_cores (s : State) (q : Nat) (f : Queue → Queue) : (s.modQueue q f).cores = s.cores := rfl
@[simp] theorem modQueue_clusters (s : State) (q : Nat) (f : Queue → Queue) : (s.modQueue q f).clusters = s.clusters := rfl
@[simp] theorem modQueue_parts (s : State) (q : Nat) (f : Queue → Queue) : (s.modQueue q f).parts = s.parts := rfl
@[simp] theorem modQueue_grids (s : State) (q : Nat) (f : Queue → Queue) : (s.modQueue q f).grids = s.grids := rfl
@[simp] theorem modQueue_nextId (s : State) (q : Nat) (f : Queue → Queue) : (s.modQueue q f).nextId = s.nextId := rfl
@[simp] theorem modQueue_power (s : State) (q : Nat) (f : Queue → Queue) : (s.modQueue q f).power = s.power := rfl
@[simp] theorem modQueue_recov (s : State) (q : Nat) (f : Queue → Queue) : (s.modQueue q f).recov = s.recov := rfl
@[simp] theorem modQueue_vfs (s : State) (q : Nat) (f : Queue → Queue) : (s.modQueue q f).vfs = s.vfs := rfl
@[simp] theorem modQueue_tried (s : State) (q : Nat) (f : Queue → Queue) : (s.modQueue q f).tried = s.tried := rfl
@[simp] theorem modQueue_cpGood (s : State) (q : Nat) (f : Queue → Queue) : (s.modQueue q f).cpGood = s.cpGood := rfl
@[simp] theorem modQueue_tierSize (s : State) (q : Nat) (f : Queue → Queue) : (s.modQueue q f).tierSize = s.tierSize := rfl
@[simp] theorem modQueue_pkgnum (s : State) (q : Nat) (f : Queue → Queue) : (s.modQueue q f).pkgnum = s.pkgnum := rfl
@[simp] theorem modQueue_fenced (s : State) (q : Nat) (f : Queue → Queue) : (s.modQueue q f).fenced = s.fenced := rfl
@[simp] theorem modQueue_vce (s : State) (q : Nat) (f : Queue → Queue) : (s.modQueue q f).vce = s.vce := rfl
@[simp] theorem modQueue_sce (s : State) (q : Nat) (f : Queue → Queue) : (s.modQueue q f).sce = s.sce := rfl
@[simp] theorem modQueue_retry (s : State) (q : Nat) (f : Queue → Queue) : (s.modQueue q f).retry = s.retry := rfl
@[simp] theorem modQueue_ue (s : State) (q : Nat) (f : Queue → Queue) : (s.modQueue q f).ue = s.ue := rfl
@[simp] theorem modQueue_ueKind (s : State) (q : Nat) (f : Queue → Queue) : (s.modQueue q f).ueKind = s.ueKind := rfl
@[simp] theorem modQueue_ueCore (s : State) (q : Nat) (f : Queue → Queue) : (s.modQueue q f).ueCore = s.ueCore := rfl
@[simp] theorem modQueue_ueAddr (s : State) (q : Nat) (f : Queue → Queue) : (s.modQueue q f).ueAddr = s.ueAddr := rfl
@[simp] theorem modQueue_links (s : State) (q : Nat) (f : Queue → Queue) : (s.modQueue q f).links = s.links := rfl
@[simp] theorem modQueue_route (s : State) (q : Nat) (f : Queue → Queue) : (s.modQueue q f).route = s.route := rfl
@[simp] theorem modQueue_pair (s : State) (q : Nat) (f : Queue → Queue) : (s.modQueue q f).pair = s.pair := rfl
@[simp] theorem modQueue_peerPair (s : State) (q : Nat) (f : Queue → Queue) : (s.modQueue q f).peerPair = s.peerPair := rfl
@[simp] theorem modQueue_throttle (s : State) (q : Nat) (f : Queue → Queue) : (s.modQueue q f).throttle = s.throttle := rfl
@[simp] theorem modQueue_failed (s : State) (q : Nat) (f : Queue → Queue) : (s.modQueue q f).failed = s.failed := rfl
@[simp] theorem modQueue_failMap (s : State) (q : Nat) (f : Queue → Queue) : (s.modQueue q f).failMap = s.failMap := rfl
@[simp] theorem modQueue_spares (s : State) (q : Nat) (f : Queue → Queue) : (s.modQueue q f).spares = s.spares := rfl
@[simp] theorem modQueue_coreErrs (s : State) (q : Nat) (f : Queue → Queue) : (s.modQueue q f).coreErrs = s.coreErrs := rfl
@[simp] theorem modQueue_late (s : State) (q : Nat) (f : Queue → Queue) : (s.modQueue q f).late = s.late := rfl
@[simp] theorem modQueue_rollback (s : State) (q : Nat) (f : Queue → Queue) : (s.modQueue q f).rollback = s.rollback := rfl
@[simp] theorem modQueue_fwVersion (s : State) (q : Nat) (f : Queue → Queue) : (s.modQueue q f).fwVersion = s.fwVersion := rfl
@[simp] theorem modQueue_fwGood (s : State) (q : Nat) (f : Queue → Queue) : (s.modQueue q f).fwGood = s.fwGood := rfl
@[simp] theorem modQueue_spdm (s : State) (q : Nat) (f : Queue → Queue) : (s.modQueue q f).spdm = s.spdm := rfl

@[simp] theorem modLink_clock (s : State) (l : Nat) (f : Link → Link) : (s.modLink l f).clock = s.clock := rfl
@[simp] theorem modLink_agenda (s : State) (l : Nat) (f : Link → Link) : (s.modLink l f).agenda = s.agenda := rfl
@[simp] theorem modLink_free (s : State) (l : Nat) (f : Link → Link) : (s.modLink l f).free = s.free := rfl
@[simp] theorem modLink_cur (s : State) (l : Nat) (f : Link → Link) : (s.modLink l f).cur = s.cur := rfl
@[simp] theorem modLink_host (s : State) (l : Nat) (f : Link → Link) : (s.modLink l f).host = s.host := rfl
@[simp] theorem modLink_tier (s : State) (l : Nat) (f : Link → Link) : (s.modLink l f).tier = s.tier := rfl
@[simp] theorem modLink_cores (s : State) (l : Nat) (f : Link → Link) : (s.modLink l f).cores = s.cores := rfl
@[simp] theorem modLink_clusters (s : State) (l : Nat) (f : Link → Link) : (s.modLink l f).clusters = s.clusters := rfl
@[simp] theorem modLink_parts (s : State) (l : Nat) (f : Link → Link) : (s.modLink l f).parts = s.parts := rfl
@[simp] theorem modLink_queues (s : State) (l : Nat) (f : Link → Link) : (s.modLink l f).queues = s.queues := rfl
@[simp] theorem modLink_grids (s : State) (l : Nat) (f : Link → Link) : (s.modLink l f).grids = s.grids := rfl
@[simp] theorem modLink_nextId (s : State) (l : Nat) (f : Link → Link) : (s.modLink l f).nextId = s.nextId := rfl
@[simp] theorem modLink_power (s : State) (l : Nat) (f : Link → Link) : (s.modLink l f).power = s.power := rfl
@[simp] theorem modLink_recov (s : State) (l : Nat) (f : Link → Link) : (s.modLink l f).recov = s.recov := rfl
@[simp] theorem modLink_vfs (s : State) (l : Nat) (f : Link → Link) : (s.modLink l f).vfs = s.vfs := rfl
@[simp] theorem modLink_tried (s : State) (l : Nat) (f : Link → Link) : (s.modLink l f).tried = s.tried := rfl
@[simp] theorem modLink_cpGood (s : State) (l : Nat) (f : Link → Link) : (s.modLink l f).cpGood = s.cpGood := rfl
@[simp] theorem modLink_tierSize (s : State) (l : Nat) (f : Link → Link) : (s.modLink l f).tierSize = s.tierSize := rfl
@[simp] theorem modLink_pkgnum (s : State) (l : Nat) (f : Link → Link) : (s.modLink l f).pkgnum = s.pkgnum := rfl
@[simp] theorem modLink_fenced (s : State) (l : Nat) (f : Link → Link) : (s.modLink l f).fenced = s.fenced := rfl
@[simp] theorem modLink_vce (s : State) (l : Nat) (f : Link → Link) : (s.modLink l f).vce = s.vce := rfl
@[simp] theorem modLink_sce (s : State) (l : Nat) (f : Link → Link) : (s.modLink l f).sce = s.sce := rfl
@[simp] theorem modLink_retry (s : State) (l : Nat) (f : Link → Link) : (s.modLink l f).retry = s.retry := rfl
@[simp] theorem modLink_ue (s : State) (l : Nat) (f : Link → Link) : (s.modLink l f).ue = s.ue := rfl
@[simp] theorem modLink_ueKind (s : State) (l : Nat) (f : Link → Link) : (s.modLink l f).ueKind = s.ueKind := rfl
@[simp] theorem modLink_ueCore (s : State) (l : Nat) (f : Link → Link) : (s.modLink l f).ueCore = s.ueCore := rfl
@[simp] theorem modLink_ueAddr (s : State) (l : Nat) (f : Link → Link) : (s.modLink l f).ueAddr = s.ueAddr := rfl
@[simp] theorem modLink_route (s : State) (l : Nat) (f : Link → Link) : (s.modLink l f).route = s.route := rfl
@[simp] theorem modLink_pair (s : State) (l : Nat) (f : Link → Link) : (s.modLink l f).pair = s.pair := rfl
@[simp] theorem modLink_peerPair (s : State) (l : Nat) (f : Link → Link) : (s.modLink l f).peerPair = s.peerPair := rfl
@[simp] theorem modLink_throttle (s : State) (l : Nat) (f : Link → Link) : (s.modLink l f).throttle = s.throttle := rfl
@[simp] theorem modLink_failed (s : State) (l : Nat) (f : Link → Link) : (s.modLink l f).failed = s.failed := rfl
@[simp] theorem modLink_failMap (s : State) (l : Nat) (f : Link → Link) : (s.modLink l f).failMap = s.failMap := rfl
@[simp] theorem modLink_spares (s : State) (l : Nat) (f : Link → Link) : (s.modLink l f).spares = s.spares := rfl
@[simp] theorem modLink_coreErrs (s : State) (l : Nat) (f : Link → Link) : (s.modLink l f).coreErrs = s.coreErrs := rfl
@[simp] theorem modLink_late (s : State) (l : Nat) (f : Link → Link) : (s.modLink l f).late = s.late := rfl
@[simp] theorem modLink_rollback (s : State) (l : Nat) (f : Link → Link) : (s.modLink l f).rollback = s.rollback := rfl
@[simp] theorem modLink_fwVersion (s : State) (l : Nat) (f : Link → Link) : (s.modLink l f).fwVersion = s.fwVersion := rfl
@[simp] theorem modLink_fwGood (s : State) (l : Nat) (f : Link → Link) : (s.modLink l f).fwGood = s.fwGood := rfl
@[simp] theorem modLink_spdm (s : State) (l : Nat) (f : Link → Link) : (s.modLink l f).spdm = s.spdm := rfl

@[simp] theorem modGrid_clock (s : State) (id : Nat) (f : Grid → Grid) : (s.modGrid id f).clock = s.clock := rfl
@[simp] theorem modGrid_agenda (s : State) (id : Nat) (f : Grid → Grid) : (s.modGrid id f).agenda = s.agenda := rfl
@[simp] theorem modGrid_free (s : State) (id : Nat) (f : Grid → Grid) : (s.modGrid id f).free = s.free := rfl
@[simp] theorem modGrid_cur (s : State) (id : Nat) (f : Grid → Grid) : (s.modGrid id f).cur = s.cur := rfl
@[simp] theorem modGrid_host (s : State) (id : Nat) (f : Grid → Grid) : (s.modGrid id f).host = s.host := rfl
@[simp] theorem modGrid_tier (s : State) (id : Nat) (f : Grid → Grid) : (s.modGrid id f).tier = s.tier := rfl
@[simp] theorem modGrid_cores (s : State) (id : Nat) (f : Grid → Grid) : (s.modGrid id f).cores = s.cores := rfl
@[simp] theorem modGrid_clusters (s : State) (id : Nat) (f : Grid → Grid) : (s.modGrid id f).clusters = s.clusters := rfl
@[simp] theorem modGrid_parts (s : State) (id : Nat) (f : Grid → Grid) : (s.modGrid id f).parts = s.parts := rfl
@[simp] theorem modGrid_queues (s : State) (id : Nat) (f : Grid → Grid) : (s.modGrid id f).queues = s.queues := rfl
@[simp] theorem modGrid_nextId (s : State) (id : Nat) (f : Grid → Grid) : (s.modGrid id f).nextId = s.nextId := rfl
@[simp] theorem modGrid_power (s : State) (id : Nat) (f : Grid → Grid) : (s.modGrid id f).power = s.power := rfl
@[simp] theorem modGrid_recov (s : State) (id : Nat) (f : Grid → Grid) : (s.modGrid id f).recov = s.recov := rfl
@[simp] theorem modGrid_vfs (s : State) (id : Nat) (f : Grid → Grid) : (s.modGrid id f).vfs = s.vfs := rfl
@[simp] theorem modGrid_tried (s : State) (id : Nat) (f : Grid → Grid) : (s.modGrid id f).tried = s.tried := rfl
@[simp] theorem modGrid_cpGood (s : State) (id : Nat) (f : Grid → Grid) : (s.modGrid id f).cpGood = s.cpGood := rfl
@[simp] theorem modGrid_tierSize (s : State) (id : Nat) (f : Grid → Grid) : (s.modGrid id f).tierSize = s.tierSize := rfl
@[simp] theorem modGrid_pkgnum (s : State) (id : Nat) (f : Grid → Grid) : (s.modGrid id f).pkgnum = s.pkgnum := rfl
@[simp] theorem modGrid_fenced (s : State) (id : Nat) (f : Grid → Grid) : (s.modGrid id f).fenced = s.fenced := rfl
@[simp] theorem modGrid_vce (s : State) (id : Nat) (f : Grid → Grid) : (s.modGrid id f).vce = s.vce := rfl
@[simp] theorem modGrid_sce (s : State) (id : Nat) (f : Grid → Grid) : (s.modGrid id f).sce = s.sce := rfl
@[simp] theorem modGrid_retry (s : State) (id : Nat) (f : Grid → Grid) : (s.modGrid id f).retry = s.retry := rfl
@[simp] theorem modGrid_ue (s : State) (id : Nat) (f : Grid → Grid) : (s.modGrid id f).ue = s.ue := rfl
@[simp] theorem modGrid_ueKind (s : State) (id : Nat) (f : Grid → Grid) : (s.modGrid id f).ueKind = s.ueKind := rfl
@[simp] theorem modGrid_ueCore (s : State) (id : Nat) (f : Grid → Grid) : (s.modGrid id f).ueCore = s.ueCore := rfl
@[simp] theorem modGrid_ueAddr (s : State) (id : Nat) (f : Grid → Grid) : (s.modGrid id f).ueAddr = s.ueAddr := rfl
@[simp] theorem modGrid_links (s : State) (id : Nat) (f : Grid → Grid) : (s.modGrid id f).links = s.links := rfl
@[simp] theorem modGrid_route (s : State) (id : Nat) (f : Grid → Grid) : (s.modGrid id f).route = s.route := rfl
@[simp] theorem modGrid_pair (s : State) (id : Nat) (f : Grid → Grid) : (s.modGrid id f).pair = s.pair := rfl
@[simp] theorem modGrid_peerPair (s : State) (id : Nat) (f : Grid → Grid) : (s.modGrid id f).peerPair = s.peerPair := rfl
@[simp] theorem modGrid_throttle (s : State) (id : Nat) (f : Grid → Grid) : (s.modGrid id f).throttle = s.throttle := rfl
@[simp] theorem modGrid_failed (s : State) (id : Nat) (f : Grid → Grid) : (s.modGrid id f).failed = s.failed := rfl
@[simp] theorem modGrid_failMap (s : State) (id : Nat) (f : Grid → Grid) : (s.modGrid id f).failMap = s.failMap := rfl
@[simp] theorem modGrid_spares (s : State) (id : Nat) (f : Grid → Grid) : (s.modGrid id f).spares = s.spares := rfl
@[simp] theorem modGrid_coreErrs (s : State) (id : Nat) (f : Grid → Grid) : (s.modGrid id f).coreErrs = s.coreErrs := rfl
@[simp] theorem modGrid_late (s : State) (id : Nat) (f : Grid → Grid) : (s.modGrid id f).late = s.late := rfl
@[simp] theorem modGrid_rollback (s : State) (id : Nat) (f : Grid → Grid) : (s.modGrid id f).rollback = s.rollback := rfl
@[simp] theorem modGrid_fwVersion (s : State) (id : Nat) (f : Grid → Grid) : (s.modGrid id f).fwVersion = s.fwVersion := rfl
@[simp] theorem modGrid_fwGood (s : State) (id : Nat) (f : Grid → Grid) : (s.modGrid id f).fwGood = s.fwGood := rfl
@[simp] theorem modGrid_spdm (s : State) (id : Nat) (f : Grid → Grid) : (s.modGrid id f).spdm = s.spdm := rfl

/-! ## The same of a group and a team, which may be absent -/

@[simp] theorem setGroup_clock (s : State) (c slot : Nat) (g : Group) : (s.setGroup c slot g).clock = s.clock := rfl
@[simp] theorem setGroup_agenda (s : State) (c slot : Nat) (g : Group) : (s.setGroup c slot g).agenda = s.agenda := rfl
@[simp] theorem setGroup_free (s : State) (c slot : Nat) (g : Group) : (s.setGroup c slot g).free = s.free := rfl
@[simp] theorem setGroup_cur (s : State) (c slot : Nat) (g : Group) : (s.setGroup c slot g).cur = s.cur := rfl
@[simp] theorem setGroup_host (s : State) (c slot : Nat) (g : Group) : (s.setGroup c slot g).host = s.host := rfl
@[simp] theorem setGroup_tier (s : State) (c slot : Nat) (g : Group) : (s.setGroup c slot g).tier = s.tier := rfl
@[simp] theorem setGroup_clusters (s : State) (c slot : Nat) (g : Group) : (s.setGroup c slot g).clusters = s.clusters := rfl
@[simp] theorem setGroup_parts (s : State) (c slot : Nat) (g : Group) : (s.setGroup c slot g).parts = s.parts := rfl
@[simp] theorem setGroup_queues (s : State) (c slot : Nat) (g : Group) : (s.setGroup c slot g).queues = s.queues := rfl
@[simp] theorem setGroup_grids (s : State) (c slot : Nat) (g : Group) : (s.setGroup c slot g).grids = s.grids := rfl
@[simp] theorem setGroup_nextId (s : State) (c slot : Nat) (g : Group) : (s.setGroup c slot g).nextId = s.nextId := rfl
@[simp] theorem setGroup_power (s : State) (c slot : Nat) (g : Group) : (s.setGroup c slot g).power = s.power := rfl
@[simp] theorem setGroup_recov (s : State) (c slot : Nat) (g : Group) : (s.setGroup c slot g).recov = s.recov := rfl
@[simp] theorem setGroup_vfs (s : State) (c slot : Nat) (g : Group) : (s.setGroup c slot g).vfs = s.vfs := rfl
@[simp] theorem setGroup_tried (s : State) (c slot : Nat) (g : Group) : (s.setGroup c slot g).tried = s.tried := rfl
@[simp] theorem setGroup_cpGood (s : State) (c slot : Nat) (g : Group) : (s.setGroup c slot g).cpGood = s.cpGood := rfl
@[simp] theorem setGroup_tierSize (s : State) (c slot : Nat) (g : Group) : (s.setGroup c slot g).tierSize = s.tierSize := rfl
@[simp] theorem setGroup_pkgnum (s : State) (c slot : Nat) (g : Group) : (s.setGroup c slot g).pkgnum = s.pkgnum := rfl
@[simp] theorem setGroup_fenced (s : State) (c slot : Nat) (g : Group) : (s.setGroup c slot g).fenced = s.fenced := rfl
@[simp] theorem setGroup_vce (s : State) (c slot : Nat) (g : Group) : (s.setGroup c slot g).vce = s.vce := rfl
@[simp] theorem setGroup_sce (s : State) (c slot : Nat) (g : Group) : (s.setGroup c slot g).sce = s.sce := rfl
@[simp] theorem setGroup_retry (s : State) (c slot : Nat) (g : Group) : (s.setGroup c slot g).retry = s.retry := rfl
@[simp] theorem setGroup_ue (s : State) (c slot : Nat) (g : Group) : (s.setGroup c slot g).ue = s.ue := rfl
@[simp] theorem setGroup_ueKind (s : State) (c slot : Nat) (g : Group) : (s.setGroup c slot g).ueKind = s.ueKind := rfl
@[simp] theorem setGroup_ueCore (s : State) (c slot : Nat) (g : Group) : (s.setGroup c slot g).ueCore = s.ueCore := rfl
@[simp] theorem setGroup_ueAddr (s : State) (c slot : Nat) (g : Group) : (s.setGroup c slot g).ueAddr = s.ueAddr := rfl
@[simp] theorem setGroup_links (s : State) (c slot : Nat) (g : Group) : (s.setGroup c slot g).links = s.links := rfl
@[simp] theorem setGroup_route (s : State) (c slot : Nat) (g : Group) : (s.setGroup c slot g).route = s.route := rfl
@[simp] theorem setGroup_pair (s : State) (c slot : Nat) (g : Group) : (s.setGroup c slot g).pair = s.pair := rfl
@[simp] theorem setGroup_peerPair (s : State) (c slot : Nat) (g : Group) : (s.setGroup c slot g).peerPair = s.peerPair := rfl
@[simp] theorem setGroup_throttle (s : State) (c slot : Nat) (g : Group) : (s.setGroup c slot g).throttle = s.throttle := rfl
@[simp] theorem setGroup_failed (s : State) (c slot : Nat) (g : Group) : (s.setGroup c slot g).failed = s.failed := rfl
@[simp] theorem setGroup_failMap (s : State) (c slot : Nat) (g : Group) : (s.setGroup c slot g).failMap = s.failMap := rfl
@[simp] theorem setGroup_spares (s : State) (c slot : Nat) (g : Group) : (s.setGroup c slot g).spares = s.spares := rfl
@[simp] theorem setGroup_coreErrs (s : State) (c slot : Nat) (g : Group) : (s.setGroup c slot g).coreErrs = s.coreErrs := rfl
@[simp] theorem setGroup_late (s : State) (c slot : Nat) (g : Group) : (s.setGroup c slot g).late = s.late := rfl
@[simp] theorem setGroup_rollback (s : State) (c slot : Nat) (g : Group) : (s.setGroup c slot g).rollback = s.rollback := rfl
@[simp] theorem setGroup_fwVersion (s : State) (c slot : Nat) (g : Group) : (s.setGroup c slot g).fwVersion = s.fwVersion := rfl
@[simp] theorem setGroup_fwGood (s : State) (c slot : Nat) (g : Group) : (s.setGroup c slot g).fwGood = s.fwGood := rfl
@[simp] theorem setGroup_spdm (s : State) (c slot : Nat) (g : Group) : (s.setGroup c slot g).spdm = s.spdm := rfl
@[simp] theorem modGroup_clock (s : State) (c i : Nat) (f : Group → Group) : (s.modGroup c i f).clock = s.clock := by
  unfold State.modGroup; split <;> rfl
@[simp] theorem modGroup_agenda (s : State) (c i : Nat) (f : Group → Group) : (s.modGroup c i f).agenda = s.agenda := by
  unfold State.modGroup; split <;> rfl
@[simp] theorem modGroup_free (s : State) (c i : Nat) (f : Group → Group) : (s.modGroup c i f).free = s.free := by
  unfold State.modGroup; split <;> rfl
@[simp] theorem modGroup_cur (s : State) (c i : Nat) (f : Group → Group) : (s.modGroup c i f).cur = s.cur := by
  unfold State.modGroup; split <;> rfl
@[simp] theorem modGroup_host (s : State) (c i : Nat) (f : Group → Group) : (s.modGroup c i f).host = s.host := by
  unfold State.modGroup; split <;> rfl
@[simp] theorem modGroup_tier (s : State) (c i : Nat) (f : Group → Group) : (s.modGroup c i f).tier = s.tier := by
  unfold State.modGroup; split <;> rfl
@[simp] theorem modGroup_clusters (s : State) (c i : Nat) (f : Group → Group) : (s.modGroup c i f).clusters = s.clusters := by
  unfold State.modGroup; split <;> rfl
@[simp] theorem modGroup_parts (s : State) (c i : Nat) (f : Group → Group) : (s.modGroup c i f).parts = s.parts := by
  unfold State.modGroup; split <;> rfl
@[simp] theorem modGroup_queues (s : State) (c i : Nat) (f : Group → Group) : (s.modGroup c i f).queues = s.queues := by
  unfold State.modGroup; split <;> rfl
@[simp] theorem modGroup_grids (s : State) (c i : Nat) (f : Group → Group) : (s.modGroup c i f).grids = s.grids := by
  unfold State.modGroup; split <;> rfl
@[simp] theorem modGroup_nextId (s : State) (c i : Nat) (f : Group → Group) : (s.modGroup c i f).nextId = s.nextId := by
  unfold State.modGroup; split <;> rfl
@[simp] theorem modGroup_power (s : State) (c i : Nat) (f : Group → Group) : (s.modGroup c i f).power = s.power := by
  unfold State.modGroup; split <;> rfl
@[simp] theorem modGroup_recov (s : State) (c i : Nat) (f : Group → Group) : (s.modGroup c i f).recov = s.recov := by
  unfold State.modGroup; split <;> rfl
@[simp] theorem modGroup_vfs (s : State) (c i : Nat) (f : Group → Group) : (s.modGroup c i f).vfs = s.vfs := by
  unfold State.modGroup; split <;> rfl
@[simp] theorem modGroup_tried (s : State) (c i : Nat) (f : Group → Group) : (s.modGroup c i f).tried = s.tried := by
  unfold State.modGroup; split <;> rfl
@[simp] theorem modGroup_cpGood (s : State) (c i : Nat) (f : Group → Group) : (s.modGroup c i f).cpGood = s.cpGood := by
  unfold State.modGroup; split <;> rfl
@[simp] theorem modGroup_tierSize (s : State) (c i : Nat) (f : Group → Group) : (s.modGroup c i f).tierSize = s.tierSize := by
  unfold State.modGroup; split <;> rfl
@[simp] theorem modGroup_pkgnum (s : State) (c i : Nat) (f : Group → Group) : (s.modGroup c i f).pkgnum = s.pkgnum := by
  unfold State.modGroup; split <;> rfl
@[simp] theorem modGroup_fenced (s : State) (c i : Nat) (f : Group → Group) : (s.modGroup c i f).fenced = s.fenced := by
  unfold State.modGroup; split <;> rfl
@[simp] theorem modGroup_vce (s : State) (c i : Nat) (f : Group → Group) : (s.modGroup c i f).vce = s.vce := by
  unfold State.modGroup; split <;> rfl
@[simp] theorem modGroup_sce (s : State) (c i : Nat) (f : Group → Group) : (s.modGroup c i f).sce = s.sce := by
  unfold State.modGroup; split <;> rfl
@[simp] theorem modGroup_retry (s : State) (c i : Nat) (f : Group → Group) : (s.modGroup c i f).retry = s.retry := by
  unfold State.modGroup; split <;> rfl
@[simp] theorem modGroup_ue (s : State) (c i : Nat) (f : Group → Group) : (s.modGroup c i f).ue = s.ue := by
  unfold State.modGroup; split <;> rfl
@[simp] theorem modGroup_ueKind (s : State) (c i : Nat) (f : Group → Group) : (s.modGroup c i f).ueKind = s.ueKind := by
  unfold State.modGroup; split <;> rfl
@[simp] theorem modGroup_ueCore (s : State) (c i : Nat) (f : Group → Group) : (s.modGroup c i f).ueCore = s.ueCore := by
  unfold State.modGroup; split <;> rfl
@[simp] theorem modGroup_ueAddr (s : State) (c i : Nat) (f : Group → Group) : (s.modGroup c i f).ueAddr = s.ueAddr := by
  unfold State.modGroup; split <;> rfl
@[simp] theorem modGroup_links (s : State) (c i : Nat) (f : Group → Group) : (s.modGroup c i f).links = s.links := by
  unfold State.modGroup; split <;> rfl
@[simp] theorem modGroup_route (s : State) (c i : Nat) (f : Group → Group) : (s.modGroup c i f).route = s.route := by
  unfold State.modGroup; split <;> rfl
@[simp] theorem modGroup_pair (s : State) (c i : Nat) (f : Group → Group) : (s.modGroup c i f).pair = s.pair := by
  unfold State.modGroup; split <;> rfl
@[simp] theorem modGroup_peerPair (s : State) (c i : Nat) (f : Group → Group) : (s.modGroup c i f).peerPair = s.peerPair := by
  unfold State.modGroup; split <;> rfl
@[simp] theorem modGroup_throttle (s : State) (c i : Nat) (f : Group → Group) : (s.modGroup c i f).throttle = s.throttle := by
  unfold State.modGroup; split <;> rfl
@[simp] theorem modGroup_failed (s : State) (c i : Nat) (f : Group → Group) : (s.modGroup c i f).failed = s.failed := by
  unfold State.modGroup; split <;> rfl
@[simp] theorem modGroup_failMap (s : State) (c i : Nat) (f : Group → Group) : (s.modGroup c i f).failMap = s.failMap := by
  unfold State.modGroup; split <;> rfl
@[simp] theorem modGroup_spares (s : State) (c i : Nat) (f : Group → Group) : (s.modGroup c i f).spares = s.spares := by
  unfold State.modGroup; split <;> rfl
@[simp] theorem modGroup_coreErrs (s : State) (c i : Nat) (f : Group → Group) : (s.modGroup c i f).coreErrs = s.coreErrs := by
  unfold State.modGroup; split <;> rfl
@[simp] theorem modGroup_late (s : State) (c i : Nat) (f : Group → Group) : (s.modGroup c i f).late = s.late := by
  unfold State.modGroup; split <;> rfl
@[simp] theorem modGroup_rollback (s : State) (c i : Nat) (f : Group → Group) : (s.modGroup c i f).rollback = s.rollback := by
  unfold State.modGroup; split <;> rfl
@[simp] theorem modGroup_fwVersion (s : State) (c i : Nat) (f : Group → Group) : (s.modGroup c i f).fwVersion = s.fwVersion := by
  unfold State.modGroup; split <;> rfl
@[simp] theorem modGroup_fwGood (s : State) (c i : Nat) (f : Group → Group) : (s.modGroup c i f).fwGood = s.fwGood := by
  unfold State.modGroup; split <;> rfl
@[simp] theorem modGroup_spdm (s : State) (c i : Nat) (f : Group → Group) : (s.modGroup c i f).spdm = s.spdm := by
  unfold State.modGroup; split <;> rfl
@[simp] theorem modTeam_clock (s : State) (c i : Nat) (f : Team → Team) : (s.modTeam c i f).clock = s.clock := by
  unfold State.modTeam; split <;> rfl
@[simp] theorem modTeam_agenda (s : State) (c i : Nat) (f : Team → Team) : (s.modTeam c i f).agenda = s.agenda := by
  unfold State.modTeam; split <;> rfl
@[simp] theorem modTeam_free (s : State) (c i : Nat) (f : Team → Team) : (s.modTeam c i f).free = s.free := by
  unfold State.modTeam; split <;> rfl
@[simp] theorem modTeam_cur (s : State) (c i : Nat) (f : Team → Team) : (s.modTeam c i f).cur = s.cur := by
  unfold State.modTeam; split <;> rfl
@[simp] theorem modTeam_host (s : State) (c i : Nat) (f : Team → Team) : (s.modTeam c i f).host = s.host := by
  unfold State.modTeam; split <;> rfl
@[simp] theorem modTeam_tier (s : State) (c i : Nat) (f : Team → Team) : (s.modTeam c i f).tier = s.tier := by
  unfold State.modTeam; split <;> rfl
@[simp] theorem modTeam_clusters (s : State) (c i : Nat) (f : Team → Team) : (s.modTeam c i f).clusters = s.clusters := by
  unfold State.modTeam; split <;> rfl
@[simp] theorem modTeam_parts (s : State) (c i : Nat) (f : Team → Team) : (s.modTeam c i f).parts = s.parts := by
  unfold State.modTeam; split <;> rfl
@[simp] theorem modTeam_queues (s : State) (c i : Nat) (f : Team → Team) : (s.modTeam c i f).queues = s.queues := by
  unfold State.modTeam; split <;> rfl
@[simp] theorem modTeam_grids (s : State) (c i : Nat) (f : Team → Team) : (s.modTeam c i f).grids = s.grids := by
  unfold State.modTeam; split <;> rfl
@[simp] theorem modTeam_nextId (s : State) (c i : Nat) (f : Team → Team) : (s.modTeam c i f).nextId = s.nextId := by
  unfold State.modTeam; split <;> rfl
@[simp] theorem modTeam_power (s : State) (c i : Nat) (f : Team → Team) : (s.modTeam c i f).power = s.power := by
  unfold State.modTeam; split <;> rfl
@[simp] theorem modTeam_recov (s : State) (c i : Nat) (f : Team → Team) : (s.modTeam c i f).recov = s.recov := by
  unfold State.modTeam; split <;> rfl
@[simp] theorem modTeam_vfs (s : State) (c i : Nat) (f : Team → Team) : (s.modTeam c i f).vfs = s.vfs := by
  unfold State.modTeam; split <;> rfl
@[simp] theorem modTeam_tried (s : State) (c i : Nat) (f : Team → Team) : (s.modTeam c i f).tried = s.tried := by
  unfold State.modTeam; split <;> rfl
@[simp] theorem modTeam_cpGood (s : State) (c i : Nat) (f : Team → Team) : (s.modTeam c i f).cpGood = s.cpGood := by
  unfold State.modTeam; split <;> rfl
@[simp] theorem modTeam_tierSize (s : State) (c i : Nat) (f : Team → Team) : (s.modTeam c i f).tierSize = s.tierSize := by
  unfold State.modTeam; split <;> rfl
@[simp] theorem modTeam_pkgnum (s : State) (c i : Nat) (f : Team → Team) : (s.modTeam c i f).pkgnum = s.pkgnum := by
  unfold State.modTeam; split <;> rfl
@[simp] theorem modTeam_fenced (s : State) (c i : Nat) (f : Team → Team) : (s.modTeam c i f).fenced = s.fenced := by
  unfold State.modTeam; split <;> rfl
@[simp] theorem modTeam_vce (s : State) (c i : Nat) (f : Team → Team) : (s.modTeam c i f).vce = s.vce := by
  unfold State.modTeam; split <;> rfl
@[simp] theorem modTeam_sce (s : State) (c i : Nat) (f : Team → Team) : (s.modTeam c i f).sce = s.sce := by
  unfold State.modTeam; split <;> rfl
@[simp] theorem modTeam_retry (s : State) (c i : Nat) (f : Team → Team) : (s.modTeam c i f).retry = s.retry := by
  unfold State.modTeam; split <;> rfl
@[simp] theorem modTeam_ue (s : State) (c i : Nat) (f : Team → Team) : (s.modTeam c i f).ue = s.ue := by
  unfold State.modTeam; split <;> rfl
@[simp] theorem modTeam_ueKind (s : State) (c i : Nat) (f : Team → Team) : (s.modTeam c i f).ueKind = s.ueKind := by
  unfold State.modTeam; split <;> rfl
@[simp] theorem modTeam_ueCore (s : State) (c i : Nat) (f : Team → Team) : (s.modTeam c i f).ueCore = s.ueCore := by
  unfold State.modTeam; split <;> rfl
@[simp] theorem modTeam_ueAddr (s : State) (c i : Nat) (f : Team → Team) : (s.modTeam c i f).ueAddr = s.ueAddr := by
  unfold State.modTeam; split <;> rfl
@[simp] theorem modTeam_links (s : State) (c i : Nat) (f : Team → Team) : (s.modTeam c i f).links = s.links := by
  unfold State.modTeam; split <;> rfl
@[simp] theorem modTeam_route (s : State) (c i : Nat) (f : Team → Team) : (s.modTeam c i f).route = s.route := by
  unfold State.modTeam; split <;> rfl
@[simp] theorem modTeam_pair (s : State) (c i : Nat) (f : Team → Team) : (s.modTeam c i f).pair = s.pair := by
  unfold State.modTeam; split <;> rfl
@[simp] theorem modTeam_peerPair (s : State) (c i : Nat) (f : Team → Team) : (s.modTeam c i f).peerPair = s.peerPair := by
  unfold State.modTeam; split <;> rfl
@[simp] theorem modTeam_throttle (s : State) (c i : Nat) (f : Team → Team) : (s.modTeam c i f).throttle = s.throttle := by
  unfold State.modTeam; split <;> rfl
@[simp] theorem modTeam_failed (s : State) (c i : Nat) (f : Team → Team) : (s.modTeam c i f).failed = s.failed := by
  unfold State.modTeam; split <;> rfl
@[simp] theorem modTeam_failMap (s : State) (c i : Nat) (f : Team → Team) : (s.modTeam c i f).failMap = s.failMap := by
  unfold State.modTeam; split <;> rfl
@[simp] theorem modTeam_spares (s : State) (c i : Nat) (f : Team → Team) : (s.modTeam c i f).spares = s.spares := by
  unfold State.modTeam; split <;> rfl
@[simp] theorem modTeam_coreErrs (s : State) (c i : Nat) (f : Team → Team) : (s.modTeam c i f).coreErrs = s.coreErrs := by
  unfold State.modTeam; split <;> rfl
@[simp] theorem modTeam_late (s : State) (c i : Nat) (f : Team → Team) : (s.modTeam c i f).late = s.late := by
  unfold State.modTeam; split <;> rfl
@[simp] theorem modTeam_rollback (s : State) (c i : Nat) (f : Team → Team) : (s.modTeam c i f).rollback = s.rollback := by
  unfold State.modTeam; split <;> rfl
@[simp] theorem modTeam_fwVersion (s : State) (c i : Nat) (f : Team → Team) : (s.modTeam c i f).fwVersion = s.fwVersion := by
  unfold State.modTeam; split <;> rfl
@[simp] theorem modTeam_fwGood (s : State) (c i : Nat) (f : Team → Team) : (s.modTeam c i f).fwGood = s.fwGood := by
  unfold State.modTeam; split <;> rfl
@[simp] theorem modTeam_spdm (s : State) (c i : Nat) (f : Team → Team) : (s.modTeam c i f).spdm = s.spdm := by
  unfold State.modTeam; split <;> rfl
@[simp] theorem writeV_clock (s : State) (c i : Nat) (l : List (Nat × Nat × Word)) : (s.writeV c i l).clock = s.clock := by
  unfold State.writeV; split <;> [rfl; (split <;> rfl)]
@[simp] theorem writeV_agenda (s : State) (c i : Nat) (l : List (Nat × Nat × Word)) : (s.writeV c i l).agenda = s.agenda := by
  unfold State.writeV; split <;> [rfl; (split <;> rfl)]
@[simp] theorem writeV_free (s : State) (c i : Nat) (l : List (Nat × Nat × Word)) : (s.writeV c i l).free = s.free := by
  unfold State.writeV; split <;> [rfl; (split <;> rfl)]
@[simp] theorem writeV_cur (s : State) (c i : Nat) (l : List (Nat × Nat × Word)) : (s.writeV c i l).cur = s.cur := by
  unfold State.writeV; split <;> [rfl; (split <;> rfl)]
@[simp] theorem writeV_host (s : State) (c i : Nat) (l : List (Nat × Nat × Word)) : (s.writeV c i l).host = s.host := by
  unfold State.writeV; split <;> [rfl; (split <;> rfl)]
@[simp] theorem writeV_tier (s : State) (c i : Nat) (l : List (Nat × Nat × Word)) : (s.writeV c i l).tier = s.tier := by
  unfold State.writeV; split <;> [rfl; (split <;> rfl)]
@[simp] theorem writeV_clusters (s : State) (c i : Nat) (l : List (Nat × Nat × Word)) : (s.writeV c i l).clusters = s.clusters := by
  unfold State.writeV; split <;> [rfl; (split <;> rfl)]
@[simp] theorem writeV_parts (s : State) (c i : Nat) (l : List (Nat × Nat × Word)) : (s.writeV c i l).parts = s.parts := by
  unfold State.writeV; split <;> [rfl; (split <;> rfl)]
@[simp] theorem writeV_queues (s : State) (c i : Nat) (l : List (Nat × Nat × Word)) : (s.writeV c i l).queues = s.queues := by
  unfold State.writeV; split <;> [rfl; (split <;> rfl)]
@[simp] theorem writeV_grids (s : State) (c i : Nat) (l : List (Nat × Nat × Word)) : (s.writeV c i l).grids = s.grids := by
  unfold State.writeV; split <;> [rfl; (split <;> rfl)]
@[simp] theorem writeV_nextId (s : State) (c i : Nat) (l : List (Nat × Nat × Word)) : (s.writeV c i l).nextId = s.nextId := by
  unfold State.writeV; split <;> [rfl; (split <;> rfl)]
@[simp] theorem writeV_power (s : State) (c i : Nat) (l : List (Nat × Nat × Word)) : (s.writeV c i l).power = s.power := by
  unfold State.writeV; split <;> [rfl; (split <;> rfl)]
@[simp] theorem writeV_recov (s : State) (c i : Nat) (l : List (Nat × Nat × Word)) : (s.writeV c i l).recov = s.recov := by
  unfold State.writeV; split <;> [rfl; (split <;> rfl)]
@[simp] theorem writeV_vfs (s : State) (c i : Nat) (l : List (Nat × Nat × Word)) : (s.writeV c i l).vfs = s.vfs := by
  unfold State.writeV; split <;> [rfl; (split <;> rfl)]
@[simp] theorem writeV_tried (s : State) (c i : Nat) (l : List (Nat × Nat × Word)) : (s.writeV c i l).tried = s.tried := by
  unfold State.writeV; split <;> [rfl; (split <;> rfl)]
@[simp] theorem writeV_cpGood (s : State) (c i : Nat) (l : List (Nat × Nat × Word)) : (s.writeV c i l).cpGood = s.cpGood := by
  unfold State.writeV; split <;> [rfl; (split <;> rfl)]
@[simp] theorem writeV_tierSize (s : State) (c i : Nat) (l : List (Nat × Nat × Word)) : (s.writeV c i l).tierSize = s.tierSize := by
  unfold State.writeV; split <;> [rfl; (split <;> rfl)]
@[simp] theorem writeV_pkgnum (s : State) (c i : Nat) (l : List (Nat × Nat × Word)) : (s.writeV c i l).pkgnum = s.pkgnum := by
  unfold State.writeV; split <;> [rfl; (split <;> rfl)]
@[simp] theorem writeV_fenced (s : State) (c i : Nat) (l : List (Nat × Nat × Word)) : (s.writeV c i l).fenced = s.fenced := by
  unfold State.writeV; split <;> [rfl; (split <;> rfl)]
@[simp] theorem writeV_vce (s : State) (c i : Nat) (l : List (Nat × Nat × Word)) : (s.writeV c i l).vce = s.vce := by
  unfold State.writeV; split <;> [rfl; (split <;> rfl)]
@[simp] theorem writeV_sce (s : State) (c i : Nat) (l : List (Nat × Nat × Word)) : (s.writeV c i l).sce = s.sce := by
  unfold State.writeV; split <;> [rfl; (split <;> rfl)]
@[simp] theorem writeV_retry (s : State) (c i : Nat) (l : List (Nat × Nat × Word)) : (s.writeV c i l).retry = s.retry := by
  unfold State.writeV; split <;> [rfl; (split <;> rfl)]
@[simp] theorem writeV_ue (s : State) (c i : Nat) (l : List (Nat × Nat × Word)) : (s.writeV c i l).ue = s.ue := by
  unfold State.writeV; split <;> [rfl; (split <;> rfl)]
@[simp] theorem writeV_ueKind (s : State) (c i : Nat) (l : List (Nat × Nat × Word)) : (s.writeV c i l).ueKind = s.ueKind := by
  unfold State.writeV; split <;> [rfl; (split <;> rfl)]
@[simp] theorem writeV_ueCore (s : State) (c i : Nat) (l : List (Nat × Nat × Word)) : (s.writeV c i l).ueCore = s.ueCore := by
  unfold State.writeV; split <;> [rfl; (split <;> rfl)]
@[simp] theorem writeV_ueAddr (s : State) (c i : Nat) (l : List (Nat × Nat × Word)) : (s.writeV c i l).ueAddr = s.ueAddr := by
  unfold State.writeV; split <;> [rfl; (split <;> rfl)]
@[simp] theorem writeV_links (s : State) (c i : Nat) (l : List (Nat × Nat × Word)) : (s.writeV c i l).links = s.links := by
  unfold State.writeV; split <;> [rfl; (split <;> rfl)]
@[simp] theorem writeV_route (s : State) (c i : Nat) (l : List (Nat × Nat × Word)) : (s.writeV c i l).route = s.route := by
  unfold State.writeV; split <;> [rfl; (split <;> rfl)]
@[simp] theorem writeV_pair (s : State) (c i : Nat) (l : List (Nat × Nat × Word)) : (s.writeV c i l).pair = s.pair := by
  unfold State.writeV; split <;> [rfl; (split <;> rfl)]
@[simp] theorem writeV_peerPair (s : State) (c i : Nat) (l : List (Nat × Nat × Word)) : (s.writeV c i l).peerPair = s.peerPair := by
  unfold State.writeV; split <;> [rfl; (split <;> rfl)]
@[simp] theorem writeV_throttle (s : State) (c i : Nat) (l : List (Nat × Nat × Word)) : (s.writeV c i l).throttle = s.throttle := by
  unfold State.writeV; split <;> [rfl; (split <;> rfl)]
@[simp] theorem writeV_failed (s : State) (c i : Nat) (l : List (Nat × Nat × Word)) : (s.writeV c i l).failed = s.failed := by
  unfold State.writeV; split <;> [rfl; (split <;> rfl)]
@[simp] theorem writeV_failMap (s : State) (c i : Nat) (l : List (Nat × Nat × Word)) : (s.writeV c i l).failMap = s.failMap := by
  unfold State.writeV; split <;> [rfl; (split <;> rfl)]
@[simp] theorem writeV_spares (s : State) (c i : Nat) (l : List (Nat × Nat × Word)) : (s.writeV c i l).spares = s.spares := by
  unfold State.writeV; split <;> [rfl; (split <;> rfl)]
@[simp] theorem writeV_coreErrs (s : State) (c i : Nat) (l : List (Nat × Nat × Word)) : (s.writeV c i l).coreErrs = s.coreErrs := by
  unfold State.writeV; split <;> [rfl; (split <;> rfl)]
@[simp] theorem writeV_late (s : State) (c i : Nat) (l : List (Nat × Nat × Word)) : (s.writeV c i l).late = s.late := by
  unfold State.writeV; split <;> [rfl; (split <;> rfl)]
@[simp] theorem writeV_rollback (s : State) (c i : Nat) (l : List (Nat × Nat × Word)) : (s.writeV c i l).rollback = s.rollback := by
  unfold State.writeV; split <;> [rfl; (split <;> rfl)]
@[simp] theorem writeV_fwVersion (s : State) (c i : Nat) (l : List (Nat × Nat × Word)) : (s.writeV c i l).fwVersion = s.fwVersion := by
  unfold State.writeV; split <;> [rfl; (split <;> rfl)]
@[simp] theorem writeV_fwGood (s : State) (c i : Nat) (l : List (Nat × Nat × Word)) : (s.writeV c i l).fwGood = s.fwGood := by
  unfold State.writeV; split <;> [rfl; (split <;> rfl)]
@[simp] theorem writeV_spdm (s : State) (c i : Nat) (l : List (Nat × Nat × Word)) : (s.writeV c i l).spdm = s.spdm := by
  unfold State.writeV; split <;> [rfl; (split <;> rfl)]

/-! ## A core's fields after an update of one of them -/

@[simp] theorem core_setGroup_regs (k : Core) (i : Nat) (g : Option Group) : (k.setGroup i g).regs = k.regs := rfl
@[simp] theorem core_setGroup_sp (k : Core) (i : Nat) (g : Option Group) : (k.setGroup i g).sp = k.sp := rfl
@[simp] theorem core_setGroup_shownSp (k : Core) (i : Nat) (g : Option Group) : (k.setGroup i g).shownSp = k.shownSp := rfl
@[simp] theorem core_setGroup_shownRegs (k : Core) (i : Nat) (g : Option Group) : (k.setGroup i g).shownRegs = k.shownRegs := rfl
@[simp] theorem core_setGroup_vault (k : Core) (i : Nat) (g : Option Group) : (k.setGroup i g).vault = k.vault := rfl
@[simp] theorem core_setGroup_acc (k : Core) (i : Nat) (g : Option Group) : (k.setGroup i g).acc = k.acc := rfl
@[simp] theorem core_setGroup_planes (k : Core) (i : Nat) (g : Option Group) : (k.setGroup i g).planes = k.planes := rfl
@[simp] theorem core_setGroup_act (k : Core) (i : Nat) (g : Option Group) : (k.setGroup i g).act = k.act := rfl
@[simp] theorem core_setGroup_tables (k : Core) (i : Nat) (g : Option Group) : (k.setGroup i g).tables = k.tables := rfl
@[simp] theorem core_setGroup_mq (k : Core) (i : Nat) (g : Option Group) : (k.setGroup i g).mq = k.mq := rfl
@[simp] theorem core_setGroup_mclosed (k : Core) (i : Nat) (g : Option Group) : (k.setGroup i g).mclosed = k.mclosed := rfl
@[simp] theorem core_setGroup_mdone (k : Core) (i : Nat) (g : Option Group) : (k.setGroup i g).mdone = k.mdone := rfl
@[simp] theorem core_setGroup_stall (k : Core) (i : Nat) (g : Option Group) : (k.setGroup i g).stall = k.stall := rfl
@[simp] theorem core_setGroup_mowner (k : Core) (i : Nat) (g : Option Group) : (k.setGroup i g).mowner = k.mowner := rfl
@[simp] theorem core_setGroup_uses (k : Core) (i : Nat) (g : Option Group) : (k.setGroup i g).uses = k.uses := rfl
@[simp] theorem core_setGroup_otherUse (k : Core) (i : Nat) (g : Option Group) : (k.setGroup i g).otherUse = k.otherUse := rfl
@[simp] theorem core_setGroup_times (k : Core) (i : Nat) (g : Option Group) : (k.setGroup i g).times = k.times := rfl
@[simp] theorem core_setGroup_cruiser (k : Core) (i : Nat) (g : Option Group) : (k.setGroup i g).cruiser = k.cruiser := rfl
@[simp] theorem core_setGroup_run (k : Core) (i : Nat) (g : Option Group) : (k.setGroup i g).run = k.run := rfl
@[simp] theorem core_setGroup_lsFault (k : Core) (i : Nat) (g : Option Group) : (k.setGroup i g).lsFault = k.lsFault := rfl
@[simp] theorem core_setGroup_lsEmit (k : Core) (i : Nat) (g : Option Group) : (k.setGroup i g).lsEmit = k.lsEmit := rfl
@[simp] theorem core_setGroup_lsCount (k : Core) (i : Nat) (g : Option Group) : (k.setGroup i g).lsCount = k.lsCount := rfl
@[simp] theorem core_setGroup_lsRan (k : Core) (i : Nat) (g : Option Group) : (k.setGroup i g).lsRan = k.lsRan := rfl
@[simp] theorem core_setGroup_copies (k : Core) (i : Nat) (g : Option Group) : (k.setGroup i g).copies = k.copies := rfl
@[simp] theorem core_setGroup_decq (k : Core) (i : Nat) (g : Option Group) : (k.setGroup i g).decq = k.decq := rfl
@[simp] theorem core_setGroup_dcache (k : Core) (i : Nat) (g : Option Group) : (k.setGroup i g).dcache = k.dcache := rfl
@[simp] theorem core_setGroup_xpipe (k : Core) (i : Nat) (g : Option Group) : (k.setGroup i g).xpipe = k.xpipe := rfl
@[simp] theorem core_setGroup_xptaken (k : Core) (i : Nat) (g : Option Group) : (k.setGroup i g).xptaken = k.xptaken := rfl
@[simp] theorem core_setGroup_ctxs (k : Core) (i : Nat) (g : Option Group) : (k.setGroup i g).ctxs = k.ctxs := rfl
@[simp] theorem core_setGroup_cq (k : Core) (i : Nat) (g : Option Group) : (k.setGroup i g).cq = k.cq := rfl
@[simp] theorem core_setGroup_recq (k : Core) (i : Nat) (g : Option Group) : (k.setGroup i g).recq = k.recq := rfl
@[simp] theorem core_setGroup_tangc (k : Core) (i : Nat) (g : Option Group) : (k.setGroup i g).tangc = k.tangc := rfl
@[simp] theorem core_setGroup_xlate (k : Core) (i : Nat) (g : Option Group) : (k.setGroup i g).xlate = k.xlate := rfl
@[simp] theorem core_setGroup_wpa (k : Core) (i : Nat) (g : Option Group) : (k.setGroup i g).wpa = k.wpa := rfl
@[simp] theorem core_setGroup_wpctl (k : Core) (i : Nat) (g : Option Group) : (k.setGroup i g).wpctl = k.wpctl := rfl
@[simp] theorem core_setGroup_wpact (k : Core) (i : Nat) (g : Option Group) : (k.setGroup i g).wpact = k.wpact := rfl
@[simp] theorem core_setGroup_brkf (k : Core) (i : Nat) (g : Option Group) : (k.setGroup i g).brkf = k.brkf := rfl
@[simp] theorem core_setGroup_sgrp (k : Core) (i : Nat) (g : Option Group) : (k.setGroup i g).sgrp = k.sgrp := rfl
@[simp] theorem core_setGroup_step (k : Core) (i : Nat) (g : Option Group) : (k.setGroup i g).step = k.step := rfl
@[simp] theorem core_setGroup_stepb (k : Core) (i : Nat) (g : Option Group) : (k.setGroup i g).stepb = k.stepb := rfl
@[simp] theorem core_setGroup_tlb (k : Core) (i : Nat) (g : Option Group) : (k.setGroup i g).tlb = k.tlb := rfl
@[simp] theorem core_setGroup_itlb (k : Core) (i : Nat) (g : Option Group) : (k.setGroup i g).itlb = k.itlb := rfl
@[simp] theorem core_setGroup_lastPage (k : Core) (i : Nat) (g : Option Group) : (k.setGroup i g).lastPage = k.lastPage := rfl
@[simp] theorem core_setGroup_icache (k : Core) (i : Nat) (g : Option Group) : (k.setGroup i g).icache = k.icache := rfl
@[simp] theorem core_setGroup_walks (k : Core) (i : Nat) (g : Option Group) : (k.setGroup i g).walks = k.walks := rfl
@[simp] theorem core_setGroup_atoms (k : Core) (i : Nat) (g : Option Group) : (k.setGroup i g).atoms = k.atoms := rfl
@[simp] theorem core_setGroup_xfers (k : Core) (i : Nat) (g : Option Group) : (k.setGroup i g).xfers = k.xfers := rfl
@[simp] theorem core_setGroup_moves (k : Core) (i : Nat) (g : Option Group) : (k.setGroup i g).moves = k.moves := rfl
@[simp] theorem core_setGroup_teams (k : Core) (i : Nat) (g : Option Group) : (k.setGroup i g).teams = k.teams := rfl
@[simp] theorem core_setGroup_acks (k : Core) (i : Nat) (g : Option Group) : (k.setGroup i g).acks = k.acks := rfl
@[simp] theorem core_setGroup_early (k : Core) (i : Nat) (g : Option Group) : (k.setGroup i g).early = k.early := rfl
@[simp] theorem core_setGroup_begun (k : Core) (i : Nat) (g : Option Group) : (k.setGroup i g).begun = k.begun := rfl

@[simp] theorem core_setTeam_regs (k : Core) (j : Nat) (t : Option Team) : (k.setTeam j t).regs = k.regs := rfl
@[simp] theorem core_setTeam_sp (k : Core) (j : Nat) (t : Option Team) : (k.setTeam j t).sp = k.sp := rfl
@[simp] theorem core_setTeam_shownSp (k : Core) (j : Nat) (t : Option Team) : (k.setTeam j t).shownSp = k.shownSp := rfl
@[simp] theorem core_setTeam_shownRegs (k : Core) (j : Nat) (t : Option Team) : (k.setTeam j t).shownRegs = k.shownRegs := rfl
@[simp] theorem core_setTeam_vault (k : Core) (j : Nat) (t : Option Team) : (k.setTeam j t).vault = k.vault := rfl
@[simp] theorem core_setTeam_acc (k : Core) (j : Nat) (t : Option Team) : (k.setTeam j t).acc = k.acc := rfl
@[simp] theorem core_setTeam_planes (k : Core) (j : Nat) (t : Option Team) : (k.setTeam j t).planes = k.planes := rfl
@[simp] theorem core_setTeam_act (k : Core) (j : Nat) (t : Option Team) : (k.setTeam j t).act = k.act := rfl
@[simp] theorem core_setTeam_tables (k : Core) (j : Nat) (t : Option Team) : (k.setTeam j t).tables = k.tables := rfl
@[simp] theorem core_setTeam_mq (k : Core) (j : Nat) (t : Option Team) : (k.setTeam j t).mq = k.mq := rfl
@[simp] theorem core_setTeam_mclosed (k : Core) (j : Nat) (t : Option Team) : (k.setTeam j t).mclosed = k.mclosed := rfl
@[simp] theorem core_setTeam_mdone (k : Core) (j : Nat) (t : Option Team) : (k.setTeam j t).mdone = k.mdone := rfl
@[simp] theorem core_setTeam_stall (k : Core) (j : Nat) (t : Option Team) : (k.setTeam j t).stall = k.stall := rfl
@[simp] theorem core_setTeam_mowner (k : Core) (j : Nat) (t : Option Team) : (k.setTeam j t).mowner = k.mowner := rfl
@[simp] theorem core_setTeam_uses (k : Core) (j : Nat) (t : Option Team) : (k.setTeam j t).uses = k.uses := rfl
@[simp] theorem core_setTeam_otherUse (k : Core) (j : Nat) (t : Option Team) : (k.setTeam j t).otherUse = k.otherUse := rfl
@[simp] theorem core_setTeam_times (k : Core) (j : Nat) (t : Option Team) : (k.setTeam j t).times = k.times := rfl
@[simp] theorem core_setTeam_cruiser (k : Core) (j : Nat) (t : Option Team) : (k.setTeam j t).cruiser = k.cruiser := rfl
@[simp] theorem core_setTeam_run (k : Core) (j : Nat) (t : Option Team) : (k.setTeam j t).run = k.run := rfl
@[simp] theorem core_setTeam_lsFault (k : Core) (j : Nat) (t : Option Team) : (k.setTeam j t).lsFault = k.lsFault := rfl
@[simp] theorem core_setTeam_lsEmit (k : Core) (j : Nat) (t : Option Team) : (k.setTeam j t).lsEmit = k.lsEmit := rfl
@[simp] theorem core_setTeam_lsCount (k : Core) (j : Nat) (t : Option Team) : (k.setTeam j t).lsCount = k.lsCount := rfl
@[simp] theorem core_setTeam_lsRan (k : Core) (j : Nat) (t : Option Team) : (k.setTeam j t).lsRan = k.lsRan := rfl
@[simp] theorem core_setTeam_copies (k : Core) (j : Nat) (t : Option Team) : (k.setTeam j t).copies = k.copies := rfl
@[simp] theorem core_setTeam_decq (k : Core) (j : Nat) (t : Option Team) : (k.setTeam j t).decq = k.decq := rfl
@[simp] theorem core_setTeam_dcache (k : Core) (j : Nat) (t : Option Team) : (k.setTeam j t).dcache = k.dcache := rfl
@[simp] theorem core_setTeam_xpipe (k : Core) (j : Nat) (t : Option Team) : (k.setTeam j t).xpipe = k.xpipe := rfl
@[simp] theorem core_setTeam_xptaken (k : Core) (j : Nat) (t : Option Team) : (k.setTeam j t).xptaken = k.xptaken := rfl
@[simp] theorem core_setTeam_ctxs (k : Core) (j : Nat) (t : Option Team) : (k.setTeam j t).ctxs = k.ctxs := rfl
@[simp] theorem core_setTeam_cq (k : Core) (j : Nat) (t : Option Team) : (k.setTeam j t).cq = k.cq := rfl
@[simp] theorem core_setTeam_recq (k : Core) (j : Nat) (t : Option Team) : (k.setTeam j t).recq = k.recq := rfl
@[simp] theorem core_setTeam_tangc (k : Core) (j : Nat) (t : Option Team) : (k.setTeam j t).tangc = k.tangc := rfl
@[simp] theorem core_setTeam_xlate (k : Core) (j : Nat) (t : Option Team) : (k.setTeam j t).xlate = k.xlate := rfl
@[simp] theorem core_setTeam_wpa (k : Core) (j : Nat) (t : Option Team) : (k.setTeam j t).wpa = k.wpa := rfl
@[simp] theorem core_setTeam_wpctl (k : Core) (j : Nat) (t : Option Team) : (k.setTeam j t).wpctl = k.wpctl := rfl
@[simp] theorem core_setTeam_wpact (k : Core) (j : Nat) (t : Option Team) : (k.setTeam j t).wpact = k.wpact := rfl
@[simp] theorem core_setTeam_brkf (k : Core) (j : Nat) (t : Option Team) : (k.setTeam j t).brkf = k.brkf := rfl
@[simp] theorem core_setTeam_sgrp (k : Core) (j : Nat) (t : Option Team) : (k.setTeam j t).sgrp = k.sgrp := rfl
@[simp] theorem core_setTeam_step (k : Core) (j : Nat) (t : Option Team) : (k.setTeam j t).step = k.step := rfl
@[simp] theorem core_setTeam_stepb (k : Core) (j : Nat) (t : Option Team) : (k.setTeam j t).stepb = k.stepb := rfl
@[simp] theorem core_setTeam_tlb (k : Core) (j : Nat) (t : Option Team) : (k.setTeam j t).tlb = k.tlb := rfl
@[simp] theorem core_setTeam_itlb (k : Core) (j : Nat) (t : Option Team) : (k.setTeam j t).itlb = k.itlb := rfl
@[simp] theorem core_setTeam_lastPage (k : Core) (j : Nat) (t : Option Team) : (k.setTeam j t).lastPage = k.lastPage := rfl
@[simp] theorem core_setTeam_icache (k : Core) (j : Nat) (t : Option Team) : (k.setTeam j t).icache = k.icache := rfl
@[simp] theorem core_setTeam_walks (k : Core) (j : Nat) (t : Option Team) : (k.setTeam j t).walks = k.walks := rfl
@[simp] theorem core_setTeam_atoms (k : Core) (j : Nat) (t : Option Team) : (k.setTeam j t).atoms = k.atoms := rfl
@[simp] theorem core_setTeam_xfers (k : Core) (j : Nat) (t : Option Team) : (k.setTeam j t).xfers = k.xfers := rfl
@[simp] theorem core_setTeam_moves (k : Core) (j : Nat) (t : Option Team) : (k.setTeam j t).moves = k.moves := rfl
@[simp] theorem core_setTeam_groups (k : Core) (j : Nat) (t : Option Team) : (k.setTeam j t).groups = k.groups := rfl
@[simp] theorem core_setTeam_acks (k : Core) (j : Nat) (t : Option Team) : (k.setTeam j t).acks = k.acks := rfl
@[simp] theorem core_setTeam_early (k : Core) (j : Nat) (t : Option Team) : (k.setTeam j t).early = k.early := rfl
@[simp] theorem core_setTeam_begun (k : Core) (j : Nat) (t : Option Team) : (k.setTeam j t).begun = k.begun := rfl

/-! ## Reading after an update -/

theorem getD_set_same {α : Type} (l : List α) (i : Nat) (v d : α) (h : i < l.length) : (l.set i v).getD i d = v := by
  simp [List.getD, h]

theorem getD_set_other {α : Type} (l : List α) (i j : Nat) (v d : α) (h : j ≠ i) : (l.set i v).getD j d = l.getD j d := by
  simp [List.getD, h.symm]

/-- A core that holds a group is one of the device's. -/
theorem core_lt (s : State) (c slot : Nat) (g : Group) (h : s.group c slot = some g) : c < s.cores.length := by
  by_contra hc
  have hk : s.core c = Core.reset := by
    unfold State.core
    rw [List.getD_eq_default _ _ (Nat.le_of_not_lt hc)]
  have : s.group c slot = (List.replicate 16 (none : Option Group)).getD slot none := by
    unfold State.group Core.group
    rw [hk]
    rfl
  rw [this] at h
  rw [List.getD_eq_getElem?_getD, List.getElem?_replicate] at h
  split at h <;> cases h

/-- A slot that holds a group is one of the core's. -/
theorem slot_lt (k : Core) (slot : Nat) (g : Group) (h : k.group slot = some g) : slot < k.groups.length := by
  by_contra hc
  unfold Core.group at h
  rw [List.getD_eq_default _ _ (Nat.le_of_not_lt hc)] at h
  cases h

theorem core_setCore_same (s : State) (c : Nat) (k : Core) (h : c < s.cores.length) : (s.setCore c k).core c = k :=
  getD_set_same _ _ _ _ h

theorem core_setCore_other (s : State) (c d : Nat) (k : Core) (h : d ≠ c) : (s.setCore c k).core d = s.core d :=
  getD_set_other _ _ _ _ _ h

theorem core_modCore_same (s : State) (c : Nat) (f : Core → Core) (h : c < s.cores.length) :
    (s.modCore c f).core c = f (s.core c) := core_setCore_same s c _ h

theorem core_modCore_other (s : State) (c d : Nat) (f : Core → Core) (h : d ≠ c) : (s.modCore c f).core d = s.core d :=
  core_setCore_other s c d _ h

theorem group_setGroup_same (k : Core) (i : Nat) (g : Option Group) (h : i < k.groups.length) : (k.setGroup i g).group i = g :=
  getD_set_same _ _ _ _ h

theorem group_setGroup_other (k : Core) (i j : Nat) (g : Option Group) (h : j ≠ i) : (k.setGroup i g).group j = k.group j :=
  getD_set_other _ _ _ _ _ h

/-- A group that is resident is what `modGroup` makes of it. -/
theorem modGroup_some (s : State) (c slot : Nat) (f : Group → Group) (g : Group) (h : s.group c slot = some g) :
    s.modGroup c slot f = s.setGroup c slot (f g) := by
  unfold State.modGroup
  rw [h]

theorem group_setGroup (s : State) (c slot : Nat) (g g' : Group) (h : s.group c slot = some g) :
    (s.setGroup c slot g').group c slot = some g' := by
  have hc := core_lt s c slot g h
  unfold State.group State.setGroup
  rw [core_modCore_same s c _ hc]
  exact group_setGroup_same _ _ _ (slot_lt _ _ g h)

theorem group_modGroup (s : State) (c slot : Nat) (f : Group → Group) (g : Group) (h : s.group c slot = some g) :
    (s.modGroup c slot f).group c slot = some (f g) := by
  rw [modGroup_some s c slot f g h]
  exact group_setGroup s c slot g _ h

end Sys2Proof.Machine
end

