-- ==== Sys2Proof/Laws/Store.lean ====
section
/-! SUPPORT. The laws of sparse storage: every operation keeps the canonical form, and a read gives what was last written at
its address. -/

namespace Sys2Proof.Machine

open Sys2Proof

variable {w : Nat}

/-! ## Canonical form -/

theorem wf_iff (m : Store w) :
    Store.wf m = true ↔ m.Pairwise (fun x y => x.1 < y.1) ∧ ∀ e ∈ m, e.2 ≠ 0 := by
  simp [Store.wf]

@[simp] theorem wf_nil : Store.wf ([] : Store w) = true := rfl

theorem wf_filter (m : Store w) (p : Nat × BitVec w → Bool) (h : Store.wf m = true) :
    Store.wf (m.filter p) = true := by
  rw [wf_iff] at h ⊢
  exact ⟨h.1.filter _, fun e he => h.2 e (List.mem_of_mem_filter he)⟩

theorem wf_erase (m : Store w) (a : Nat) (h : Store.wf m = true) : Store.wf (Store.erase m a) = true := wf_filter m _ h

theorem wf_clear (m : Store w) (p : Nat → Bool) (h : Store.wf m = true) : Store.wf (Store.clear m p) = true :=
  wf_filter m _ h

theorem mem_insert (m : Store w) (a : Nat) (v : BitVec w) (e : Nat × BitVec w) :
    e ∈ Store.insert m a v ↔ e = (a, v) ∨ e ∈ m := by
  induction m with
  | nil => simp [Store.insert]
  | cons x t ih =>
    unfold Store.insert
    split
    · simp
    · simp only [List.mem_cons, ih]
      tauto

theorem wf_insert (m : Store w) (a : Nat) (v : BitVec w) (hv : v ≠ 0) (ha : ∀ e ∈ m, e.1 ≠ a)
    (h : Store.wf m = true) : Store.wf (Store.insert m a v) = true := by
  induction m with
  | nil =>
    rw [wf_iff]
    exact ⟨List.pairwise_singleton _ _, fun e he => by rw [List.mem_singleton.1 he]; exact hv⟩
  | cons x t ih =>
    rw [wf_iff] at h ⊢
    have ht : Store.wf t = true := by
      rw [wf_iff]
      exact ⟨(List.pairwise_cons.1 h.1).2, fun e he => h.2 e (List.mem_cons_of_mem _ he)⟩
    have hx := List.pairwise_cons.1 h.1
    have ih' := (wf_iff _).1 (ih (fun e he => ha e (List.mem_cons_of_mem _ he)) ht)
    unfold Store.insert
    split
    · rename_i hlt
      refine ⟨List.pairwise_cons.2 ⟨fun e he => ?_, h.1⟩, fun e he => ?_⟩
      · rcases List.mem_cons.1 he with rfl | he
        · exact hlt
        · exact lt_trans hlt (hx.1 e he)
      · rcases List.mem_cons.1 he with rfl | he
        · exact hv
        · exact h.2 e he
    · rename_i hlt
      have hne := ha x (List.mem_cons_self ..)
      refine ⟨List.pairwise_cons.2 ⟨fun e he => ?_, ih'.1⟩, fun e he => ?_⟩
      · rcases (mem_insert t a v e).1 he with rfl | he
        · exact show x.1 < a by omega
        · exact hx.1 e he
      · rcases List.mem_cons.1 he with rfl | he
        · exact h.2 _ (List.mem_cons_self ..)
        · exact ih'.2 e he

/-- Writing one cell keeps the canonical form. -/
theorem wf_write (m : Store w) (a : Nat) (v : BitVec w) (h : Store.wf m = true) : Store.wf (Store.write m a v) = true := by
  unfold Store.write
  split
  · exact wf_erase m a h
  · rename_i hv
    refine wf_insert _ a v hv (fun e he => ?_) (wf_erase m a h)
    have := (List.mem_filter.1 he).2
    simpa using this

/-- Writing several cells keeps the canonical form. -/
theorem wf_writeAll (l : List (Nat × BitVec w)) : ∀ m : Store w, Store.wf m = true → Store.wf (Store.writeAll m l) = true := by
  induction l with
  | nil => exact fun m h => h
  | cons e t ih => exact fun m h => ih _ (wf_write m e.1 e.2 h)

/-- Storing bytes keeps the canonical form. -/
theorem wf_store (m : Memory) (a : Nat) (bs : List Byte) (h : Memory.wf m = true) : Memory.wf (Memory.store m a bs) = true :=
  wf_writeAll _ m h

/-! ## Reading -/

@[simp] theorem read_nil (a : Nat) : Store.read ([] : Store w) a = 0 := rfl

theorem read_eq_zero (m : Store w) (a : Nat) (h : ∀ e ∈ m, e.1 ≠ a) : Store.read m a = 0 := by
  induction m with
  | nil => rfl
  | cons x t ih =>
    unfold Store.read
    rw [if_neg (h x (List.mem_cons_self ..))]
    exact ih (fun e he => h e (List.mem_cons_of_mem _ he))

theorem read_erase_same (m : Store w) (a : Nat) : Store.read (Store.erase m a) a = 0 :=
  read_eq_zero _ _ (fun e he => by simpa using (List.mem_filter.1 he).2)

theorem read_erase_other (m : Store w) (a b : Nat) (h : b ≠ a) : Store.read (Store.erase m a) b = Store.read m b := by
  induction m with
  | nil => rfl
  | cons x t ih =>
    unfold Store.erase at ih ⊢
    rw [List.filter_cons]
    split
    · unfold Store.read
      split
      · rfl
      · exact ih
    · rename_i hx
      have hxa : x.1 = a := by simpa using hx
      rw [ih]
      conv => rhs; unfold Store.read
      rw [if_neg (by omega)]

theorem read_insert_same (m : Store w) (a : Nat) (v : BitVec w) (h : ∀ e ∈ m, e.1 ≠ a) :
    Store.read (Store.insert m a v) a = v := by
  induction m with
  | nil => simp [Store.insert, Store.read]
  | cons x t ih =>
    unfold Store.insert
    split
    · simp [Store.read]
    · unfold Store.read
      rw [if_neg (h x (List.mem_cons_self ..))]
      exact ih (fun e he => h e (List.mem_cons_of_mem _ he))

theorem read_insert_other (m : Store w) (a b : Nat) (v : BitVec w) (h : b ≠ a) :
    Store.read (Store.insert m a v) b = Store.read m b := by
  induction m with
  | nil => simp [Store.insert, Store.read, h.symm]
  | cons x t ih =>
    unfold Store.insert
    split
    · conv => lhs; unfold Store.read
      rw [if_neg (fun hh => h hh.symm)]
    · unfold Store.read
      split
      · rfl
      · exact ih

/-- A read after a write to the same cell gives the value written. -/
@[simp] theorem read_write_same (m : Store w) (a : Nat) (v : BitVec w) : Store.read (Store.write m a v) a = v := by
  unfold Store.write
  split
  · rename_i hv
    rw [hv, read_erase_same]
  · exact read_insert_same _ _ _ (fun e he => by simpa using (List.mem_filter.1 he).2)

/-- A write leaves every other cell alone. -/
theorem read_write_other (m : Store w) (a b : Nat) (v : BitVec w) (h : b ≠ a) :
    Store.read (Store.write m a v) b = Store.read m b := by
  unfold Store.write
  split
  · exact read_erase_other m a b h
  · rw [read_insert_other _ _ _ _ h, read_erase_other m a b h]

/-- Writes leave every cell alone that none of them names. -/
theorem read_writeAll_other (l : List (Nat × BitVec w)) (b : Nat) (h : ∀ e ∈ l, e.1 ≠ b) :
    ∀ m : Store w, Store.read (Store.writeAll m l) b = Store.read m b := by
  induction l with
  | nil => exact fun _ => rfl
  | cons e t ih =>
    intro m
    have := ih (fun x hx => h x (List.mem_cons_of_mem _ hx)) (Store.write m e.1 e.2)
    simp only [Store.writeAll, List.foldl_cons] at this ⊢
    rw [this, read_write_other _ _ _ _ (fun hh => h e (List.mem_cons_self ..) hh.symm)]

/-- Of writes to distinct cells, each is read back. -/
theorem read_writeAll_mem (l : List (Nat × BitVec w)) (hd : (l.map (fun e => e.1)).Nodup) (e : Nat × BitVec w) (he : e ∈ l) :
    ∀ m : Store w, Store.read (Store.writeAll m l) e.1 = e.2 := by
  induction l with
  | nil => cases he
  | cons x t ih =>
    intro m
    simp only [List.map_cons, List.nodup_cons] at hd
    have hstep : Store.writeAll m (x :: t) = Store.writeAll (Store.write m x.1 x.2) t := rfl
    rcases List.mem_cons.1 he with rfl | he
    · rw [hstep, read_writeAll_other t _ (fun y hy hh => hd.1 (List.mem_map.2 ⟨y, hy, hh⟩)), read_write_same]
    · rw [hstep]
      exact ih hd.2 he _

/-- A byte outside the stored bytes reads as before. -/
theorem read_store_other (m : Memory) (a b : Nat) (bs : List Byte) (h : b < a ∨ a + bs.length ≤ b) :
    Store.read (Memory.store m a bs) b = Store.read m b := by
  refine read_writeAll_other _ b (fun e he => ?_) m
  obtain ⟨i, hi, rfl⟩ := List.mem_map.1 he
  have := List.mem_range.1 hi
  simp only
  omega

/-- A stored byte is read back. -/
theorem read_store_same (m : Memory) (a i : Nat) (bs : List Byte) (h : i < bs.length) :
    Store.read (Memory.store m a bs) (a + i) = bs.getD i 0 := by
  have hmem : (a + i, bs.getD i 0) ∈ (List.range bs.length).map (fun i => (a + i, bs.getD i 0)) :=
    List.mem_map.2 ⟨i, List.mem_range.2 h, rfl⟩
  have hd : (((List.range bs.length).map (fun i => (a + i, bs.getD i 0))).map (fun e => e.1)).Nodup := by
    rw [List.map_map]
    refine List.Nodup.map (fun x y hxy => ?_) List.nodup_range
    simp only [Function.comp] at hxy
    omega
  exact read_writeAll_mem _ hd _ hmem m

/-! ## Many cells at once -/

/-- Where the cells of a list of values lie. -/
theorem mem_ofList (a : Nat) (l : List (BitVec w)) (e : Nat × BitVec w) :
    e ∈ Store.ofList a l ↔ a ≤ e.1 ∧ l[e.1 - a]? = some e.2 ∧ e.2 ≠ 0 := by
  simp only [Store.ofList, List.mem_map, List.mem_filter, bne_iff_ne, ne_eq, Prod.exists]
  constructor
  · rintro ⟨v, n, ⟨hm, hv⟩, rfl⟩
    have := List.mem_zipIdx_iff_le_and_getElem?_sub.1 hm
    exact ⟨this.1, this.2, hv⟩
  · rintro ⟨h1, h2, h3⟩
    exact ⟨e.2, e.1, ⟨List.mem_zipIdx_iff_le_and_getElem?_sub.2 ⟨h1, h2⟩, h3⟩, rfl⟩

/-- The cells of a list of values are in canonical form. -/
theorem wf_ofList (a : Nat) (l : List (BitVec w)) : Store.wf (Store.ofList a l) = true := by
  rw [wf_iff]
  refine ⟨?_, fun e he => ((mem_ofList a l e).1 he).2.2⟩
  unfold Store.ofList
  rw [List.pairwise_map]
  refine List.Pairwise.filter _ ?_
  induction l generalizing a with
  | nil => exact List.Pairwise.nil
  | cons x t ih =>
    rw [List.zipIdx_cons, List.pairwise_cons]
    refine ⟨fun e he => ?_, ih (a + 1)⟩
    have := (List.mem_zipIdx_iff_le_and_getElem?_sub.1 he).1
    exact this

/-- Replacing cells keeps the canonical form. -/
theorem wf_splice (m : Store w) (a : Nat) (l : List (BitVec w)) (h : Store.wf m = true) :
    Store.wf (Store.splice m a l) = true := by
  have hm := (wf_iff m).1 h
  have hl := (wf_iff _).1 (wf_ofList a l)
  rw [wf_iff]
  unfold Store.splice Store.between
  refine ⟨?_, fun e he => ?_⟩
  · rw [List.pairwise_append, List.pairwise_append]
    refine ⟨hm.1.filter _, ⟨hl.1, hm.1.filter _, fun x hx y hy => ?_⟩, fun x hx y hy => ?_⟩
    · obtain ⟨h1, h2, -⟩ := (mem_ofList a l x).1 hx
      have hlen := (List.getElem?_eq_some_iff.1 h2).1
      have := (List.mem_filter.1 hy).2
      simp only [decide_eq_true_eq] at this
      omega
    · have hx2 := (List.mem_filter.1 hx).2
      simp only [decide_eq_true_eq] at hx2
      rcases List.mem_append.1 hy with hy | hy
      · have := ((mem_ofList a l y).1 hy).1
        omega
      · have := (List.mem_filter.1 hy).2
        simp only [decide_eq_true_eq] at this
        omega
  · rcases List.mem_append.1 he with he | he
    · exact hm.2 e (List.mem_of_mem_filter he)
    · rcases List.mem_append.1 he with he | he
      · exact hl.2 e he
      · exact hm.2 e (List.mem_of_mem_filter he)

/-- With rising addresses a cell that is listed is the one read. -/
theorem read_of_mem (m : Store w) (hp : m.Pairwise (fun x y => x.1 < y.1)) (e : Nat × BitVec w) (he : e ∈ m) :
    Store.read m e.1 = e.2 := by
  induction m with
  | nil => cases he
  | cons x t ih =>
    rw [List.pairwise_cons] at hp
    unfold Store.read
    rcases List.mem_cons.1 he with rfl | he
    · rw [if_pos rfl]
    · rw [if_neg (by have := hp.1 e he; omega)]
      exact ih hp.2 he

/-- The cells that pass a test of their address read as before. -/
theorem read_filter (m : Store w) (p : Nat → Bool) (hp : m.Pairwise (fun x y => x.1 < y.1)) (b : Nat) (hb : p b = true) :
    Store.read (m.filter (fun e => p e.1)) b = Store.read m b := by
  by_cases hm : ∃ v, (b, v) ∈ m
  · obtain ⟨v, hv⟩ := hm
    rw [read_of_mem m hp (b, v) hv]
    exact read_of_mem _ (hp.filter _) (b, v) (List.mem_filter.2 ⟨hv, hb⟩)
  · have h0 : ∀ e ∈ m, e.1 ≠ b := fun e he hh => hm ⟨e.2, by rw [← hh]; exact he⟩
    rw [read_eq_zero m b h0]
    exact read_eq_zero _ _ (fun e he => h0 e (List.mem_of_mem_filter he))

/-- A replaced cell reads as its value. -/
theorem read_splice_same (m : Store w) (a i : Nat) (l : List (BitVec w)) (h : Store.wf m = true) (hi : i < l.length) :
    Store.read (Store.splice m a l) (a + i) = l.getD i 0 := by
  have hg : l.getD i 0 = l[i] := by simp [hi]
  rw [hg]
  by_cases hv : l[i] = 0
  · rw [hv]
    refine read_eq_zero _ _ (fun e he hh => ?_)
    unfold Store.splice Store.between at he
    simp only [List.mem_append, List.mem_filter, decide_eq_true_eq, mem_ofList] at he
    rcases he with ⟨-, h1⟩ | ⟨h1, h2, h3⟩ | ⟨-, h1⟩
    · omega
    · rw [hh, Nat.add_sub_cancel_left, List.getElem?_eq_getElem hi, Option.some_inj] at h2
      exact h3 (h2 ▸ hv)
    · omega
  · exact read_of_mem _ ((wf_iff _).1 (wf_splice m a l h)).1 (a + i, l[i]) (by
      unfold Store.splice Store.between
      refine List.mem_append.2 (Or.inr (List.mem_append.2 (Or.inl ((mem_ofList a l _).2 ⟨?_, ?_, hv⟩))))
      · simp only
        omega
      · simp only [Nat.add_sub_cancel_left]
        exact List.getElem?_eq_getElem hi)

/-- A cell outside those replaced reads as before. -/
theorem read_splice_other (m : Store w) (a b : Nat) (l : List (BitVec w)) (h : Store.wf m = true) (hb : b < a ∨ a + l.length ≤ b) :
    Store.read (Store.splice m a l) b = Store.read m b := by
  by_cases hm : ∃ v, (b, v) ∈ m
  · obtain ⟨v, hv⟩ := hm
    rw [read_of_mem m ((wf_iff m).1 h).1 (b, v) hv]
    refine read_of_mem _ ((wf_iff _).1 (wf_splice m a l h)).1 (b, v) ?_
    unfold Store.splice Store.between
    rcases hb with hb | hb
    · exact List.mem_append.2 (Or.inl (List.mem_filter.2 ⟨hv, by simpa using hb⟩))
    · exact List.mem_append.2 (Or.inr (List.mem_append.2 (Or.inr (List.mem_filter.2 ⟨hv, by simpa using hb⟩))))
  · rw [read_eq_zero m b (fun e he hh => hm ⟨e.2, hh ▸ he⟩)]
    refine read_eq_zero _ _ (fun e he hh => ?_)
    unfold Store.splice Store.between at he
    simp only [List.mem_append, List.mem_filter, mem_ofList] at he
    rcases he with ⟨h1, -⟩ | ⟨h1, h2, -⟩ | ⟨h1, -⟩
    · exact hm ⟨e.2, hh ▸ h1⟩
    · have := (List.getElem?_eq_some_iff.1 h2).1
      omega
    · exact hm ⟨e.2, hh ▸ h1⟩

/-- A walk along the cells from `a` on reads them one by one. -/
theorem span_walk (n a : Nat) (m : Store w) (acc : List (BitVec w)) (hp : m.Pairwise (fun x y => x.1 < y.1))
    (ha : ∀ e ∈ m, a ≤ e.1) :
    ((List.range n).foldl (fun x i => Store.walkOne (a + i) x) (acc, m)).1 =
      ((List.range n).map (fun i => Store.read m (a + i))).reverse ++ acc := by
  induction n generalizing a m acc with
  | zero => rfl
  | succ n ih =>
    have hf : (fun (x : List (BitVec w) × Store w) (i : Nat) => Store.walkOne (a + Nat.succ i) x) =
        fun x i => Store.walkOne (a + 1 + i) x := by
      funext x i
      rw [show a + Nat.succ i = a + 1 + i by omega]
    have hg : (fun i => Store.read m (a + i)) ∘ Nat.succ = fun i => Store.read m (a + 1 + i) := by
      funext i
      show Store.read m (a + Nat.succ i) = _
      rw [show a + Nat.succ i = a + 1 + i by omega]
    have hstep : Store.walkOne (a + 0) (acc, m) = (Store.read m a :: acc, m.filter (fun e => decide (a + 1 ≤ e.1))) := by
      unfold Store.walkOne
      cases m with
      | nil => rfl
      | cons e t =>
        rw [List.pairwise_cons] at hp
        have ht : t.filter (fun e => decide (a + 1 ≤ e.1)) = t := List.filter_eq_self.2 (fun x hx => by
          have := ha e (List.mem_cons_self ..)
          have := hp.1 x hx
          simp only [decide_eq_true_eq]
          omega)
        have hle := ha e (List.mem_cons_self ..)
        by_cases hea : e.1 = a
        · simp only [Nat.add_zero, if_pos hea, Store.read, List.filter_cons]
          rw [if_neg (by simp only [decide_eq_true_eq]; omega), ht]
        · simp only [Nat.add_zero, if_neg hea, Store.read, List.filter_cons]
          rw [if_pos (by simp only [decide_eq_true_eq]; omega), ht, read_eq_zero t a (fun x hx hh => by
            have := hp.1 x hx
            omega)]
    rw [List.range_succ_eq_map, List.foldl_cons, List.foldl_map, List.map_cons, List.map_map, List.reverse_cons, List.append_assoc,
      List.singleton_append, hstep, hf, hg, Nat.add_zero, ih (a + 1) _ _ (hp.filter _) (fun e he => by
        simpa using (List.mem_filter.1 he).2)]
    congr 2
    exact List.map_congr_left (fun i _ => read_filter m (fun x => decide (a + 1 ≤ x)) hp _ (by
      simp only [decide_eq_true_eq]
      omega))

/-- A walk from an address reads what reading cell by cell gives. -/
theorem span_eq (m : Store w) (a n : Nat) (h : Store.wf m = true) :
    Store.span m a n = (List.range n).map (fun i => Store.read m (a + i)) := by
  have hw := wf_filter m (fun e => decide (a ≤ e.1)) h
  unfold Store.span
  rw [span_walk n a _ [] ((wf_iff _).1 hw).1 (fun e he => by simpa using (List.mem_filter.1 he).2), List.append_nil,
    List.reverse_reverse]
  exact List.map_congr_left (fun i _ => read_filter m (fun x => decide (a ≤ x)) ((wf_iff m).1 h).1 _ (by
    simp only [decide_eq_true_eq]
    omega))

end Sys2Proof.Machine
end

