-- ==== Sys2Proof/Laws/Engines.lean ====
section
/-! SUPPORT. What the operations of the page walker, the copy engine, the matrix unit's clock, the end of a team, what a core
shows to others and the straggler count can do, each said once, so that a proof about an event need not unfold them. -/

namespace Sys2Proof.Laws

open Sys2Proof Sys2Proof.Machine

/-! ## Leaves (R320) -/

/-- Setting A and D in a leaf touches the host's memory and the apertures' leaves alone. -/
theorem touchLeaf_host_or_parts (s : State) (p : Nat) (l : Leaf) (isStore : Bool) :
    (∃ m, s.touchLeaf p l isStore = { s with host := m }) ∨ ∃ f, s.touchLeaf p l isStore = s.modPart p f := by
  simp only [State.touchLeaf]
  split
  · exact .inl ⟨s.host, rfl⟩
  · unfold State.putLeaf
    split
    · exact .inl ⟨_, rfl⟩
    · exact .inr ⟨_, rfl⟩

@[simp] theorem touchLeaf_cores (s : State) (p : Nat) (l : Leaf) (isStore : Bool) : (s.touchLeaf p l isStore).cores = s.cores := by
  obtain ⟨_, h⟩ | ⟨_, h⟩ := touchLeaf_host_or_parts s p l isStore
  · rw [h]
  · rw [h]; rfl

@[simp] theorem touchLeaf_clusters (s : State) (p : Nat) (l : Leaf) (isStore : Bool) :
    (s.touchLeaf p l isStore).clusters = s.clusters := by
  obtain ⟨_, h⟩ | ⟨_, h⟩ := touchLeaf_host_or_parts s p l isStore
  · rw [h]
  · rw [h]; rfl

@[simp] theorem touchLeaf_grids (s : State) (p : Nat) (l : Leaf) (isStore : Bool) : (s.touchLeaf p l isStore).grids = s.grids := by
  obtain ⟨_, h⟩ | ⟨_, h⟩ := touchLeaf_host_or_parts s p l isStore
  · rw [h]
  · rw [h]; rfl

/-! ## The copy engine's queue (R332) and its clock (R266) -/

@[simp] theorem copyAt_zero (k : Core) : k.copyAt 0 = k.copies.head? := rfl
@[simp] theorem copyAt_succ (k : Core) (n : Nat) : k.copyAt (n + 1) = none := rfl

theorem copyDue_of_not_timed {k : Core} {x : CopyCmd} (h : k.timed x = false) (now : Nat) : k.copyDue x now = true := by
  simp [Core.copyDue, h]

theorem copyDue_iff (k : Core) (x : CopyCmd) (now : Nat) : k.copyDue x now = true ↔ (k.timed x = true → x.ends ≤ now) := by
  cases h : k.timed x <;> simp [Core.copyDue, h]

/-- A copy that does not stand at the head of its queue changes nothing. -/
theorem copyComplete_behind (c : Fin 256) (n : Nat) (s : State) : execCopyComplete c (n + 1) s = .next s := rfl

/-! ## The matrix unit's clock (R266) -/

/-- A command of a core that something else has used is due as soon as it is ready. -/
theorem matrixDue_of_not_timed {k : Core} {x : MCmd} (h : k.unitTimed x = false) (now : Nat) :
    k.matrixDue x now = k.matrixReady x := by simp [Core.matrixDue, h]

theorem matrixDue_iff (k : Core) (x : MCmd) (now : Nat) :
    k.matrixDue x now = true ↔ k.matrixReady x = true ∧ (k.unitTimed x = true → k.endsAt x ≤ now) := by
  cases h : k.unitTimed x <;> simp [Core.matrixDue, h]

/-- A command with no rows in the vault may end exactly when it is due. -/
theorem unitDue_of_no_vaultRows {s : State} {c : Nat} {x : MCmd} (h : x.vaultRows = 0) :
    s.unitDue c x = (s.core c).matrixDue x s.clock := by simp [State.unitDue, h]

theorem matrixReady_of_due {k : Core} {x : MCmd} {now : Nat} (h : k.matrixDue x now = true) : k.matrixReady x = true := by
  unfold Core.matrixDue at h
  exact (Bool.and_eq_true_iff.mp h).1

/-! ## The end of a team (R110, R206, R361) -/

/-- What trying to end a team does: nothing, or its end. -/
theorem tryEndTeam_cases (s : State) (c j : Nat) : s.tryEndTeam c j = s ∨ s.tryEndTeam c j = s.endTeam c j := by
  simp only [State.tryEndTeam]
  split
  · exact .inl rfl
  · split
    · exact .inr rfl
    · exact .inl rfl

/-- A slot that holds no team has none to end. -/
theorem endTeam_of_no_team {s : State} {c j : Nat} (h : s.team c j = none) : s.endTeam c j = s := by simp [State.endTeam, h]

/-! ## What a core shows in an X-phase (R329) -/

@[simp] theorem modSp_sp (k : Core) (f : Memory → Memory) : (k.modSp f).sp = f k.sp := rfl
@[simp] theorem modSp_shownSp (k : Core) (f : Memory → Memory) : (k.modSp f).shownSp = k.shownSp.map f := rfl
@[simp] theorem modRegs_regs (k : Core) (f : Store 32 → Store 32) : (k.modRegs f).regs = f k.regs := rfl
@[simp] theorem modRegs_shownRegs (k : Core) (f : Store 32 → Store 32) : (k.modRegs f).shownRegs = k.shownRegs.map f := rfl

/-- A change by a transfer leaves everything of the core but its scratchpad and what it shows of it. -/
theorem modSp_rest (k : Core) (f : Memory → Memory) : { k.modSp f with sp := k.sp, shownSp := k.shownSp } = k := rfl
theorem modRegs_rest (k : Core) (f : Store 32 → Store 32) : { k.modRegs f with regs := k.regs, shownRegs := k.shownRegs } = k := rfl

/-- A core reads its own registers as they stand, and so does another where none are kept as they were. -/
theorem regBytes_now (s : State) (c d i : Nat) (g : Group) (r : Nat) (h : d = c ∨ (s.core d).shownRegs = none) :
    (s.regBytes c d i g r).1 = s := by
  rcases h with rfl | h <;> simp [State.regBytes, *]

/-! ## The straggler count (R102) -/

@[simp] theorem stopCount_stragOn (p : Partition) : p.stopCount.stragOn = false := rfl
@[simp] theorem stopCount_strag (p : Partition) : p.stopCount.strag = 0 := rfl
@[simp] theorem stopCount_stragFired (p : Partition) : p.stopCount.stragFired = false := rfl
theorem stopCount_rest (p : Partition) :
    { p.stopCount with stragOn := p.stragOn, strag := p.strag, stragFired := p.stragFired } = p := rfl

/-! ## A partition that closes (R380) -/

@[simp] theorem close_opened (p : Partition) : p.close.opened = false := rfl
@[simp] theorem close_key (p : Partition) : p.close.key = none := rfl
@[simp] theorem close_ncl (p : Partition) : p.close.ncl = 0 := rfl
@[simp] theorem close_phcnt (p : Partition) : p.close.phcnt = p.phcnt := rfl

/-- No core is a closed partition's. -/
theorem close_coreList (p : Partition) : p.close.coreList = [] := rfl

end Sys2Proof.Laws
end

