-- ==== Sys2Proof/Laws/Words.lean ====
section
/-! SUPPORT. What the shared operations of a word do: its environment, the passing of its checks, its writes, its latch
record and its advance. -/

namespace Sys2Proof.Machine

open Sys2Proof

/-! ## The environment -/

/-- What an environment says of the state it was taken from. -/
structure Env.Of (e : Env) (s : State) : Prop where
  core : e.core = s.cur.core
  slot : e.slot = s.cur.slot
  split : e.split = s.cur.split
  k : e.k = s.core e.core
  g : s.group e.core e.slot = some e.g
  sp : e.g.split e.split = some e.sp
  gr : e.gr = s.grid e.g.grid
  pt : e.pt = s.part (s.grid e.g.grid).part

theorem env_of {s : State} {pg : Nat} {pn : Bool} {e : Env} (h : s.env pg pn = some e) :
    e.Of s ∧ e.act = e.sp.mask &&& e.g.passing pg pn := by
  unfold State.env at h
  split at h
  · cases h
  · rename_i g hg
    split at h
    · cases h
    · rename_i sp hsp
      cases h
      exact ⟨⟨rfl, rfl, rfl, rfl, hg, hsp, rfl, rfl⟩, rfl⟩

theorem Form.Ready.of {f : Form} {e : Env} {s : State} (h : f.Ready e s) : e.Of s := (env_of h.env).1

/-- A computed `Form.meets` gives the readiness that the statements about words ask for, with its condition. -/
theorem Form.ready_of_meets {f : Form} {s : State} {cond : Env → Bool} (h : f.meets s cond = true) :
    ∃ e, f.Ready e s ∧ cond e = true := by
  unfold Form.meets at h
  split at h
  · cases h
  · rename_i e he
    simp only [Bool.and_eq_true, Bool.not_eq_true', Option.isNone_iff_eq_none] at h
    obtain ⟨⟨⟨⟨⟨h1, h2⟩, h3⟩, h4⟩, h5⟩, h6⟩ := h
    refine ⟨e, ⟨he, h1, h2, ?_, h3, h4⟩, h6⟩
    split at h5
    · rename_i b hb
      rw [hb]
      simp only [Bool.not_eq_true'] at h5
      rw [h5]
    · cases h5

/-! ## Running a word -/

/-- A word that is ready does what its own effect says. -/
theorem runWord_ready {f : Form} {e : Env} {s : State} (h : f.Ready e s) (body : Env → State → Except Trap Eff) :
    runWord f body s =
      match body e s with
      | .error t => .next (e.trapAt s s t e.sp.pc)
      | .ok (.done s') => .next (e.advance (e.latch f s'))
      | .ok (.jump s') => .next s'
      | .ok (.hold s') => .next s'
      | .ok (.trap s' t) => .next (e.trapAt s s' t e.sp.pc) := by
  unfold runWord
  simp only [h.env, h.due, h.settled, h.checked, Bool.false_eq_true, if_false] <;> rfl

theorem runEff_ready {f : Form} {e : Env} {s : State} (h : f.Ready e s) (eff : Env → State → State) :
    runEff f eff s = .next (e.advance (e.latch f (eff e s))) := by
  unfold runEff
  rw [runWord_ready h]

theorem runGroup_ready {f : Form} {e : Env} {s : State} (h : f.grouped.Ready e s) (ha : e.act ≠ 0)
    (body : Env → State → Except Trap Eff) :
    runGroup f body s =
      match body e s with
      | .error t => .next (e.trapAt s s t e.sp.pc)
      | .ok (.done s') => .next (e.advance (e.latch f.grouped s'))
      | .ok (.jump s') => .next s'
      | .ok (.hold s') => .next s'
      | .ok (.trap s' t) => .next (e.trapAt s s' t e.sp.pc) := by
  have := runWord_ready h (fun e s => if e.act = 0 then .ok (.done s) else body e s)
  simp only [ha, if_false] at this
  exact this

/-! ## Only the group -/

theorem OnlyGroup.refl {e : Env} {s : State} (h : e.Of s) : OnlyGroup e s s e.g where
  beyond := ⟨rfl, fun _ _ => rfl⟩
  core := by rw [← h.k]
  others := fun j _ => by rw [← h.k]
  group := h.g

theorem OnlyGroup.modGroup {e : Env} {s t : State} {g : Group} (h : OnlyGroup e s t g) (f : Group → Group) :
    OnlyGroup e s (t.modGroup e.core e.slot f) (f g) := by
  have hc := core_lt t _ _ _ h.group
  rw [modGroup_some t _ _ f g h.group]
  have hk : (t.setGroup e.core e.slot (f g)).core e.core = (t.core e.core).setGroup e.slot (some (f g)) :=
    core_modCore_same t _ _ hc
  refine ⟨⟨h.beyond.1, fun d hd => ?_⟩, ?_, fun j hj => ?_, ?_⟩
  · rw [← h.beyond.2 d hd]
    exact core_modCore_other t _ _ _ hd
  · rw [hk]
    exact h.core
  · rw [hk, ← h.others j hj]
    exact group_setGroup_other _ _ _ _ hj
  · exact group_setGroup t _ _ g _ h.group

theorem regs_modGroup (t : State) (c slot : Nat) (f : Group → Group) :
    ((t.modGroup c slot f).core c).regs = (t.core c).regs := by
  unfold State.modGroup
  split
  · rename_i g hg
    have hc := core_lt t _ _ _ hg
    unfold State.setGroup
    rw [core_modCore_same t _ _ hc]
    rfl
  · rfl

theorem OnlyGroup.modRegs {e : Env} {s t : State} {g : Group} (h : OnlyGroup e s t g) (f : Core → Store 32) :
    OnlyGroup e s (t.modCore e.core (fun k => { k with regs := f k })) g := by
  have hc := core_lt t _ _ _ h.group
  refine ⟨⟨h.beyond.1, fun d hd => ?_⟩, ?_, fun j hj => ?_, ?_⟩
  · rw [← h.beyond.2 d hd]
    exact core_modCore_other t _ _ _ hd
  · rw [core_modCore_same t _ _ hc]
    exact h.core
  · rw [core_modCore_same t _ _ hc, ← h.others j hj]
    rfl
  · unfold State.group
    rw [core_modCore_same t _ _ hc]
    exact h.group

/-- Writing vector registers of a resident group changes its core's register file alone. -/
theorem writeV_regs {t : State} {c slot : Nat} {g : Group} (hg : t.group c slot = some g) (hsp : g.spill = none)
    (l : List (Nat × Nat × Word)) :
    t.writeV c slot l = t.modCore c (fun k =>
      { k with regs := Store.writeAll k.regs (l.map (fun e => (g.cell slot e.1 e.2.1, e.2.2))) }) := by
  unfold State.writeV
  rw [hg]
  simp only [hsp]

/-! ## Advance and latch leave everything but splits and readiness -/

/-- Two groups differ in nothing but their splits and their readiness. -/
def Group.Same (a b : Group) : Prop := { a with splits := b.splits, wait := b.wait } = b

theorem Group.Same.trans {a b c : Group} (h : a.Same b) (k : b.Same c) : a.Same c := by
  unfold Group.Same at *
  rw [← k, ← h]

theorem same_spill {a b : Group} (h : a.Same b) : a.spill = b.spill := by
  have k := congrArg Group.spill h
  exact k
theorem same_blocks {a b : Group} (h : a.Same b) : a.blocks = b.blocks := by
  have k := congrArg Group.blocks h
  exact k
theorem same_s {a b : Group} (h : a.Same b) : a.s = b.s := by
  have k := congrArg Group.s h
  exact k
theorem same_p {a b : Group} (h : a.Same b) : a.p = b.p := by
  have k := congrArg Group.p h
  exact k
theorem same_i {a b : Group} (h : a.Same b) : a.i = b.i := by
  have k := congrArg Group.i h
  exact k
theorem same_fpflg {a b : Group} (h : a.Same b) : a.fpflg = b.fpflg := by
  have k := congrArg Group.fpflg h
  exact k

theorem clearLatch_same (g : Group) : g.clearLatch.Same g := rfl

theorem reconverge_same (g : Group) : g.reconverge.Same g := by
  unfold Group.reconverge
  simp only
  split <;> rfl

theorem setSplit_same (g : Group) (i : Nat) (sp : Split) : (g.setSplit i sp).Same g := rfl

theorem setPc_same (g : Group) (i : Nat) (pc : Word) : (g.setPc i pc).Same g := by
  unfold Group.setPc
  split
  · exact (reconverge_same _).trans (setSplit_same _ _ _)
  · rfl

theorem latchWord_same (g : Group) (i : Nat) (r : LatchWord) (w : List Nat) : (g.latchWord i r w).Same g := rfl

theorem wait_same (g : Group) (w : Wait) : Group.Same { g with wait := w } g := rfl

/-- A word's end: its latch record and its advance change nothing but the splits and the readiness of its group. -/
theorem end_same {e : Env} {s t : State} {g : Group} (f : Form) (h : OnlyGroup e s t g) :
    ∃ g', OnlyGroup e s (e.advance (e.latch f t)) g' ∧ g'.Same g ∧
      ((e.advance (e.latch f t)).core e.core).regs = (t.core e.core).regs := by
  refine ⟨_, (h.modGroup _).modGroup _, ?_, ?_⟩
  · exact (wait_same _ _).trans ((setPc_same _ _ _).trans (latchWord_same _ _ _ _))
  · unfold Env.advance Env.latch
    rw [regs_modGroup, regs_modGroup]

/-! ## Writes -/

theorem mem_lanes {m : LaneMask} {l : Nat} : l ∈ LaneMask.toList m ↔ l < 32 ∧ m.getLsbD l = true := by
  simp [LaneMask.toList]

theorem lanes_lt {e : Env} {l : Nat} (h : l ∈ e.lanes) : l < 32 := (mem_lanes.1 h).1

theorem lanes_nodup (m : LaneMask) : (LaneMask.toList m).Nodup := List.nodup_range.filter _

/-- Cells of two lanes are distinct, whatever registers they belong to. -/
theorem cell_lane (g : Group) (slot r l : Nat) (hl : l < 32) : g.cell slot r l % 32 = l := by
  unfold Group.cell
  omega

theorem cells_nodup (g : Group) (slot : Nat) (r : Nat → Nat) (v : Nat → Word) (m : LaneMask) :
    (((LaneMask.toList m).map (fun l => (r l, l, v l))).map (fun x => (g.cell slot x.1 x.2.1, x.2.2)) |>.map
      (fun x => x.1)).Nodup := by
  rw [List.map_map, List.map_map]
  refine List.Nodup.map_on (fun x hx y hy hxy => ?_) (lanes_nodup m)
  simp only [Function.comp] at hxy
  have h1 := cell_lane g slot (r x) x (mem_lanes.1 hx).1
  have h2 := cell_lane g slot (r y) y (mem_lanes.1 hy).1
  omega

/-- What a write of a vector register in the passing lanes does to the register file. -/
theorem wrV {e : Env} {s t : State} {g : Group} (h : OnlyGroup e s t g) (hsp : g.spill = none) (r : Nat → Nat)
    (v : Nat → Word) (m : LaneMask) :
    let t' := t.writeV e.core e.slot ((LaneMask.toList m).map (fun l => (r l, l, v l)))
    OnlyGroup e s t' g ∧
      (∀ l ∈ LaneMask.toList m, Store.read (t'.core e.core).regs (g.cell e.slot (r l) l) = v l) ∧
      (∀ a, (∀ l ∈ LaneMask.toList m, a ≠ g.cell e.slot (r l) l) →
        Store.read (t'.core e.core).regs a = Store.read (t.core e.core).regs a) := by
  intro t'
  have hc := core_lt t _ _ _ h.group
  have ht : t' = _ := writeV_regs h.group hsp _
  rw [ht]
  refine ⟨h.modRegs _, fun l hl => ?_, fun a ha => ?_⟩
  · rw [core_modCore_same t _ _ hc]
    refine read_writeAll_mem _ (cells_nodup g e.slot r v m) (g.cell e.slot (r l) l, v l) ?_ _
    exact List.mem_map.2 ⟨(r l, l, v l), List.mem_map.2 ⟨l, hl, rfl⟩, rfl⟩
  · rw [core_modCore_same t _ _ hc]
    refine read_writeAll_other _ a (fun x hx => ?_) _
    obtain ⟨y, hy, rfl⟩ := List.mem_map.1 hx
    obtain ⟨l, hl, rfl⟩ := List.mem_map.1 hy
    exact fun hh => ha l hl hh.symm

theorem readV_of {k : Core} {g b : Group} (hs : g.spill = none) (hg : g.blocks = b.blocks) (slot r l : Nat) :
    k.readV slot g r l = Store.read k.regs (b.cell slot r l) := by
  unfold Core.readV Group.cell
  rw [hs, hg]

/-- Where every check passes, no index register of an operand is out of bounds. -/
theorem check_index {f : Form} {e : Env} {b : Bool} (h : f.check e = .ok b) :
    ∀ x ∈ f.dsts ++ f.srcs, e.badIndex x = none := by
  unfold Form.check at h
  split at h
  · cases h
  split at h
  · cases h
  split at h
  · cases h
  split at h
  · cases h
  split at h
  · cases h
  split at h
  · cases h
  split at h
  · cases h
  · rename_i hn
    intro x hx
    have := List.filterMap_eq_nil_iff.1 hn x hx
    exact this

/-- An operand named by an index register lies in the allocation in every passing lane. -/
theorem badIndex_none {e : Env} {k : Fin 8} {n l : Nat} (h : e.badIndex (.vi k, n) = none) (hl : l ∈ e.lanes) :
    (e.g.idxReg k.val l).toNat < e.g.nregs := by
  have h' : (e.lanes.map (fun l => (l, (e.g.idxReg k.val l).toNat))).find? (fun y =>
      decide (y.2 < e.g.winLo.toNat) || decide (e.g.winHi.toNat ≤ y.2) || decide (e.g.nregs ≤ y.2)) = none := h
  have := List.find?_eq_none.1 h' (l, (e.g.idxReg k.val l).toNat) (List.mem_map.2 ⟨l, hl, rfl⟩)
  simp only [Bool.or_eq_true, decide_eq_true_eq, not_or, not_le] at this
  exact this.2

/-- A word that writes its destination, after the flags of `fl` are set, does exactly that. -/
theorem wrote_wr {f : Form} {e : Env} {s t : State} {g1 : Group} (h : f.Ready e s) (d : Reg) (v : Nat → Word) (fl : Flags)
    (hd : (d, 1) ∈ f.dsts ++ f.srcs) (ht : OnlyGroup e s t g1) (hr1 : { g1 with fpflg := e.g.fpflg } = e.g)
    (hf1 : g1.fpflg = e.g.fpflg ||| fl) (hr : (t.core e.core).regs = e.k.regs) :
    ∃ g, Wrote e d v fl s (e.advance (e.latch f (e.wr d v t))) g := by
  have hsp : g1.spill = none := by
    have k := congrArg Group.spill hr1
    exact k.trans h.resident
  have hbl : g1.blocks = e.g.blocks := by
    have k := congrArg Group.blocks hr1
    exact k
  have hss : g1.s = e.g.s := by
    have k := congrArg Group.s hr1
    exact k
  have hcell : ∀ r l, g1.cell e.slot r l = e.g.cell e.slot r l := fun r l => by unfold Group.cell; rw [hbl]
  have hlen : e.g.s.length = 24 := by
    have := h.shaped
    simp only [Group.shaped, Bool.and_eq_true, beq_iff_eq] at this
    omega
  -- the vector cases share one argument
  have vec : ∀ r : Nat → Nat, Reg.isVec d = true → (∀ l ∈ e.lanes, r l = e.vnum d l) →
      e.wr d v t = t.writeV e.core e.slot ((LaneMask.toList e.act).map (fun l => (r l, l, v l))) →
      ∃ g, Wrote e d v fl s (e.advance (e.latch f (e.wr d v t))) g := by
    intro r hv hrl hw
    obtain ⟨h1, h2, h3⟩ := wrV ht hsp r v e.act
    rw [hw]
    obtain ⟨g, hg, hs, hregs⟩ := end_same f h1
    refine ⟨g, hg, ?_, ?_, ?_, ?_, ?_, ?_⟩
    · exact (congrArg (fun x : Group =>
        { x with splits := e.g.splits, wait := e.g.wait, s := e.g.s, fpflg := e.g.fpflg }) hs).trans
          (congrArg (fun x : Group => { x with splits := e.g.splits, wait := e.g.wait, s := e.g.s }) hr1)
    · rw [same_fpflg hs, hf1]
    · intro _ l hl
      rw [readV_of ((same_spill hs).trans hsp) ((same_blocks hs).trans hbl), hregs, ← hrl l hl, ← hcell]
      exact h2 l hl
    · intro n hn
      subst hn
      cases hv
    · intro n _
      unfold Group.scalar
      rw [same_s hs, hss]
    · intro a ha
      rw [hregs, h3 a (fun l hl hh => ha ⟨hv, l, hl, by rw [hh, hrl l hl, hcell]⟩), hr]
  have plain : ∀ t' g0, OnlyGroup e s t' g0 → (t'.core e.core).regs = e.k.regs →
      { g0 with s := e.g.s, fpflg := e.g.fpflg } = e.g → g0.fpflg = e.g.fpflg ||| fl → Reg.isVec d = false →
      (∀ n, d = .s n → e.act ≠ 0 → g0.scalar n.val = v (LaneMask.lowest e.act)) →
      (∀ n : Nat, ¬ (e.act ≠ 0 ∧ ∃ m : Fin 24, d = .s m ∧ m.val = n) → g0.scalar n = e.g.scalar n) →
      ∃ g, Wrote e d v fl s (e.advance (e.latch f t')) g := by
    intro t' g0 h1 hr' hrest hfl hv hs1 hs2
    obtain ⟨g, hg, hs, hregs⟩ := end_same f h1
    have hgs : g.s = g0.s := same_s hs
    refine ⟨g, hg, ?_, ?_, ?_, ?_, ?_, ?_⟩
    · exact (congrArg (fun x : Group =>
        { x with splits := e.g.splits, wait := e.g.wait, s := e.g.s, fpflg := e.g.fpflg }) hs).trans
          (congrArg (fun x : Group => { x with splits := e.g.splits, wait := e.g.wait }) hrest)
    · rw [same_fpflg hs, hfl]
    · intro hv'
      rw [hv] at hv'
      cases hv'
    · intro n hn ha
      unfold Group.scalar
      rw [hgs]
      exact hs1 n hn ha
    · intro n hn
      unfold Group.scalar
      rw [hgs]
      exact hs2 n hn
    · intro a _
      rw [hregs, hr']
  cases d with
  | v n => exact vec (fun _ => n.val) rfl (fun _ _ => rfl) rfl
  | vi k =>
    refine vec (fun l => (e.g.idxReg k.val l).toNat) rfl (fun _ _ => rfl) ?_
    unfold Env.wr
    simp only
    rw [List.filter_eq_self.2]
    · rfl
    · intro x hx
      obtain ⟨l, hl, rfl⟩ := List.mem_map.1 hx
      exact decide_eq_true (badIndex_none (check_index h.checked _ hd) hl)
  | s n =>
    by_cases ha : e.act = 0
    · rw [show e.wr (.s n) v t = t by unfold Env.wr; simp [ha]]
      exact plain t _ ht hr (congrArg (fun x : Group => { x with s := e.g.s }) hr1) hf1 rfl (fun _ _ hh => absurd ha hh)
        (fun _ _ => by unfold Group.scalar; rw [hss])
    · rw [show e.wr (.s n) v t = t.modGroup e.core e.slot (fun g => g.setScalar n.val (v (LaneMask.lowest e.act))) by
        exact if_neg ha]
      refine plain _ _ (ht.modGroup _) (by rw [regs_modGroup, hr])
        (congrArg (fun x : Group => { x with s := e.g.s }) hr1) hf1 rfl (fun m hm _ => ?_) (fun m hm => ?_)
      · cases hm
        exact getD_set_same _ _ _ _ (by rw [hss]; omega)
      · unfold Group.scalar
        rw [← hss]
        exact getD_set_other _ _ _ _ _ (fun hh => hm ⟨ha, n, rfl, hh.symm⟩)
  | c n =>
    exact plain t _ ht hr (congrArg (fun x : Group => { x with s := e.g.s }) hr1) hf1 rfl (fun _ hh => by cases hh)
      (fun _ _ => by unfold Group.scalar; rw [hss])

/-- A word that always finishes and writes one destination (R61, R121-R123). -/
theorem runEff_wrote {f : Form} {e : Env} {s : State} (h : f.Ready e s) (d : Reg) (v : Env → Nat → Word)
    (hd : (d, 1) ∈ f.dsts ++ f.srcs) :
    ∃ t g, runEff f (fun e s => e.wr d (v e) s) s = .next t ∧ Wrote e d (v e) 0 s t g := by
  obtain ⟨g, hg⟩ := wrote_wr h d (v e) 0 hd (OnlyGroup.refl h.of) rfl (by simp) (by rw [← h.of.k])
  exact ⟨_, g, runEff_ready h _, hg⟩

/-! ## Predicates and index registers -/

theorem getLsbD_ofFn_aux (f : Nat → Bool) (n : Nat) (hn : n ≤ 32) (j : Nat) :
    ((List.range n).foldl (fun (m : LaneMask) l => if f l then m ||| (1#32 <<< l) else m) 0#32).getLsbD j =
      (decide (j < n) && f j) := by
  induction n with
  | zero => simp
  | succ n ih =>
    have h1 := ih (by omega)
    rw [List.range_succ, List.foldl_append]
    simp only [List.foldl_cons, List.foldl_nil]
    by_cases hf : f n = true
    · rw [if_pos hf, BitVec.getLsbD_or, h1]
      by_cases hj : j = n
      · subst hj
        simp [hf]
        omega
      · have : (1#32 <<< n).getLsbD j = false := by
          rw [BitVec.getLsbD_shiftLeft, BitVec.getLsbD_one]
          simp
          omega
        rw [this]
        by_cases hk : j < n
        · simp [hk, show j < n + 1 by omega]
        · simp [hk, show ¬ j < n + 1 by omega]
    · rw [if_neg hf, h1]
      by_cases hj : j = n
      · subst hj
        simp [hf]
      · by_cases hk : j < n
        · simp [hk, show j < n + 1 by omega]
        · simp [hk, show ¬ j < n + 1 by omega]

/-- A mask made of a function of the lanes has its value in each lane. -/
@[simp] theorem getLsbD_ofFn (f : Nat → Bool) (j : Nat) : (LaneMask.ofFn f).getLsbD j = (decide (j < 32) && f j) :=
  getLsbD_ofFn_aux f 32 (Nat.le_refl _) j

@[simp] theorem pred_zero (g : Group) : g.pred 0 = allLanes := rfl

/-- What a write of a predicate does to each lane of each predicate (R63). -/
theorem pred_setPred (g : Group) (k q : Nat) (m v : LaneMask) (hk : k < g.p.length) :
    (g.setPred k m v).pred q = if q = k ∧ k ≠ 0 then (g.pred k &&& ~~~m) ||| (v &&& m) else g.pred q := by
  unfold Group.setPred
  by_cases h0 : k = 0
  · simp [h0]
  · simp only [h0, if_false]
    unfold Group.pred
    by_cases hq : q = k
    · subst hq
      simp [h0, hk, List.getD_eq_getElem?_getD]
    · simp only [hq, false_and, if_false]
      split
      · rfl
      · exact getD_set_other _ _ _ _ _ hq

/-- A write of a predicate changes nothing but the predicates. -/
theorem setPred_rest (g : Group) (k : Nat) (m v : LaneMask) : { g.setPred k m v with p := g.p } = g := by
  unfold Group.setPred
  split <;> rfl

/-- What a write of an index register does to each cell of each index register (R142). -/
theorem idxReg_setIdx (g : Group) (k q l : Nat) (m : LaneMask) (f : Nat → Word) (hl : l < 32) :
    (g.setIdx k m f).idxReg q l = if q = k ∧ m.getLsbD l = true then f l else g.idxReg q l := by
  unfold Group.setIdx Group.idxReg
  by_cases h : q = k ∧ m.getLsbD l = true
  · rw [if_pos h]
    obtain ⟨rfl, hm⟩ := h
    refine read_writeAll_mem _ ?_ (q * 32 + l, f l) (List.mem_map.2 ⟨l, mem_lanes.2 ⟨hl, hm⟩, rfl⟩) _
    rw [List.map_map]
    refine List.Nodup.map_on (fun x _ y _ hxy => ?_) (lanes_nodup m)
    simp only [Function.comp] at hxy
    omega
  · rw [if_neg h]
    refine read_writeAll_other _ _ (fun x hx hh => h ?_) _
    obtain ⟨y, hy, rfl⟩ := List.mem_map.1 hx
    have := mem_lanes.1 hy
    simp only at hh
    have h1 : q = k := by omega
    have h2 : y = l := by omega
    subst h2
    exact ⟨h1, this.2⟩

/-- A word that raises the flags `fl` and writes one predicate, and then goes on. -/
theorem wrotePred_wrP {f : Form} {e : Env} {s t : State} {g1 : Group} (h : f.Ready e s) (p : Fin 8) (v : Nat → Bool)
    (fl : Flags) (ht : OnlyGroup e s t g1) (hr1 : { g1 with fpflg := e.g.fpflg } = e.g)
    (hf1 : g1.fpflg = e.g.fpflg ||| fl) (hr : (t.core e.core).regs = e.k.regs) :
    ∃ g, WrotePred e p v fl s (e.advance (e.latch f (e.wrP p.val v t))) g := by
  obtain ⟨g, hg, hs, hregs⟩ := end_same f (ht.modGroup (fun g => g.setPred p.val e.act (LaneMask.ofFn v)))
  have hp1 : g1.p = e.g.p := by
    have k := congrArg Group.p hr1
    exact k
  have hlen : p.val < g1.p.length := by
    have := h.shaped
    simp only [Group.shaped, Bool.and_eq_true, beq_iff_eq] at this
    rw [hp1]
    omega
  have hpred : ∀ q, g1.pred q = e.g.pred q := fun q => by unfold Group.pred; rw [hp1]
  have hgp : ∀ q, g.pred q = (g1.setPred p.val e.act (LaneMask.ofFn v)).pred q := fun q => by
    unfold Group.pred
    rw [same_p hs]
  refine ⟨g, hg, ?_, ?_, ?_, ?_, ?_⟩
  · exact hregs.trans ((regs_modGroup _ _ _ _).trans hr)
  · have h1 := congrArg (fun x : Group =>
      { x with splits := e.g.splits, wait := e.g.wait, p := e.g.p, fpflg := e.g.fpflg }) hs
    have h2 := congrArg (fun x : Group =>
      { x with splits := e.g.splits, wait := e.g.wait, p := e.g.p, fpflg := e.g.fpflg })
        (setPred_rest g1 p.val e.act (LaneMask.ofFn v))
    have h3 := congrArg (fun x : Group =>
      { x with splits := e.g.splits, wait := e.g.wait, p := e.g.p }) hr1
    exact h1.trans (h2.trans h3)
  · rw [same_fpflg hs, ← hf1]
    have k := congrArg Group.fpflg (setPred_rest g1 p.val e.act (LaneMask.ofFn v))
    exact k
  · intro l hl hp
    rw [hgp, pred_setPred _ _ _ _ _ hlen, if_pos ⟨rfl, hp⟩, hpred]
    simp only [BitVec.getLsbD_or, BitVec.getLsbD_and, BitVec.getLsbD_not, getLsbD_ofFn, hl, decide_true, Bool.true_and]
    cases e.act.getLsbD l <;> simp
  · intro q hq
    rw [hgp, pred_setPred _ _ _ _ _ hlen, if_neg (fun hh => ?_), hpred]
    rcases hq with hq | hq
    · exact hq hh.1
    · exact hh.2 (hh.1 ▸ hq)

/-- A word that always finishes and writes one predicate. -/
theorem runEff_wrotePred {f : Form} {e : Env} {s : State} (h : f.Ready e s) (p : Fin 8) (v : Env → Nat → Bool) :
    ∃ t g, runEff f (fun e s => e.wrP p.val (v e) s) s = .next t ∧ WrotePred e p (v e) 0 s t g := by
  obtain ⟨g, hg⟩ := wrotePred_wrP h p (v e) 0 (OnlyGroup.refl h.of) rfl (by simp) (by rw [← h.of.k])
  exact ⟨_, g, runEff_ready h _, hg⟩

end Sys2Proof.Machine
end

