-- ==== Sys2Proof/Laws/Float.lean ====
section
/-! SUPPORT. What a floating-point word does with the flags it raises (R155). -/

namespace Sys2Proof.Machine

open Sys2Proof

theorem and_all (fl : Flags) : fl &&& 0x3F &&& x = fl &&& x := by
  rw [show (0x3F : Flags) = BitVec.allOnes 6 by decide, BitVec.and_allOnes]

/-- A word that ends in `fpEnd` with no trap enabled for the flags it raised. -/
theorem fpEnd_quiet (e : Env) (fl may : Flags) (write : State → State) (s : State)
    (h : fl &&& may &&& trapEnables e.g.fpctl = 0) : e.fpEnd fl may write s = .done (write (e.orFlags fl s)) := by
  unfold Env.fpEnd
  simp [h]

/-- A word that ends in `fpEnd` with a trap enabled for a flag it raised. -/
theorem fpEnd_trap (e : Env) (fl may : Flags) (write : State → State) (s : State)
    (h : fl &&& may &&& trapEnables e.g.fpctl ≠ 0) :
    e.fpEnd fl may write s =
      .trap (e.orFlags fl s) { cause := Causes.fpException, info := fl.setWidth 64, lane := 0 } := by
  unfold Env.fpEnd
  simp
  exact h

/-- The flags of a word stand in its group, and nothing else changes. -/
theorem orFlags_only {e : Env} {s : State} (h : e.Of s) (fl : Flags) :
    OnlyGroup e s (e.orFlags fl s) { e.g with fpflg := e.g.fpflg ||| fl } ∧
      ((e.orFlags fl s).core e.core).regs = e.k.regs :=
  ⟨(OnlyGroup.refl h).modGroup _, (regs_modGroup _ _ _ _).trans (by rw [← h.k])⟩

/-- A floating-point word whose lanes give patterns and flags does what R155 says of them. -/
theorem runFp_results {i : Instr} {f : Form} {d : Reg} {r w : Env → Nat → FpRes} (hi : ∀ s, exec i s = runFp f d w s)
    (hd : (d, 1) ∈ f.dsts ++ f.srcs) (hr : ∀ e l, w e l = r e l) : FpResults i f d r := by
  intro s e h
  have hw : w = r := funext (fun e => funext (hr e))
  subst hw
  refine ⟨fun hq => ?_, fun ht => ?_⟩
  · obtain ⟨ho, hregs⟩ := orFlags_only h.of (unionFlags e.lanes (fun l => (w e l).2))
    obtain ⟨g, hg⟩ := wrote_wr h d (fun l => BitVec.ofNat 32 (w e l).1) (unionFlags e.lanes (fun l => (w e l).2)) hd ho rfl rfl
      hregs
    refine ⟨_, g, ?_, hg⟩
    rw [hi]
    unfold runFp
    rw [runWord_ready h]
    rw [fpEnd_quiet _ _ _ _ _ (by rw [and_all]; exact hq)]
  · rw [hi]
    unfold runFp
    rw [runWord_ready h]
    rw [fpEnd_trap _ _ _ _ _ (by rw [and_all]; exact ht)]
    rfl

end Sys2Proof.Machine
end

