-- ==== Sys2Proof/Tests/Slice0.lean ====
section
/-! SUPPORT. Small tests: words of the chapters' encodings decode to the instructions they stand for; ill-formed terms are
refused; every statement that has hypotheses has a state and operands that meet them. -/

namespace Sys2Proof.Tests

open Sys2Proof Sys2Proof.Machine

/-! ## Decoding: each row's words, built field by field from the encoding tables of spec/03_encoding.md and the
instruction chapters -/

/-- A word decodes to the instruction beside it. -/
def reads (x : BitVec 64 × Instr) : Bool :=
  match decode 3 x.1 with
  | .ok i => decide (i = x.2)
  | .error _ => false

def g0 : Guard := { settle := false, pg := 0, pn := false }
def g1 : Guard := { settle := true, pg := 3, pn := true }

/-- Row 0x0 (R104). -/
def words_row0 : List (BitVec 64 × Instr) := [
  (0x800E000000000000, .nop g1),
  (0x802E0000000A7FFF, .bra g1 5 (-1)),
  (0x0040000E00008003, .brx g0 .a (.v 7) 3),
  (0x006013FFFFFC0000, .call g0 (.v 9) (-2) 0),
  (0x808E01A600000000, .ret g1 .none (.s 3) 0),
  (0x00A0000000000000, .bar g0),
  (0x80CE000000000000, .barr g1),
  (0x00E0000000000000, .barw g0),
  (0x0101A80000200000, .yield g0 (.s 4) 16),
  (0x812E000000000000, .exit g1),
  (0x0141A3AC00000000, .launch g0 (.s 1) (.s 6)),
  (0x0161E1A400000005, .chwait g0 (.c 0) (.s 2) 5),
  (0x0180000000000000, .phase g0),
  (0x81AE01FE00000000, .post g1 (.c 15)),
  (0x01C000000000000B, .regrow g0 11),
  (0x01E0000000000001, .regshrink g0 1),
  (0x0200080000000003, .splitq g0 (.v 4) .join)]

theorem test_decode_row0 : words_row0.all reads = true := by decide +kernel

/-- Row 0x1 (R127), with the immediate forms of R58. -/
def words_row1 : List (BitVec 64 × Instr) := [
  (0x0400060800008000, .mov g0 .a (.v 3) (.v 4)),
  (0x0421A4002468D678, .movi g0 (.s 2) 0x12345678),
  (0x0440020406000003, .iadd g0 .none (.v 1) (.v 2) (.v 3) true .n32),
  (0x844E0E0FFFFFFFFD, .iaddImm g1 (.v 7) (.v 7) 0xFFFFFFFD),
  (0x046183A57E010000, .isub g0 .b (.vi 1) (.s 2) (.v 191) false .s32),
  (0x046001E30000C000, .isubImm g0 (.v 0) (.c 1) 0x80004000),
  (0x0480020406000001, .imul g0 .none (.v 1) (.v 2) (.v 3) false .n32),
  (0x0480020400004003, .imulImm g0 (.v 1) (.v 2) 3),
  (0x04A00205E4000001, .imulh g0 .none (.v 1) (.v 2) (.c 2) .n32),
  (0x04C0020406098002, .imad g0 .c (.v 1) (.v 2) (.v 3) (.v 4) true .s32),
  (0x04E00A0206020008, .iaddc g0 .none (.v 5) (.v 1) (.v 3) (some 1) 0),
  (0x05000A0206000070, .isubb g0 .none (.v 5) (.v 1) (.v 3) none 7),
  (0x0520020406000001, .imin g0 .none (.v 1) (.v 2) (.v 3) .n32),
  (0x0520020400004009, .iminImm g0 (.v 1) (.v 2) 9),
  (0x0540020406000000, .imax g0 .none (.v 1) (.v 2) (.v 3) .s32),
  (0x05400204FFFFFFFF, .imaxImm g0 (.v 1) (.v 2) 0x7FFFFFFF),
  (0x0560020400000002, .iabs g0 .none (.v 1) (.v 2) true),
  (0x0580020400000000, .ineg g0 .none (.v 1) (.v 2) false),
  (0x05A00C0406000015, .icmp g0 .none 6 (.v 2) (.v 3) .ge .n32),
  (0x05C0020406080000, .isel g0 .none (.v 1) (.v 2) (.v 3) 4),
  (0x05E002040600001F, .lea g0 .none (.v 1) (.v 2) (.v 3) 31),
  (0x0600020406000000, .and g0 .none (.v 1) (.v 2) (.v 3)),
  (0x06000205E1E1F0F0, .andImm g0 (.v 1) (.v 2) 0xF0F0F0F0),
  (0x0620020406000000, .or g0 .none (.v 1) (.v 2) (.v 3)),
  (0x06200205E1E1F0F0, .orImm g0 (.v 1) (.v 2) 0xF0F0F0F0),
  (0x0640020406000000, .xor g0 .none (.v 1) (.v 2) (.v 3)),
  (0x06400205E1E1F0F0, .xorImm g0 (.v 1) (.v 2) 0xF0F0F0F0),
  (0x0660020400000000, .not g0 .none (.v 1) (.v 2)),
  (0x0680020406000000, .andn g0 .none (.v 1) (.v 2) (.v 3)),
  (0x0680020400004001, .andnImm g0 (.v 1) (.v 2) 1),
  (0x06A0020406000000, .shl g0 .none (.v 1) (.v 2) (.v 3)),
  (0x06A002040000401F, .shlImm g0 (.v 1) (.v 2) 31),
  (0x06C0020406000000, .shr g0 .none (.v 1) (.v 2) (.v 3)),
  (0x06C002040000401F, .shrImm g0 (.v 1) (.v 2) 31),
  (0x06E0020406000000, .sar g0 .none (.v 1) (.v 2) (.v 3)),
  (0x06E002040000401F, .sarImm g0 (.v 1) (.v 2) 31),
  (0x0700020406000001, .rot g0 .none (.v 1) (.v 2) (.v 3) true),
  (0x0700020400004007, .rotImm g0 (.v 1) (.v 2) 7),
  (0x0720080A05A60000, .fsh g0 .none (.v 4) (.v 5) (.v 2) (.s 3) false),
  (0x074006040000017A, .bfx g0 .none (.v 3) (.v 2) (.imm 30 2) .n32),
  (0x0760060402080000, .bfi g0 .none (.v 3) (.v 2) (.v 1) (.reg (.v 4))),
  (0x0780020400000000, .popc g0 .none (.v 1) (.v 2)),
  (0x07A0020400000000, .clz g0 .none (.v 1) (.v 2)),
  (0x07C0020400000000, .brev g0 .none (.v 1) (.v 2)),
  (0x07E0060204080000, .prmt g0 .none (.v 3) (.v 1) (.v 2) (.v 4))]

theorem test_decode_row1 : words_row1.all reads = true := by decide +kernel

/-- Pair words (R67): POP, D, B, G, HB and TV of each half. -/
def words_pairs : List (BitVec 64 × Instr) := [
  (0xC002D54000060800, .movPair true { d := 2, b := .s 5, g := 1, hb := false } { op := .mov, r := { d := 3, b := .v 4, g := 0, hb := false } }),
  (0xC102D54400060800, .iaddPair true .s32 { d := 2, b := .s 5, g := 1, hb := false } { op := .mov, r := { d := 3, b := .v 4, g := 0, hb := false } }),
  (0xC202D54000060800, .isubPair true .n32 { d := 2, b := .s 5, g := 1, hb := false } { op := .mov, r := { d := 3, b := .v 4, g := 0, hb := false } }),
  (0xC302D54400060800, .iminPair true .s32 { d := 2, b := .s 5, g := 1, hb := false } { op := .mov, r := { d := 3, b := .v 4, g := 0, hb := false } }),
  (0xC402D54000060800, .imaxPair true .n32 { d := 2, b := .s 5, g := 1, hb := false } { op := .mov, r := { d := 3, b := .v 4, g := 0, hb := false } }),
  (0xC502D54000060800, .andPair true { d := 2, b := .s 5, g := 1, hb := false } { op := .mov, r := { d := 3, b := .v 4, g := 0, hb := false } }),
  (0xC602D54000060800, .orPair true { d := 2, b := .s 5, g := 1, hb := false } { op := .mov, r := { d := 3, b := .v 4, g := 0, hb := false } }),
  (0xC702D54000060800, .xorPair true { d := 2, b := .s 5, g := 1, hb := false } { op := .mov, r := { d := 3, b := .v 4, g := 0, hb := false } }),
  (0xC802D54000060800, .shlPair true { d := 2, b := .s 5, g := 1, hb := false } { op := .mov, r := { d := 3, b := .v 4, g := 0, hb := false } }),
  (0xC902D54000060800, .shrPair true { d := 2, b := .s 5, g := 1, hb := false } { op := .mov, r := { d := 3, b := .v 4, g := 0, hb := false } }),
  (0xCA02D54400060800, .sarPair true { d := 2, b := .s 5, g := 1, hb := false } { op := .mov, r := { d := 3, b := .v 4, g := 0, hb := false } }),
  (0xCB02D54800060800, .faddPair true .rctl { d := 2, b := .s 5, g := 1, hb := false } { op := .mov, r := { d := 3, b := .v 4, g := 0, hb := false } }),
  (0xCC02D54900060800, .fsubPair true .rz { d := 2, b := .s 5, g := 1, hb := false } { op := .mov, r := { d := 3, b := .v 4, g := 0, hb := false } }),
  (0xCD02D54A00060800, .fmulPair true .rup { d := 2, b := .s 5, g := 1, hb := false } { op := .mov, r := { d := 3, b := .v 4, g := 0, hb := false } }),
  (0xCE02D54800060800, .fminPair true { d := 2, b := .s 5, g := 1, hb := false } { op := .mov, r := { d := 3, b := .v 4, g := 0, hb := false } }),
  (0xCF02D54800060800, .fmaxPair true { d := 2, b := .s 5, g := 1, hb := false } { op := .mov, r := { d := 3, b := .v 4, g := 0, hb := false } }),
  (0xD002D54C00060800, .hadd2Pair true .rctl { d := 2, b := .s 5, g := 1, hb := false } { op := .mov, r := { d := 3, b := .v 4, g := 0, hb := false } }),
  (0xD102D54D80060800, .hmul2Pair true .rdn { d := 2, b := .s 5, g := 1, hb := false } { op := .mov, r := { d := 3, b := .v 4, g := 0, hb := false } }),
  (0xD202D54400060800, .inegPair true { d := 2, b := .s 5, g := 1, hb := false } { op := .mov, r := { d := 3, b := .v 4, g := 0, hb := false } }),
  (0xD302D54400060800, .iabsPair true { d := 2, b := .s 5, g := 1, hb := false } { op := .mov, r := { d := 3, b := .v 4, g := 0, hb := false } })]

theorem test_decode_pairs : words_pairs.all reads = true := by decide +kernel

/-- Row 0x2 (R141). -/
def words_row2 : List (BitVec 64 × Instr) := [
  (0x0800061000008000, .ixset g0 .a 3 (.v 8)),
  (0x0800040000004011, .ixsetImm g0 2 17),
  (0x0800120A00000001, .ixsetGet g0 (.v 9) 5),
  (0x08200205A0000000, .ixadd g0 .none 1 2 (.s 0)),
  (0x0820020200004001, .ixaddImm g0 1 1 1),
  (0x084001E1A2000000, .ixbnd g0 (.c 0) (.s 1)),
  (0x0860020406000009, .pset g0 1 2 3 9),
  (0x0880020400000000, .pmov g0 .none (.tov (.v 1) 2)),
  (0x0880000A00000003, .pmov g0 .none (.unpack (.v 5))),
  (0x08A00201A4000002, .shfl g0 .none (.v 1) (.v 0) (.s 2) 0 .down),
  (0x08C0020004000013, .shflx g0 .none (.v 1) (.v 0) (.v 2) 4 .xor),
  (0x08E1A201E6000000, .bcast g0 .none (.s 1) (.v 0) (.c 3)),
  (0x0901A20400000000, .vote g0 (.ballot (.s 1)) 2),
  (0x09000E0400000003, .vote g0 (.eq 7) 2),
  (0x092000000000000E, .rdsp g0 (.v 0) .spbase)]

theorem test_decode_row2 : words_row2.all reads = true := by decide +kernel

/-- Row 0x3 (R164). -/
def words_row3 : List (BitVec 64 × Instr) := [
  (0x0C00020406000004, .fadd g0 .none (.v 1) (.v 2) (.v 3) .rup),
  (0x0C0002047F004000, .faddImm g0 (.v 1) (.v 2) 0x3F800000),
  (0x0C20020406000004, .fsub g0 .none (.v 1) (.v 2) (.v 3) .rup),
  (0x0C2002047F004000, .fsubImm g0 (.v 1) (.v 2) 0x3F800000),
  (0x0C40020406000004, .fmul g0 .none (.v 1) (.v 2) (.v 3) .rup),
  (0x0C4002047F004000, .fmulImm g0 (.v 1) (.v 2) 0x3F800000),
  (0x0C60060202040010, .ffma g0 .none (.v 3) (.v 1) (.v 1) (.v 2) false true .rctl),
  (0x0C80020406000000, .fmin g0 .none (.v 1) (.v 2) (.v 3)),
  (0x0C8002057F004000, .fminImm g0 (.v 1) (.v 2) 0xBF800000),
  (0x0CA0020406000000, .fmax g0 .none (.v 1) (.v 2) (.v 3)),
  (0x0CA002057F004000, .fmaxImm g0 (.v 1) (.v 2) 0xBF800000),
  (0x0CC0020406000007, .fcmp g0 .none 1 (.v 2) (.v 3) .num),
  (0x0CE0020400000000, .fclass g0 .none (.v 1) (.v 2)),
  (0x0D00020400000003, .frnd g0 .none (.v 1) (.v 2) .rdn),
  (0x0D20020406000009, .hadd2 g0 .none (.v 1) (.v 2) (.v 3) .bf16 .rne),
  (0x0D20020478007C00, .hadd2Imm g0 (.v 1) (.v 2) 0x3C003C00),
  (0x0D40020406000009, .hmul2 g0 .none (.v 1) (.v 2) (.v 3) .bf16 .rne),
  (0x0D40020478007C00, .hmul2Imm g0 (.v 1) (.v 2) 0x3C003C00),
  (0x0D60020406080002, .hfma2 g0 .none (.v 1) (.v 2) (.v 3) (.v 4) .f16 .rz),
  (0x0D80020400000100, .cvt g0 .none (.v 1) (.v 2) (.one .bf16h .f32) .rctl),
  (0x0D80080204000028, .cvt g0 .none (.v 4) (.v 1) (.two .f16 (.v 2)) .rctl),
  (0x0DA002040000002A, .f2i g0 .none (.v 1) (.v 2) .bf16 .n32 .rz),
  (0x0DC0020400000010, .i2f g0 .none (.v 1) (.v 2) .f16 .s32 .rctl),
  (0x0DE0020400000007, .kpack g0 .none (.v 1) (.v 2) 7),
  (0x0E00020400000000, .kunpk g0 .none (.v 1) (.v 2) 0),
  (0x0E200205A6000001, .rqz g0 .none (.v 1) (.v 2) (.s 3) 1)]

theorem test_decode_row3 : words_row3.all reads = true := by decide +kernel

/-- Row 0x4 (R180). -/
def words_row4 : List (BitVec 64 × Instr) := [
  (0x10000A0800000002, .frcp g0 .none (.v 5) (.v 4) .rz),
  (0x10200A0800000002, .frsq g0 .none (.v 5) (.v 4) .rz),
  (0x10400A0800000002, .fsqrt g0 .none (.v 5) (.v 4) .rz),
  (0x10600A0800000002, .fex2 g0 .none (.v 5) (.v 4) .rz),
  (0x10800A0800000002, .flg2 g0 .none (.v 5) (.v 4) .rz),
  (0x10A00A0800000002, .fsin g0 .none (.v 5) (.v 4) .rz),
  (0x10C00A0800000002, .fcos g0 .none (.v 5) (.v 4) .rz),
  (0x10E00A0800000002, .ftanh g0 .none (.v 5) (.v 4) .rz)]

theorem test_decode_row4 : words_row4.all reads = true := by decide +kernel

/-- Row 0x5 (R194). -/
def words_row5 : List (BitVec 64 × Instr) := [
  (0x14000205E6000001, .afset g0 .none 1 (.v 2) (.c 3) true),
  (0x1420020406000000, .afint g0 .none 1 (.v 2) (.v 3)),
  (0x1440020400000000, .afmov g0 1 2),
  (0x1460020406000000, .afadd g0 1 2 3),
  (0x1480020406000000, .afsub g0 1 2 3),
  (0x14A0020406000000, .afscl g0 .none 1 2 (.v 3)),
  (0x14C0020406000000, .afaddc g0 .none 1 2 (.v 3)),
  (0x14E0020406000000, .afmul g0 1 2 3),
  (0x1500020400000000, .afsqr g0 1 2),
  (0x1520020400000000, .afrcp g0 1 2),
  (0x1540020406000000, .afdiv g0 1 2 3),
  (0x1560020400000000, .afsqrt g0 1 2),
  (0x1580000200000021, .afcond g0 .none 0 1 (.cnt 4 false)),
  (0x1580000212000006, .afcond g0 .none 0 1 (.thr true (.v 9))),
  (0x15A0020400000000, .afctr g0 (.v 1) 2),
  (0x15C0020400000000, .afrad g0 (.v 1) 2),
  (0x15E0020400000000, .aflo g0 (.v 1) 2),
  (0x1600020400000000, .afhi g0 (.v 1) 2),
  (0x1620020406080005, .afcmp g0 1 2 3 4 .ne),
  (0x164001A3A4000000, .afrel g0 (.s 1) (.s 2)),
  (0x1640000000000001, .afrelAll g0),
  (0x1661A20000000003, .afsymq g0 (.s 1) .free),
  (0x1680020406000001, .afterm g0 .none (.v 1) 2 (.sym (.v 3)))]

theorem test_decode_row5 : words_row5.all reads = true := by decide +kernel

/-- Row 0x6 (R210, R211). -/
def words_row6 : List (BitVec 64 × Instr) := [
  (0x1800120400309010, .ld g0 .a (.v 9) (.v 2) 24 .vt .n32 2),
  (0x18200E04008010C0, .st g0 .none (.v 7) (.v 2) 0x40 .vt .n32 3),
  (0x184009A5FFF00A00, .ldg g0 .none (.v 4) (.s 2) (-8) .sp .n64 0),
  (0x1860100400001C00, .ldgf g0 .none (.v 8) (.v 2) 0 .vt .n128),
  (0x18800E0400091240, .stg g0 .b (.v 7) (.v 2) 4 .vt .n8 1),
  (0x18A0080400001B47, .atom g0 .none (.v 4) (.v 2) 0 .vt true 5 .cas),
  (0x18C1A80400000005, .atomb g0 .none (.s 4) (.v 2) 0 .sp false .xor),
  (0x18E00000000002FE, .fence g0 .sys 0xFE),
  (0x190007A800000001, .resq g0 .none 3 (.s 4) true),
  (0x1920000400001038, .pgreq g0 .none (.v 2) 0 .vt 7 false),
  (0x1940000400101001, .prf g0 .none (.v 2) 8 .vt true)]

theorem test_decode_row6 : words_row6.all reads = true := by decide +kernel

/-- Row 0x7 (R211, R242). -/
def words_row7 : List (BitVec 64 × Instr) := [
  (0x1C01A3A5E1A600A4, .cpy g0 (.s 1) (.s 2) (.c 0) (.s 3) .sys true false .sp .vt),
  (0x1C2001E000000000, .cpyw g0 (.c 0)),
  (0x1C4001A3A4000056, .dectab g0 (.s 1) (.s 2) .part true 6),
  (0x1C6009A3A4000009, .decv g0 (.v 4) (.s 1) (.s 2) .core false .vt 1),
  (0x1C8001A200000000, .lscfg g0 (.s 1)),
  (0x1CA001A200000000, .lsgo g0 (.s 1)),
  (0x1CC1A20000000000, .lswait g0 (.s 1))]

theorem test_decode_row7 : words_row7.all reads = true := by decide +kernel

/-- Row 0x8 (R242). -/
def words_row8 : List (BitVec 64 × Instr) := [
  (0x200001A3E1A4001B, .ldstw g0 (.s 1) (.c 0) (.s 2) .core true .vt 3),
  (0x202001A3E0000008, .cbtab g0 (.s 1) (.c 0) .core false .vt),
  (0xA04E000000000000, .swpl g1),
  (0x2060004001E00401, .mma g0 (.v 32) (.c 0) 64 false 1),
  (0x208001A3A5A6000A, .mmas g0 (.s 1) (.s 2) (.s 3) true 2),
  (0x20A001A3A4000000, .acz g0 (.s 1) (.s 2)),
  (0x20C001A3A5A60091, .acld g0 (.s 1) (.s 2) (.s 3) .sys true .sp 1),
  (0x20E001A3A5A6016C, .drain g0 (.s 1) (.s 2) (.s 3) true .part true .vt 4),
  (0x2101A20000000000, .mfence g0 (.s 1)),
  (0x212001A200000000, .mwait g0 (.s 1))]

theorem test_decode_row8 : words_row8.all reads = true := by decide +kernel

/-- Row 0x9 (R284). -/
def words_row9 : List (BitVec 64 × Instr) := [
  (0x240001A3A4000003, .cvbegTile g0 (.s 1) (.s 2) 3),
  (0x240001B000000004, .cvbegPath g0 (.s 8) 0),
  (0x242007C000000000, .cvmono g0 (.v 3) (.s 16)),
  (0x2441C1B1C0000000, .cvdep g0 (.s 16) (.s 8) (.s 16) 0),
  (0x2460000000000005, .cvscan g0 true 1),
  (0x2481E00000000002, .cvrefine g0 (.c 0) 2),
  (0x24A0000000000001, .cvpush g0 1),
  (0x24C0000000000002, .cvpop g0 2),
  (0x24E007A201A40001, .cvspan g0 (.v 3) (.s 1) (.s 2) 1),
  (0x2500003C3A000000, .cvblend g0 (.v 30) (.v 29) .over 0),
  (0x2521A3A400000061, .tsave g0 (.s 1) (.s 2) .part true 1),
  (0x2541A3A5A6000091, .tload g0 (.s 1) (.s 2) (.s 3) .sys true 1),
  (0x2561A40000000000, .cvq g0 (.s 2) .recd 0),
  (0x2561A6000000000E, .cvq g0 (.s 3) .seq 2),
  (0x2581A20000000003, .cvend g0 (.s 1) 3)]

theorem test_decode_row9 : words_row9.all reads = true := by decide +kernel

/-- Row 0xA (R305). -/
def words_rowA : List (BitVec 64 × Instr) := [
  (0x280001A9B1B20800, .xpull g0 (.s 4) (.s 8) (.s 9) 1 false false .core .win .sp),
  (0x282001A9B1B20800, .xpush g0 (.s 4) (.s 8) (.s 9) 1 false false .core .win .sp),
  (0x284001A3A5A63801, .xdrain g0 (.s 1) (.s 2) (.s 3) 7 true),
  (0x286000080C10002F, .xatom g0 (.v 4) (.v 6) (some (.v 8)) 0 true true .cas),
  (0x288001A3A5A61008, .xcall g0 (.s 1) (.s 2) (.s 3) 2 8),
  (0x28A1A3A5A6000800, .xpageList g0 (.s 1) (.s 2) (.s 3) 1),
  (0x28A1B1ADB2000001, .xpageMap g0 (.s 8) (.s 6) (.s 9) 0),
  (0x28A1B1ADB400000A, .xpageEvict g0 (.s 8) (.s 6) (.s 10) 0 true),
  (0x28C001A9B1B20518, .xhost g0 (.s 4) (.s 8) (.s 9) 0 true false .sys .vt true),
  (0x28E001A9B1B21A80, .xtier g0 (.s 4) (.s 8) (.s 9) 3 false true .part .sp false),
  (0x2901E3A9B1B20048, .xlink g0 (.c 1) (.s 4) (.s 8) (.s 9) 0 false false .core .vt .sp true),
  (0x2921A20000000001, .xwait g0 (.s 1) 0 true)]

theorem test_decode_rowA : words_rowA.all reads = true := by decide +kernel

/-- Row 0xB and `brk` (R346, R55). -/
def words_rowB : List (BitVec 64 × Instr) := [
  (0x2C000000000000FF, .trap g0 255),
  (0x2C20000000000000, .tret g0),
  (0x2C40020000000020, .csrr g0 (.v 1) false 0x020),
  (0x2C61E1A200001024, .csrw g0 (.c 0) (.s 1) true 0x024),
  (0x2C81A5A200000072, .csrs g0 (.s 2) (.s 1) false 0x072),
  (0x2CA005E200000000, .csrc g0 (.v 2) (.c 1) false 0),
  (0x2CC0000000000000, .lpinv g0),
  (0x2CE001A200000000, .halt g0 (.s 1)),
  (0xFFFFFFFFFFFFFFFF, .brk 3 0x1FFFFFFFFFFFFF)]

theorem test_decode_rowB : words_rowB.all reads = true := by decide +kernel

/-! ## Ill-formed instructions, one for each check of well-formedness -/

def illFormed : List Instr := [
  -- a destination of a class without constants, and one without scalars
  .iadd g0 .none (.c 0) (.v 1) (.v 2) false .n32, .movi g0 (.c 1) 7, .fadd g0 .none (.s 1) (.v 1) (.v 2) .rctl,
  .splitq g0 (.s 1) .mask, .call g0 (.c 1) 0 0, .faddImm g0 (.s 0) (.v 1) 0, .ixsetGet g0 (.c 0) 1,
  -- a hold of a source that is no direct vector register, or that the form does not have
  .iadd g0 .a (.v 0) (.s 1) (.v 2) false .n32, .mov g0 .b (.v 0) (.v 1), .imad g0 .c (.v 0) (.v 1) (.v 2) (.vi 0) false .n32,
  .icmp g0 .b 1 (.v 0) (.c 1) .eq .n32, .afscl g0 .b 0 1 (.s 2), .afcond g0 .b 0 1 .detach, .afterm g0 .a (.v 0) 1 .cnt,
  .pmov g0 .a (.pack (.v 1)), .bcast g0 .b (.s 0) (.v 1) (.s 2),
  -- a saturating low product
  .imad g0 .none (.v 0) (.v 1) (.v 2) (.v 3) true .n32,
  -- pair halves whose B is an index register, or held without being a vector register
  .movPair false { d := 0, b := .vi 1, g := 0, hb := false } { op := .mov, r := { d := 1, b := .v 2, g := 0, hb := false } },
  .movPair false { d := 0, b := .v 1, g := 0, hb := false } { op := .mov, r := { d := 1, b := .s 2, g := 0, hb := true } },
  -- scalar-only and even operands
  .launch g0 (.s 0) (.s 3), .launch g0 (.v 0) (.s 2), .chwait g0 (.v 1) (.s 0) 0, .post g0 (.v 0), .yield g0 (.c 1) 0,
  .ixbnd g0 (.v 0) (.s 1), .shfl g0 .none (.v 0) (.v 1) (.v 2) 0 .xor, .bcast g0 .none (.v 0) (.v 1) (.s 2), .halt g0 (.v 0),
  -- counts and modifiers
  .regrow g0 0, .regrow g0 12, .regshrink g0 0, .regshrink g0 12, .fence g0 .part 0xFF,
  .cvt g0 .none (.v 0) (.v 1) (.one .f32 .f32) .rctl, .afcmp g0 1 0 1 1 .lt, .afcond g0 .none 0 1 (.cnt 0 false),
  .vote g0 (.cnt (.c 0)) 1, .rqz g0 .none (.v 0) (.v 1) (.v 2) 0, .kpack g0 .none (.v 0) (.s 1) 0,
  -- memory forms: even base of the wide form, registers past the file's end, a colour in the scratchpad, no sign in a store
  .ldg g0 .none (.v 0) (.v 3) 0 .vt .n32 0, .ld g0 .none (.v 190) (.v 0) 0 .vt .n128 0, .ld g0 .none (.v 1) (.v 0) 0 .vt .n64 0,
  .ld g0 .none (.s 0) (.v 0) 0 .vt .n32 0, .st g0 .none (.v 0) (.v 1) 0 .sp .n32 1, .st g0 .none (.v 0) (.v 1) 0 .vt .s8 0,
  .atom g0 .none (.s 0) (.v 1) 0 .vt false 0 .add, .atom g0 .none (.v 0) (.v 1) 0 .sp false 1 .add, .resq g0 .none 1 (.v 1) true,
  -- a scope without acquire or release
  .cpy g0 (.s 0) (.s 1) (.s 2) (.s 3) .part false false .vt .sp, .dectab g0 (.s 0) (.s 1) .sys false 0,
  .decv g0 (.s 0) (.s 1) (.s 2) .core false .vt 0, .drain g0 (.s 0) (.s 1) (.s 2) false .part false .vt 0,
  -- coverage: records, even pairs, a context with a query that names none
  .cvmono g0 (.v 0) (.s 20), .cvblend g0 (.v 1) (.v 2) .over 0, .cvq g0 (.s 1) .recd 0, .cvq g0 (.s 0) .openMask 1,
  -- exchanges
  .xatom g0 (.v 0) (.v 2) none 0 false false .cas, .xatom g0 (.v 1) (.v 2) none 0 false false .add,
  .xlink g0 (.s 0) (.s 2) (.s 4) (.s 5) 0 false false .core .reg .vt true, .xpull g0 (.s 1) (.s 4) (.s 5) 0 false false .core .vt .vt,
  .xpageMap g0 (.s 0) (.s 3) (.s 4) 0,
  -- system registers that are not there
  .csrr g0 (.v 0) false 0xFFF, .csrw g0 (.v 0) (.v 1) false 0]

/-- The check refuses every one of them (R57-R67, and the chapters' field tables). -/
theorem test_ill_formed_refused : illFormed.all (fun i => !i.wf) = true := by decide +kernel

/-- The instructions of the decode tests are all well formed, and the encoder gives their words back. -/
theorem test_words_well_formed : (words_row0 ++ words_row1 ++ words_pairs ++ words_row2 ++ words_row3 ++ words_row4 ++
    words_row5 ++ words_row6 ++ words_row7 ++ words_row8 ++ words_row9 ++ words_rowA ++
    words_rowB).all
    (fun x => x.2.wf && encode x.2 == some x.1) = true := by decide +kernel

/-! ## Words that the decoder refuses -/

def refusedBy (ver : Nat) (w : BitVec 64) (c : BitVec 10) : Bool :=
  match decode ver w with
  | .ok _ => false
  | .error e => decide (e = c)

/-- Unassigned slots, a modifier of `nop`, a reserved type of `iadd`, a reserved destination, and a pair of version 1
(R61, R70, R71). -/
theorem test_refused_words :
    refusedBy 3 0x3000000000000000 Causes.illegalOpcode = true ∧ refusedBy 3 0x3FC0000000000000 Causes.illegalOpcode = true ∧
    refusedBy 3 0x0220000000000000 Causes.illegalOpcode = true ∧ refusedBy 3 0x0000000000000001 Causes.illegalModifier = true ∧
    refusedBy 3 0x0440020406000004 Causes.illegalModifier = true ∧
    refusedBy 3 0x441900000000000 Causes.reservedRegister = true ∧
    refusedBy 3 0x441e20000000000 Causes.reservedRegister = true ∧
    refusedBy 1 0x4002000000060800 Causes.illegalOpcode = true := by decide +kernel

/-! ## A small device for the witnesses

One core of partition 0 with one group of one team of grid 0: 12 blocks, all lanes live, at PC 0. The first granule of the
team's aperture is resident, the second is not. Format slots: FP32, bf16,
K8, C3, Int8, empty, fp16, K4. -/

def demoRecord : LaunchRec :=
  { placedRecord with
    flags := 8, vault := 0x100000, symq := 100
    slots := [0x01, 0x02, 0x08, 0x0C, 0x10, 0x00, 0x03, 0x0A].map (fun (k : BitVec 8) =>
      ({ kind := k, bsc := if k = 0x08 ∨ k = 0x0A then 5 else 0, d := 0, ro := 0, off := 0 } : FmtSlot)) }

def demoGrid : Grid := { placedGrid 0 with lrec := demoRecord, codesz := 0x1000, depth := 1, limit := 10 }

def demoTeam : Team := { placedTeam 0 with vault := 0x100000, afquota := 100 }

/-- The device with `PHCNT` at `ph`, its group, core and partition changed by `fg`, `fk` and `fp`. -/
def demoAll (ph : Dword) (fg : Group → Group) (fk : Core → Core) (fp : Partition → Partition) (fq : Cluster → Cluster) : State :=
  let g := fg { Group.start demoGrid 7 0 0 true 0 (List.range 12) 0 with xgrp := true }
  { State.reset with
    cores := [fk ((Core.reset.setTeam 0 (some demoTeam)).setGroup 0 (some g))]
    clusters := [fq Cluster.reset]
    parts := [fp { Partition.reset with
      opened := true, ncl := 1, phcnt := ph, ptroot := 0x1000
      apLeaves := [(aperture 0 0 / 0x10000, 0xF), (aperture 0 0 / 0x10000 + 1, 0xB)] }]
    queues := [Queue.reset]
    links := [Link.reset]
    grids := [demoGrid]
    nextId := 100 }

def demo (ph : Dword) (fg : Group → Group) : State := demoAll ph fg id id id
/-- A C-phase, with a changed group; an X-phase; a C-phase with a changed core. -/
def demoC (fg : Group → Group) : State := demo 0 fg
def demoX (fg : Group → Group) : State := demo 1 fg
def demoK (fk : Core → Core) : State := demoAll 0 id fk id id

/-- A group with scalar registers set. -/
def scal (l : List (Nat × Word)) (g : Group) : Group := l.foldl (fun g x => g.setScalar x.1 x.2) g
/-- A split of some lanes. -/
def someLanes (m : LaneMask) (pc : Word) (st : List JoinRec) : Option Split :=
  some { pc := pc, mask := m, stack := st, latch := [], since := 0 }
/-- A diverged group. -/
def diverged (g : Group) : Group := { g with splits := [someLanes 0xFFFF 0 [], someLanes 0xFFFF0000 64 [], none, none] }
/-- A group with a register pending from a load. -/
def pending (g : Group) : Group :=
  { g with inflight := [{ id := 5, kind := .load, vregs := [3], sregs := [], vdata := [(3, 0, 9), (3, 31, 10)], sdata := []
                          flags := 0, ready := true }] }
/-- The guard of the lanes of `p1`, and lanes in it. -/
def gp : Guard := { settle := false, pg := 1, pn := false }
def inP (m : LaneMask) (g : Group) : Group := g.setPred 1 allLanes m

def always (_ : Env) : Bool := true

def okIs [DecidableEq α] (x : Except ε α) (v : α) : Bool :=
  match x with
  | .ok y => decide (y = v)
  | .error _ => false
def isOk (x : Except ε α) : Bool :=
  match x with
  | .ok _ => true
  | .error _ => false

/-! ## Witnesses -/

theorem ready_meets {f : Form} {s : State} {c : Env → Bool} (h : f.meets s c = true) : ∃ e, f.Ready e s ∧ c e = true :=
  Form.ready_of_meets h

theorem witness_DecodeOfEncode :
    (Instr.ld g1 .a (.v 188) (.v 191) 0xFFFF .vt .n128 7).wf = true ∧
      (encode (.ld g1 .a (.v 188) (.v 191) 0xFFFF .vt .n128 7)).isSome = true := by decide +kernel

/-- The range's ends, and `brk`. -/
theorem witness_UnassignedRowsRefused :
    ((0x3000000000000000 : BitVec 64).getLsbD 62 = false ∧ ((0x3000000000000000 : BitVec 64).extractLsb' 53 9).toNat = 0x180) ∧
    ((0x3FC0000000000000 : BitVec 64).getLsbD 62 = false ∧ ((0x3FC0000000000000 : BitVec 64).extractLsb' 53 9).toNat = 0x1FE) ∧
    ((0x3FE0000000000000 : BitVec 64).extractLsb' 53 9).toNat = 0x1FF := by decide +kernel

/-- The hypotheses of a step that issues the word `w`, decoded to `i`. -/
def issues (s : State) (t : List Move) (w : Dword) (i : Instr) : Bool :=
  decide (s.agenda = .issue 0 0 0xFFF0 :: t) && !(s.cluster 0).frozen &&
    (match State.choose { s with agenda := t } 0 0 0xFFF0 with
     | some (slot, split, s1) =>
       (match s1.group 0 slot with
        | some g =>
          (match g.split split with
           | some sp =>
             !g.dueBefore && !g.gatherDue &&
               decide ((State.fetch { s1 with cur := { core := 0, slot := slot, split := split } } 0 (s1.grid g.grid) sp.pc).2 =
                 some w) &&
               !isBrk w && !(w.getLsbD 63 && g.anyPending) &&
               (match decode (s1.grid g.grid).lrec.ver.toNat w with
                | .ok j => decide (j = i)
                | .error _ => false)
           | none => false)
        | none => false)
     | none => false)

theorem witness_StepRunsDecoded_word :
    issues (State.reset.withFetchWord 64 0x04400E0FFFFFFFFD) [] 0x04400E0FFFFFFFFD (.iaddImm g0 (.v 7) (.v 7) 0xFFFFFFFD) = true := by
  decide +kernel

theorem witness_StepRunsDecoded_event :
    { demoC id with agenda := [.event .powerOff] }.agenda = [.event .powerOff] ∧ encode .powerOff = none ∧
      encode (.nop g0) ≠ none := by decide +kernel

/-- A word with nothing cached, on a page whose leaf lies in the partition's page table. -/
theorem witness_StepRunsDecoded_fetch :
    let s := State.reset.withFetchWord 64 0x04400E0FFFFFFFFD
    let a := ((s.grid 0).lrec.code.toNat + 0) % 2 ^ 48
    (s.grid 0).mapped 0 = true ∧ a % 8 = 0 ∧ (s.core 0).icache = [] ∧ (s.core 0).itlb = [] ∧ s.bytesAt (s.grid 0).part a 8 = some (leBytes 8 0x04400E0FFFFFFFFD) ∧
      (walk s.host (s.part (s.grid 0).part) a).any (fun l => match l.ref with
        | .host _ => true
        | _ => false) = true := by decide +kernel

/-- The forms of rows 0x1 and 0x2: vector, index and scalar operands, one passing lane, none, and a diverged group. -/
theorem witness_IntegerResults :
    (aluForm g0 .b (.v 191) (some (.v 0)) (some (.v 1)) (some (.v 2))).meets (demoC id) always = true ∧
    (aluForm g0 .none (.s 23) (some (.vi 7)) (some (.c 15)) none).meets (demoC id) always = true ∧
    (aluForm gp .none (.vi 0) (some (.s 0)) none none).meets (demoC (inP 0x80000000)) always = true ∧
    (aluForm gp .none (.v 0) none none none).meets (demoC (fun g => diverged (inP 0 g))) always = true := by decide +kernel

theorem witness_BitResults :
    (aluForm g0 .none (.v 3) (some (.v 1)) (some (.v 2)) (some (.v 3))).meets (demoC id) always = true ∧
    (aluForm g0 .a (.v 3) (some (.v 1)) none none).meets (demoX id) always = true := by decide +kernel

theorem witness_CarryResults :
    (aluForm g0 .none (.v 3) (some (.v 1)) (some (.v 2)) none).meets (demoC id) always = true ∧
    (aluForm g0 .none (.s 3) (some (.v 1)) (some (.v 2)) none).meets (demoC id) always = true := by decide +kernel

theorem witness_PredicateResults :
    ({ aluForm g0 .none (.v 1) (some (.v 1)) (some (.v 2)) none with dsts := [] } : Form).meets (demoC id) always = true ∧
    (Form.plain gp).meets (demoC (inP 1)) always = true ∧
    ({ Form.plain g0 with held := heldReg .a (some (.v 1)) none none, srcs := [(.v 1, 1)] } : Form).meets (demoC id) always =
      true := by decide +kernel

theorem witness_LaneResults :
    ({ Form.plain g0 with dsts := [(.v 5, 1)], idxs := [7] } : Form).meets (demoC id) always = true ∧
    ({ Form.plain g0 with dsts := [(.s 5, 1)] } : Form).meets (demoC id) always = true ∧
    (shflForm g0 .none (.v 5) (.v 1) (.s 2) (fun e => e.lanes)).meets (demoC id) always = true ∧
    (shflForm g0 .none (.v 5) (.vi 1) (.s 2) (fun e => [(e.rd (.s 2) 0).toNat % 32])).meets (demoC id) always = true := by
  decide +kernel

def twoSources : Form := Form.grouped { Form.plain g0 with srcs := [(.s 0, 1), (.s 1, 1)] }

/-- `ixbnd`: the whole allocation; an empty window; one past the allocation. -/
theorem witness_IndexResults :
    ({ Form.plain g0 with held := heldReg .a (some (.v 1)) none none, srcs := [(.v 1, 1)], idxs := [7] } : Form).meets (demoC id)
      always = true ∧
    ({ Form.plain g0 with held := heldReg .none none (some (.v 1)) none, srcs := [(.v 1, 1)], idxs := [0, 1] } : Form).meets
      (demoC id) always = true ∧
    ({ Form.plain g0 with idxs := [7, 7] } : Form).meets (demoC id) always = true ∧
    ({ Form.plain g0 with held := heldReg .none (some (.v 1)) none none, srcs := [(.v 1, 1)] } : Form).meets (demoC id) always =
      true ∧
    twoSources.meets (demoC (scal [(0, 0), (1, 192)])) (fun e => decide (e.act ≠ 0 ∧ (e.rd (.s 0) 0).toNat < (e.rd (.s 1) 0).toNat ∧
      (e.rd (.s 1) 0).toNat ≤ e.g.nregs)) = true ∧
    twoSources.meets (demoC (scal [(0, 16), (1, 16)])) (fun e => decide (e.act ≠ 0 ∧ (e.rd (.s 1) 0).toNat ≤ (e.rd (.s 0) 0).toNat)) =
      true ∧
    twoSources.meets (demoC (scal [(0, 0), (1, 193)])) (fun e => decide (e.act ≠ 0 ∧ e.g.nregs < (e.rd (.s 1) 0).toNat)) = true := by
  decide +kernel

/-- FPCTL with every trap enabled. -/
def trapsOn (g : Group) : Group := { g with fpctl := 0x3F00 }
def fpFlags (e : Env) (r : Nat → FpRes) : Flags := unionFlags e.lanes (fun l => (r l).2)

/-- Quiet operands; a sum of +∞ and -∞ (IV) with its trap enabled; a comparison of a NaN likewise. -/
theorem witness_FloatResults :
    (fpForm g0 .none (.v 3) (some (.v 1)) (some (.v 2)) (some (.v 3))).meets (demoC id) always = true ∧
    (fpForm g0 .none (.v 3) (some (.v 1)) none none).meets (demoC id) always = true ∧
    (fpForm g0 .none (.v 3) (some (.c 3)) (some (.c 4)) none).meets (demoC id) (fun e =>
      fpFlags e (fun l => fp32.addV (fpMode e.g.fpctl .rne) (fp32.value false (e.rd (.c 3) l).toNat)
        (fp32.value false (e.rd (.c 4) l).toNat)) &&& trapEnables e.g.fpctl == 0) = true ∧
    (fpForm g0 .none (.v 3) (some (.c 7)) (some (.c 8)) none).meets (demoC trapsOn) (fun e =>
      fpFlags e (fun l => fp32.addV (fpMode e.g.fpctl .rne) (fp32.value false (e.rd (.c 7) l).toNat)
        (fp32.value false (e.rd (.c 8) l).toNat)) &&& trapEnables e.g.fpctl != 0) = true ∧
    ({ fpForm g0 .none (.v 3) (some (.c 9)) (some (.c 3)) none with dsts := [] } : Form).meets (demoC trapsOn) (fun e =>
      unionFlags e.lanes (fun l => (fcmpV .lt (fp32.value false (e.rd (.c 9) l).toNat) (fp32.value false (e.rd (.c 3) l).toNat)).2)
        &&& trapEnables e.g.fpctl != 0) = true ∧
    ({ fpForm g0 .none (.v 3) (some (.c 3)) (some (.c 3)) none with dsts := [] } : Form).meets (demoC trapsOn) (fun e =>
      unionFlags e.lanes (fun l => (fcmpV .eq (fp32.value false (e.rd (.c 3) l).toNat) (fp32.value false (e.rd (.c 3) l).toNat)).2)
        &&& trapEnables e.g.fpctl == 0) = true := by decide +kernel

def half1 : PairHalf := { op := .iadd .s32, r := { d := 1, b := .v 2, g := 0, hb := true } }
def half2 : PairHalf := { op := .fadd .rne, r := { d := 4, b := .c 8, g := 1, hb := false } }
def pairFlags (e : Env) : Flags :=
  unionFlags (e.halfLanes half1) (fun l => (e.halfRes half1 l).2) ||| unionFlags (e.halfLanes half2) (fun l => (e.halfRes half2 l).2)

/-- A quiet pair; one that adds -∞ to +∞ in the lanes of its guard, with the trap enabled. -/
theorem witness_PairResults :
    (pairForm false half1 half2).meets (demoC (inP 0xF)) (fun e =>
      decide e.g.blocks.Nodup && (pairFlags e &&& trapEnables e.g.fpctl == 0)) = true ∧
    (pairForm true half1 half2).meets (demoAll 0 (fun g => trapsOn (inP 0xF g))
      (fun k => { k with regs := [(4 * 32, 0x7F800000)] }) id id) (fun e =>
        decide e.g.blocks.Nodup && (pairFlags e &&& trapEnables e.g.fpctl != 0)) = true := by decide +kernel

def kForm (b : Option Reg) : Form := Form.grouped { fpForm g0 .none (.v 3) (some (.v 1)) b none with
  pre := fun _ => none
  also := fun e => e.indexed (.v 1) (List.range 32)
  alsoD := fun e => e.indexed (.v 3) (LaneMask.toList e.g.live) }

/-- Slot 2 is K8, 5 empty, 0 FP32; an exponent operand of 0 and of 255. -/
theorem witness_FormatResults :
    (kForm none).meets (demoC id) (fun e => decide (e.act ≠ 0 ∧ (e.gr.slot 2).isK = true) && trapEnables e.g.fpctl == 0) = true ∧
    (kForm none).meets (demoC id) (fun e => decide (e.act ≠ 0 ∧ (e.gr.slot 5).kind = 0)) = true ∧
    (kForm none).meets (demoC id) (fun e => decide (e.act ≠ 0 ∧ (e.gr.slot 0).kind ≠ 0 ∧ (e.gr.slot 0).isK = false)) = true ∧
    (kForm (some (.s 2))).meets (demoC (scal [(2, 254)])) (fun e => decide (e.act ≠ 0 ∧ (e.gr.slot 7).isK = true ∧
      (e.sc (.s 2)).toNat % 256 ≠ 255) && trapEnables e.g.fpctl == 0) = true ∧
    (kForm (some (.s 2))).meets (demoC (scal [(2, 255)])) (fun e => decide (e.act ≠ 0 ∧ (e.gr.slot 7).isK = true ∧
      (e.sc (.s 2)).toNat % 256 = 255)) = true := by decide +kernel

/-- A transform queue with words of another group. -/
def piped (n : Nat) (k : Core) : Core := { k with xpipe := [List.replicate n { slot := 1, inflight := 50 }, [], [], []] }

/-- Three words queued, four, and no passing lane. -/
theorem witness_TransformIssue :
    (fpForm g0 .a (.v 3) (some (.v 1)) none none).meets (demoK (piped 3)) (fun e =>
      decide (e.act ≠ 0 ∧ (e.k.pipe (e.slot / 4)).length < 4)) = true ∧
    (fpForm g0 .a (.v 3) (some (.v 1)) none none).meets (demoK (piped 4)) (fun e =>
      decide (e.act ≠ 0 ∧ 4 ≤ (e.k.pipe (e.slot / 4)).length)) = true ∧
    (fpForm gp .a (.v 3) (some (.v 1)) none none).meets (demoC id) (fun e => decide (e.act = 0)) = true := by decide +kernel

/-- The hypotheses of a returning result. -/
def returns (s : State) (c slot : Nat) (f : Nat) : Bool :=
  (s.group c slot).any (fun g => g.spill.isNone && (g.flight f).any (fun f =>
    f.sdata.isEmpty && decide ((f.vdata.map (fun x => g.cell slot x.1 x.2.1)).Nodup)))

theorem witness_ResultsReturn :
    (returns (demoC pending) 0 0 5 && ((demoC pending).group 0 0).any (fun g => (g.inflight[0]?).any (fun f =>
      f.ready && f.kind == .load))) = true ∧
    (let s := demoAll 0 (fun g => { pending g with inflight := (pending g).inflight.map (fun f => { f with kind := .transform }) })
       (fun k => { k with xpipe := [[{ slot := 0, inflight := 5 }, { slot := 1, inflight := 50 }], [], [], []] }) id id
     returns s 0 0 5 && (s.core 0).pipe 0 == [{ slot := 0, inflight := 5 }, { slot := 1, inflight := 50 }]) = true := by
  decide +kernel

/-- A core whose affine register 0 is malformed in lane 1 (its centre is a NaN, the rest zero), and a team with `n` symbols live. -/
def badWord (k : Core) : Core := { k with regs := [(64 * 32 + 1, 0x7FC00000)] }
def liveSyms (n : BitVec 16) (k : Core) : Core := k.setTeam 0 (some { demoTeam with aflive := n })

def affSet : Form := affForm g0 .none [0] [] [] [.c 3, .c 3] (some (.c 3)) (some (.c 3))
def symsMade (e : Env) : Nat :=
  (assignSymbols e.t.afnext.toNat (e.lanes.map (fun l =>
    (l, match (do return qtySet true (← fin32 (e.rd (.c 3) l)) (← fin32 (e.rd (.c 3) l))) with
        | none => .invalid
        | some q => formAff (e.g.helper.getLsbD l) q.qty)))).count

/-- `afset.sym` of 1 ± 1 mints 32 numbers: with 68 live of a quota of 100, and with 69; a malformed operand; none minted. -/
theorem witness_AffineResults :
    affSet.meets (demoK (liveSyms 68)) (fun e => decide (e.badAff affSet.affS = none ∧ symsMade e = 32 ∧
      e.t.aflive.toNat + symsMade e ≤ e.t.afquota.toNat)) = true ∧
    affSet.meets (demoK (liveSyms 69)) (fun e => decide (e.badAff affSet.affS = none ∧ symsMade e = 32 ∧ symsMade e ≠ 0 ∧
      e.t.afquota.toNat < e.t.aflive.toNat + symsMade e)) = true ∧
    (affForm g0 .none [1] [0] [] [] none none).meets (demoK badWord) (fun e => decide (e.badAff [0] = some 1)) = true ∧
    (affForm g0 .none [1] [0, 2] [] [] none none).meets (demoC id) (fun e => decide (e.badAff [0, 2] = none)) = true ∧
    (affForm g0 .b [1] [0] [] [.v 1] none (some (.v 1))).meets (demoC id) (fun e => decide (e.badAff [0] = none)) = true := by
  decide +kernel

/-- `afrel`'s operands: the whole live pool, one more, and an empty range. -/
theorem witness_AffineReads :
    (affForm g0 .none [] [0] [.v 3] [] none none).meets (demoC id) (fun e => decide (e.badAff [0] = none)) = true ∧
    (affForm g0 .none [] [0] [.v 3] [] none none).meets (demoK badWord) (fun e => decide (e.badAff [0] = some 1)) = true ∧
    (affForm g0 .a [] [0] [.v 3] [.v 5] none (some (.v 5))).meets (demoC id) (fun e => decide (e.badAff [0] = none)) = true ∧
    (affForm g0 .none [] [0, 1] [] [] none none).meets (demoC id) (fun e => decide (e.badAff [0, 1] = none)) = true ∧
    (let f := Form.grouped (affForm g0 .none [] [] [] [.s 0, .s 1] none none)
     let ok := fun (e : Env) => decide ((e.sc (.s 0)).toNat ≠ 0 ∧ (e.sc (.s 0)).toNat ≤ (e.sc (.s 1)).toNat ∧
       (e.sc (.s 1)).toNat ≤ 65535 ∧ (e.sc (.s 1)).toNat - (e.sc (.s 0)).toNat + 1 ≤ e.t.aflive.toNat)
     f.meets (demoAll 0 (scal [(0, 65526), (1, 65535)]) (liveSyms 10) id id) (fun e => decide (e.act ≠ 0) && ok e) = true ∧
     f.meets (demoAll 0 (scal [(0, 65525), (1, 65535)]) (liveSyms 10) id id) (fun e => decide (e.act ≠ 0) && !ok e) = true ∧
     f.meets (demoAll 0 (scal [(0, 2), (1, 1)]) (liveSyms 10) id id) (fun e => decide (e.act ≠ 0) && !ok e) = true) ∧
    (Form.grouped (affForm g0 .none [] [] [] [] none none)).meets (demoC id) (fun e => decide (e.act ≠ 0)) = true := by
  decide +kernel

/-- A form that is ready, whose lanes' addresses pass their checks, with a condition on what they reach. -/
def reaches (f : Form) (s : State) (b : MBase) (n : Nat) (store : Bool) (c : Env → State → List (Nat × Reach) → Bool) : Bool :=
  f.meets s (fun e =>
    match e.checked b n store s with
    | (s1, .ok r) => c e s1 r
    | (_, .error _) => false)

def bSp : MBase := { reg := .s 0, wide := false, disp := 0, space := .sp }
def bVt : MBase := { reg := .s 0, wide := false, disp := 0, space := .vt }
def bWide : MBase := { reg := .s 0, wide := true, disp := 0, space := .vt }
/-- The partition-virtual address of the team's aperture, and of its second granule, which is not resident. -/
def hitAt : List (Nat × Word) := [(0, BitVec.ofNat 32 (aperture 0 0)), (1, BitVec.ofNat 32 (aperture 0 0 / 2 ^ 32))]
def missAt : List (Nat × Word) := [(0, BitVec.ofNat 32 (aperture 0 0 + 0x10000)), (1, BitVec.ofNat 32 (aperture 0 0 / 2 ^ 32))]

/-- Loads of the last word of the scratchpad, of a resident granule and of one that is not. -/
theorem witness_LoadsComplete :
    reaches (memForm g0 .none (some (.v 4, 1)) true bSp true) (demoX (scal [(0, 0xFFFC)])) bSp 4 false
      (fun e _ _ => decide (e.act ≠ 0)) = true ∧
    reaches (memForm g0 .none (some (.v 4, 4)) true bVt true) (demoC (scal [(0, 0x10000)])) bVt 16 false
      (fun e _ r => decide (e.act ≠ 0) && decide (missLanes e.core r ≠ 0)) = true ∧
    reaches (memForm g0 .none (some (.v 4, 1)) true bWide true) (demoC (scal hitAt)) bWide 4 false
      (fun e _ r => decide (e.act ≠ 0) && decide (missLanes e.core r = 0)) = true ∧
    reaches { memForm g0 .none (some (.v 4, 1)) true bWide false with log := true } (demoC (scal hitAt)) bWide 4 false
      (fun e _ r => decide (e.act ≠ 0 ∧ lowestFree e.g.logs = some 0 ∧ missLanes e.core r = 0)) = true ∧
    reaches { memForm g0 .none (some (.v 4, 1)) true bWide false with log := true } (demoC (scal missAt)) bWide 4 false
      (fun e _ r => decide (e.act ≠ 0 ∧ lowestFree e.g.logs = some 0 ∧ missLanes e.core r ≠ 0)) = true := by decide +kernel

/-- The last word below SCRATCH. -/
theorem witness_ScratchLoadReads :
    (memForm g0 .none (some (.v 4, 4)) true bSp true).meets (demoX (scal [(0, 0xFFF0)])) (fun e => decide (e.act ≠ 0 ∧
      e.g.helper = 0 ∧ ∀ l ∈ e.lanes, (e.rd (.s 0) l + (0 : BitVec 16).signExtend 32).toNat % 16 = 0 ∧
        (e.rd (.s 0) l + (0 : BitVec 16).signExtend 32).toNat < e.t.scratch)) = true := by decide +kernel

theorem witness_StoresComplete :
    reaches (memForm g0 .none (some (.v 4, 1)) false bVt true) (demoC (scal [(0, 0x1FFFC)])) bVt 4 true
      (fun e s1 r => (s1.cluster (e.core / 8)).roomFor e.part (missLines e.core r)) = true ∧
    reaches (memForm g0 .none (some (.v 4, 2)) false bWide true) (demoC (scal hitAt)) bWide 8 true
      (fun e s1 r => (s1.cluster (e.core / 8)).roomFor e.part (missLines e.core r)) = true ∧
    -- a word of two pieces, then a byte of another word; the first drains whole, and its second piece may come before the first
    (let s := demoC (fun g => { g with wq := [
       { id := 3, word := 3, col := 7, off := 0, kind := .store [1, 2, 3, 4], passed := [] },
       { id := 4, word := 3, col := 7, off := 4, kind := .store [5, 6, 7, 8], passed := [] },
       { id := 5, word := 5, col := 7, off := 0, kind := .store [9], passed := [] }] })
     (s.group 0 0).any (fun g => (g.wq.find? (fun q => q.col == 7)).any (fun q => decide (q.word = 3 ∧
         g.wq.Pairwise (fun x y => x.id < y.id)) && g.wq.all (fun x => match x.kind with
         | .store _ => true
         | .atomic _ _ _ _ _ _ _ => false)) &&
       [1, 2].map (fun n => (g.wq[n]?).map (fun q => g.wq.all (fun x => decide (x.id < q.id ∧ x.col = q.col →
         x.word = q.word ∧ ∀ a ∈ x.offsets, a ∉ q.offsets)))) == [some true, some false]) &&
     (s.group 0 0).any (fun g => g.wq.all (fun q => q.col != 6))) = true := by decide +kernel

theorem witness_ScratchStoreFrame :
    (memForm g0 .none (some (.v 4, 1)) false bSp true).meets (demoC (scal [(0, 0xFFFC)])) (fun e => decide (∀ l ∈ e.realLanes,
      (e.rd (.s 0) l + (0 : BitVec 16).signExtend 32).toNat % 4 = 0 ∧
        (e.rd (.s 0) l + (0 : BitVec 16).signExtend 32).toNat < e.t.scratch ∧
        e.k.meetsTile (e.t.spb + (e.rd (.s 0) l + (0 : BitVec 16).signExtend 32).toNat) 4 = false)) = true := by decide +kernel

def fullAtoms (k : Core) : Core :=
  { k with atoms := List.replicate Config.atombCap {
      key := { order := 0, team := 0, group := 0, lane := 0, seq := 0 }, grid := 0, place := .scratch 0 0, op := .add, w64 := false
      data := 0, cmp := 0 } }

/-- A granule that is not resident, one that is, no real lane; room in the buffer, and none. -/
theorem witness_AtomicsComplete :
    reaches (atomForm g0 .none (.v 4) bVt false .cas true) (demoC (scal [(0, 0x10000)])) bVt 4 true
      (fun e _ r => (firstMiss e.core r).isSome) = true ∧
    reaches (atomForm g0 .none (.v 4) bVt true .add true) (demoC (scal [(0, 0xFFF8)])) bVt 8 true
      (fun e _ r => (firstMiss e.core r).isNone && !r.isEmpty) = true ∧
    reaches (atomForm gp .none (.v 4) bVt true .add true) (demoC id) bVt 8 true (fun _ _ r => r.isEmpty) = true ∧
    reaches (atomForm gp .none (.v 4) bSp false .exch false) (demoC (inP 1)) bSp 4 true (fun e s1 r =>
      (s1.cluster (e.core / 8)).roomFor e.part (missLines e.core r) && decide (e.atombFull r s1 = none ∧ e.act ≠ 0)) = true ∧
    reaches (atomForm gp .none (.v 4) bSp false .exch false) (demoAll 0 (inP 1) fullAtoms id id) bSp 4 true (fun e s1 r =>
      (s1.cluster (e.core / 8)).roomFor e.part (missLines e.core r) && (e.atombFull r s1).isSome) = true := by decide +kernel

theorem witness_AtomicValue : Memory.wf [(3, 1), (9, 0xFF)] = true := by decide +kernel

def queued (l : List Nat) (g : Group) : Group :=
  { g with wq := l.map (fun c => { id := c, word := c, col := c, off := 0, kind := .store [1], passed := [] }) }

/-- A page of partition-virtual address 0x10000 whose leaf, resident with W, stands in the host's memory at 0x4008. -/
def hostVa : Nat := 0x10000
def hostPage (s : State) : State :=
  { s with host := [(0x1000, [1, 0x20]), (0x2000, [1, 0x30]), (0x3000, [1, 0x40]), (0x4008, [0xF])].foldl (fun m x =>
      Memory.store m x.1 x.2) s.host }

/-- A walk for lane 0 of the placed group, by a prefetch. -/
def walkOf (va : Nat) (leaf : Dword) : Walk :=
  { grid := 0, part := 0, va := va, big := false, leaf := leaf, access := false, slot := 0, lanes := 1 }

/-- A fence with nothing of its colours queued, and with something; a demoted one; residency words; a walk of a leaf that
stands, of one that has changed, and of an invalid page. -/
theorem witness_ResidencyWords :
    ({ Form.plain g0 with inX := false } : Form).meets (demoC (queued [7])) (fun e => decide (e.act ≠ 0) && isOk (e.demote true) &&
      e.g.wq.all (fun q => (0x80 : BitVec 8).getLsbD q.col)) = true ∧
    ({ Form.plain g0 with inX := false } : Form).meets (demoC (queued [0, 7])) (fun e => decide (e.act ≠ 0) && isOk (e.demote false) &&
      e.g.wq.any (fun q => !(0x80 : BitVec 8).getLsbD q.col)) = true ∧
    ({ Form.plain g0 with inX := false } : Form).meets (demoAll 0 id id (fun p => { p with tenantScope := true }) id) (fun e =>
      decide (e.act ≠ 0) && isOk (e.demote true)) = true ∧
    ({ memForm g0 .a none false { bVt with reg := .v 0 } false with inX := false } : Form).meets (demoC id) (fun e =>
      decide (e.rangeTrap { bVt with reg := .v 0 } 1 e.realLanes = none ∧ e.rangeTrap { bVt with reg := .v 0 } 4 e.realLanes = none)) =
      true ∧
    reaches { memForm g0 .none none false bVt false with inX := false } (demoC id) bVt 4 false
      (fun e _ r => r.all (fun x => !x.2.misses e.core)) = true ∧
    reaches { memForm g0 .none none false bVt false with inX := false } (demoC (scal [(0, 0x10000)])) bVt 4 false
      (fun e _ r => r.any (fun x => x.2.misses e.core)) = true ∧
    (let s := demoK (fun k => { k with walks := [walkOf (aperture 0 0) 0xF, walkOf (aperture 0 0) 0xB, walkOf 0 0xF] })
     let gives := fun (i : Nat) (o : Option Bool) => ((s.core 0).walks[i]?).any (fun w =>
       (walk s.host (s.part w.part) w.va).map (fun l => l.pte == w.leaf) == o)
     gives 0 (some true) && gives 1 (some false) && gives 2 none) = true ∧
    -- an access's walk of a leaf that the host has rewritten since, the page still valid, and then not
    [0xF, 0xE].all (fun b =>
      let s := (fun s => { s with host := Memory.store s.host 0x4008 [b] })
        (hostPage (demoK (fun k => { k with walks := [{ walkOf hostVa 0xB with access := true }] })))
      decide (leafPlace s.host (s.part 0) hostVa false = some (.host 0x4008)) &&
        (walk s.host (s.part 0) hostVa).all (fun l => l.pte != 0xB) && (walk s.host (s.part 0) hostVa).isSome == (b == 0xF)) = true ∧
    -- an engine's address on a page whose leaf the host's memory holds
    (let s := hostPage (demoC id)
     (s.pick 0 0 512 hostVa).2.1.any (fun l => decide (l.ref = .host 0x4008)) &&
       decide (Memory.dword (s.translate 0 0 hostVa true).1.host 0x4008 = 0x3F)) = true := by decide +kernel

def copying (uid : Nat) (n : Nat) (k : Core) : Core :=
  { k with copies := (List.range n).map (fun i => {
      slot := 0, uid := uid, team := 0, seq := BitVec.ofNat 16 (i + 1), cslot := BitVec.ofNat 3 i, dsp := .sp, ssp := .vt, dst := 0
      src := 0, len := 4, acq := false, acqId := 0, cruiser := none, moved := 0, entry := 0, alone := false }) }

def copyForm : Form := Form.grouped (engineForm g0 [(.s 3, 1)] [.s 0, .s 1, .s 2])
def copyArgs (e : Env) : CopyArgs :=
  { dsp := .sp, ssp := .vt, dst := (e.sc (.s 0)).toNat, src := (e.sc (.s 1)).toNat, len := (e.sc (.s 2)).toNat }

/-- A copy up to the end of both allocations with seven outstanding, with eight; a wait with none outstanding and with one;
one outstanding to complete. -/
theorem witness_CopyEngine :
    copyForm.meets (demoAll 0 (scal [(0, 0xFFFC), (1, 0xFFFFC), (2, 4)]) (copying 7 7) id id) (fun e => decide (e.act ≠ 0 ∧
      e.k.freeCopySlot e.g.uid = some 7) && isOk (e.copyCheck (copyArgs e)) && isOk (e.demote false)) = true ∧
    copyForm.meets (demoAll 0 (scal [(2, 4)]) (copying 7 8) id id) (fun e => decide (e.act ≠ 0 ∧
      e.k.freeCopySlot e.g.uid = none) && isOk (e.copyCheck (copyArgs e))) = true ∧
    (Form.grouped (engineForm g0 [] [.c 0])).meets (demoC id) (fun e => decide (e.act ≠ 0 ∧
      e.k.tagWait e.slot e.g (e.tagOf (.c 0)) = some true)) = true ∧
    (Form.grouped (engineForm g0 [] [.c 0])).meets (demoK (copying 7 1)) (fun e => decide (e.act ≠ 0 ∧
      e.k.tagWait e.slot e.g (e.tagOf (.c 0)) = some false)) = true ∧
    -- the first of two copies, and the second; one of a core that nothing else uses, before its clock and in it
    [0, 1].all (fun i => (((demoK (copying 7 2)).core 0).copies[i]?).isSome) = true ∧
    (let k := copying 7 1 ((demoC id).core 0)
     (k.copies.head?).any (fun x => x.entry + 8 + (x.len + 127) / 128 + 3 == 12 &&
       ({ k with copies := [{ x with alone := true }] }).aloneSince x.uid x.entry)) = true ∧
    -- a piece past the vault fails before the copy's clock
    (let s := demoK (fun k => { k with copies := (copying 7 1 k).copies.map (fun x => { x with src := 0xFFFFF0, alone := true }) })
     ((s.core 0).copies.head?).any (fun x => decide (s.clock < x.entry + 8 + 1 + 3) &&
       !({ s with clock := 8 }.copyPieces 0 0 { dsp := x.dsp, ssp := x.ssp, dst := x.dst, src := x.src, len := x.len } 0 1).2)) = true := by
  decide +kernel

theorem witness_ScratchCopyMoves :
    0 < (demoC id).cores.length ∧ (demoC id).team 0 0 = some demoTeam ∧ Memory.wf ((demoC id).core 0).sp = true ∧ 256 % 4 = 0 ∧
      (0 + 256 ≤ 256 ∨ 256 + 256 ≤ 0) := by decide +kernel

/-- `dectab` of the last table, of none; `decv` of a C3 block at the end of the scratchpad and of a K8 block; the engine's two
kinds of command. -/
theorem witness_DecodeEngine :
    (Form.grouped (engineForm g0 [] [.s 0, .s 1])).meets (demoC (scal [(0, 15), (1, 16)])) (fun e => decide (e.act ≠ 0 ∧
      (e.gr.slot 3).isC3 = true ∧ (e.sc (.s 1)).toNat ≤ 16)) = true ∧
    (Form.grouped { engineForm g0 [(.v 4, 4)] [.s 0, .s 1] with pre := fun _ => decvAlign (.v 4) 4 }).meets
      (demoC (scal [(0, 0xFFD0), (1, 128)])) (fun e => decide (e.act ≠ 0 ∧ (e.gr.slot 3).decodable = true ∧ (e.gr.slot 3).kind ≠ 0 ∧
        (e.gr.slot 3).isC3 = true ∧ (e.sc (.s 1)).toNat % 128 = 0 ∧ (e.sc (.s 0)).toNat % 4 = 0 ∧
        (e.sc (.s 0)).toNat + (e.gr.slot 3).blockBytes ≤ Team.size e.t .sp)) = true ∧
    (Form.grouped { engineForm g0 [(.v 5, 1)] [.s 0, .s 1] with pre := fun _ => decvAlign (.v 5) 1 }).meets
      (demoC (scal [(1, 5)])) (fun e => decide (e.act ≠ 0 ∧ (e.gr.slot 2).decodable = true ∧ (e.gr.slot 2).kind ≠ 0 ∧
        (e.gr.slot 2).isC3 = false ∧ (e.sc (.s 0)).toNat % 4 = 0 ∧
        (e.sc (.s 0)).toNat + (e.gr.slot 2).blockBytes ≤ Team.size e.t .vt)) = true ∧
    (let x := fun (k : DecKind) => ({ slot := 0, uid := 7, team := 0, pc := 0, kind := k, acq := false, acqId := 0, cruiser := none } : DecCmd)
     let f := demoGrid.slot 3
     ((demoK (fun k => { k with decq := [x (.table f 0 1)] })).core 0).decq = [x (.table f 0 1)] ∧
     ((demoK (fun k => { k with decq := [x (.block f .vt 0 0 4 9)] })).core 0).decq = [x (.block f .vt 0 0 4 9)]) := by
  decide +kernel

/-- A descriptor of one level and one `mmas` emitter of no rows, and the scratchpad bytes that hold it. -/
def demoDesc : CruiserDesc :=
  { nlev := 1, emitters := [{ kind := .mmas, level := 0, wait := false, mod := 0, cnt := 0, basex := 0, basey := 0
                              strx := [0, 0, 0, 0], stry := [0, 0, 0, 0] }] }
def descBytes (k : Core) : Core := { k with sp := [(0xFFC0, 0x11)] }
def demoRun (m : BitVec 8) : CruiserDesc × CruiserRun :=
  ({ demoDesc with emitters := demoDesc.emitters.map (fun e => { e with mod := m }) },
   { id := 3, slot := 0, uid := 7, team := 0, pc := 0, trips := [2], idx := [0], emit := 0 })
def running (m : BitVec 8) (k : Core) : Core :=
  { k with mowner := some 0, cruiser := some (demoRun m).1, run := some (demoRun m).2 }
def owner (e : Env) : Bool := decide (e.act ≠ 0 ∧ (e.k.mowner = none ∨ e.k.mowner = some e.g.team))

/-- The words with the unit idle and with a run in progress, a descriptor at the end of the scratchpad, and an emission that is
made (slot 2, K8) and one that fails its check (slot 5, empty). -/
theorem witness_CruiserRuns :
    (Form.grouped (engineForm g0 [] [.s 0])).meets (demoAll 0 (scal [(0, 0xFFC0)]) descBytes id id) (fun e =>
      owner e && decide (e.k.run = none ∧ (e.sc (.s 0)).toNat % 16 = 0 ∧ (e.sc (.s 0)).toNat ≤ e.t.scratch ∧
        parseDesc e.k.sp (e.t.spb + (e.sc (.s 0)).toNat) (e.t.scratch - (e.sc (.s 0)).toNat) = some demoDesc)) = true ∧
    (Form.grouped (engineForm g0 [] [.s 0])).meets (demoK (running 2)) (fun e => owner e && decide (e.k.run ≠ none)) = true ∧
    (Form.grouped { engineForm g0 [] [] with srcs := [(.s 23, 1)] }).meets (demoK (fun k => { k with cruiser := some demoDesc }))
      (fun e => owner e && decide (e.k.run = none ∧ e.k.cruiser = some demoDesc ∧ pastScalars (.s 23) 1 = false)) = true ∧
    (Form.grouped (engineForm g0 [(.s 0, 1)] [])).meets (demoC id) (fun e => owner e && decide (e.k.run = none)) = true ∧
    (Form.grouped (engineForm g0 [(.s 0, 1)] [])).meets (demoK (running 2)) (fun e => owner e && decide (e.k.run ≠ none)) = true ∧
    (let emits := fun (m : BitVec 8) (ok : Bool) =>
       let s := demoK (running m)
       let r := (demoRun m).2
       (match (s.core 0).run, (s.core 0).cruiser with
        | some r', some x => decide (r' = r) && decide (x = (demoRun m).1) && decide (x.nextOf r = some ([0], 0)) &&
          (x.emitters[0]?).any (fun em => (s.core 0).mayEmit r.id em &&
            isOk ((s.issuer 0 r).emit r em (affineOf em.basex em.strx [0]) (affineOf em.basey em.stry [0]) s) == ok)
        | _, _ => false)
     emits 2 true && emits 5 false) = true := by decide +kernel

def fullMatrix (k : Core) : Core :=
  { k with mowner := some 0, mq := List.replicate 32 {
      slot := 0, uid := 7, team := 0, kind := .swpl, fpctl := 0, acq := false, acqId := 0, cruiser := none, entry := 0,
      alone := false, direct := false } }
def ownedBy (j : Nat) (k : Core) : Core := { k with mowner := some j }
def batches (closed done : Word) (k : Core) : Core := { k with mowner := some 0, mclosed := closed, mdone := done }

/-- A word's conditions with a place in the queue, with none, and with no rows. -/
def matrixWord (f : Form) (some' none' : List (Nat × Word)) (ok : Env → Bool) : Bool :=
  f.meets (demoAll 0 (scal some') id id id) (fun e => owner e && ok e && decide (e.k.mq.length < 32)) &&
  f.meets (demoAll 0 (scal some') fullMatrix id id) (fun e => owner e && ok e && decide (32 ≤ e.k.mq.length)) &&
  f.meets (demoAll 0 (scal none') id id id) (fun e => owner e && ok e)

def ef (src : List Reg) : Form := Form.grouped (engineForm g0 [] src)
def spanOk (e : Env) (spc : Space) (off n : Nat) : Bool := decide (off % 4 = 0 ∧ off + n ≤ Team.size e.t spc)
def val (e : Env) (i : Fin 24) : Nat := (e.sc (.s i)).toNat

/-- The matrix words, each at the end of its ranges. -/
theorem witness_MatrixIssue_words :
    -- `ldstw` of the last rows of a plane in bf16, and of a C3 pair with a table
    matrixWord (ef [.s 0, .s 1, .s 2]) [(0, 0), (1, 62), (2, 2)] [(1, 64)] (fun e => decide ((e.gr.slot 1).kind ≠ 0 ∧
      (e.gr.slot 1).isWeight = true ∧ (e.gr.slot 1).isC3 = false ∧ val e 1 + val e 2 ≤ 64) &&
      spanOk e .vt (val e 0) (val e 2 * (e.gr.slot 1).rowBytes)) = true ∧
    (ef [.s 0, .s 1, .s 2]).meets (demoAll 0 (scal [(1, 2), (2, 2)]) (fun k =>
      { k with tables := [{ id := 4, claimed := false, data := none, since := none }] }) id id) (fun e => owner e && decide (
        (e.gr.slot 3).isC3 = true ∧ (e.gr.slot 3).isWeight = true ∧ val e 1 % 2 = 0 ∧ val e 2 % 2 = 0 ∧
        val e 2 / 2 ≤ ((e.k.tables.filter (fun t => !t.claimed)).map (fun t => t.id)).length)) = true ∧
    matrixWord (ef [.s 0, .c 0]) [(0, 0xFFFF0)] [] (fun e => decide (val e 0 % 16 = 0 ∧ val e 0 + 16 ≤ Team.size e.t .vt ∧
      e.k.tables.length < 4) && okIs (e.copyNamed (.c 0)) none) = true ∧
    matrixWord (ef []) [] [] (fun _ => true) = true ∧
    matrixWord (ef [.s 0, .s 1, .s 2]) [(1, 256), (2, 768)] [(2, 1024)] (fun e => decide ((e.gr.slot 6).kind ≠ 0 ∧
      (e.gr.slot 6).isRow = true ∧ val e 1 ≤ 256 ∧ val e 2 + val e 1 ≤ 1024) &&
      spanOk e .sp (val e 0) (val e 1 * (e.gr.slot 6).rowBytes)) = true ∧
    matrixWord (ef [.s 0, .s 1]) [(0, 1023), (1, 1)] [(0, 1023)] (fun e => decide (val e 0 < 1024 ∧ val e 0 + val e 1 ≤ 1024)) = true ∧
    matrixWord (ef [.s 0, .s 1, .s 2]) [(0, 1), (1, 1), (2, 4)] [] (fun e => decide ((e.gr.slot 0).kind ≠ 0 ∧
      (e.gr.slot 0).isIeee = true ∧ val e 0 < 1024 ∧ val e 0 + val e 1 ≤ 1024) &&
      spanOk e .vt (val e 2) (val e 1 * (e.gr.slot 0).rowBytes)) = true ∧
    matrixWord (ef [.s 0, .s 1, .s 2]) [(0, 1), (1, 1), (2, 4)] [] (fun e => decide ((e.gr.slot 4).kind ≠ 0 ∧
      (e.gr.slot 4).drainable = true ∧ val e 0 < 1024 ∧ val e 0 + val e 1 ≤ 1024) &&
      spanOk e .vt (val e 2) (val e 1 * (e.gr.slot 4).rowBytes) && isOk (e.demote true)) = true := by decide +kernel

/-- A batch completed, closed and open, and not closed; `mma` of every lane into the last rows; another team's unit. -/
theorem witness_MatrixIssue_batches :
    (Form.grouped (engineForm g0 [(.s 3, 1)] [])).meets (demoC id) (fun e => owner e && decide (e.k.mq.length < 32)) = true ∧
    (ef [.s 0]).meets (demoAll 0 (scal [(0, 5)]) (batches 6 5) id id) (fun e => owner e && decide (
      (e.batchNamed (.s 0) - e.k.mclosed).toInt ≤ 0 ∧ 0 ≤ (e.k.mdone - e.batchNamed (.s 0)).toInt)) = true ∧
    (ef [.s 0]).meets (demoAll 0 (scal [(0, 6)]) (batches 6 5) id id) (fun e => owner e && decide (
      (e.batchNamed (.s 0) - e.k.mclosed).toInt ≤ 0 ∧ (e.k.mdone - e.batchNamed (.s 0)).toInt < 0)) = true ∧
    (ef [.s 0]).meets (demoAll 0 (scal [(0, 7)]) (batches 6 5) id id) (fun e => owner e && decide (
      0 < (e.batchNamed (.s 0) - e.k.mclosed).toInt)) = true ∧
    (let nr := (demoGrid.slot 1).rowBytes / 4
     let mma := fun (fk : Core → Core) (ok : Env → Bool) =>
       ({ engineForm g0 [] [] with srcs := [(.v 0, nr), (.s 0, 1)], pre := mmaInBlocks (.v 0) nr } : Form).meets
         (demoAll 0 (scal [(0, 992)]) fk id id) ok
     let ok := fun (e : Env) => owner e && decide ((e.gr.slot 1).kind ≠ 0 ∧ (e.gr.slot 1).isRow = true ∧
       ∀ q ∈ quarters e.act, val e 0 + 8 * q + 7 ≤ 1023)
     mma id (fun e => ok e && decide (e.k.mq.length < 32)) && mma fullMatrix (fun e => ok e && decide (32 ≤ e.k.mq.length)) &&
       mma (ownedBy 3) (fun e => decide (e.act ≠ 0 ∧ e.k.mowner = some 3 ∧ 3 ≠ e.g.team))) = true ∧
    -- four tables held, the first claimed by a load and not
    [true, false].all (fun b => (ef [.s 0, .c 0]).meets (demoK (fun k => { k with tables := (List.range 4).map (fun i =>
      { id := i, claimed := b && i == 0, data := none, since := none }) })) (fun e => owner e && decide (val e 0 % 16 = 0 ∧
        val e 0 + 16 ≤ Team.size e.t .vt ∧ 4 ≤ e.k.tables.length) && isOk (e.copyNamed (.c 0)) &&
        (e.k.tables.any (fun t => t.claimed) == b))) = true ∧
    -- another team's unit, with no descriptor taken and with one
    (ef [.s 0, .s 1, .s 2]).meets (demoK (ownedBy 3)) (fun e => decide (e.act ≠ 0 ∧ e.k.mowner = some 3 ∧ 3 ≠ e.g.team)) = true ∧
    [none, some demoDesc].all (fun o => (Form.grouped { engineForm g0 [] [] with srcs := [(.s 0, 1)] }).meets
      (demoK (fun k => { ownedBy 3 k with cruiser := o })) (fun e => decide (e.act ≠ 0 ∧ e.k.mowner = some 3 ∧ 3 ≠ e.g.team ∧
        e.k.cruiser = o))) = true ∧
    (ef [.s 0, .s 1]).meets (demoK (ownedBy 3)) (fun e => decide (e.act ≠ 0 ∧ e.k.mowner = some 3 ∧ 3 ≠ e.g.team)) = true ∧
    (Form.grouped (engineForm g0 [(.s 3, 1)] [])).meets (demoK (ownedBy 3)) (fun e => decide (e.act ≠ 0 ∧ e.k.mowner = some 3 ∧
      3 ≠ e.g.team)) = true := by decide +kernel

def oneCommand (m : MKind) (k : Core) : Core :=
  { k with mq := [{
      slot := 0, uid := 7, team := 0, kind := m, fpctl := 0, acq := false, acqId := 0, cruiser := none, entry := 3
      alone := true, direct := true }] }
def covered (c : CovKind) (k : Core) : Core :=
  { k with cq := [{ slot := 0, uid := 7, team := 0, atH := false, tc := 0, kind := c, inflight := 9, acq := false, acqId := 0 }] }

/-- The two tables of the program of chapter 10: readable in clocks 1 and 43. -/
def loadedTables : List WTable :=
  [{ id := 4, claimed := true, data := none, since := some 1 }, { id := 5, claimed := true, data := none, since := some 43 }]
def slotOf (kind : Nat) : FmtSlot := { kind := BitVec.ofNat 8 kind, bsc := 0, d := 0, ro := 0, off := 0 }

/-- Chapter 10: the load that reaches the weight path in clock 3 counts 31 stall clocks; with the second table read in clock 2,
none. -/
theorem test_stalls_chapter10 :
    ({ Core.reset with tables := loadedTables }).stalls 3 0 100 .vt [4, 5] = 31 ∧
      stallClocks 15 0 100 [some (1 + 4), some (2 + 4)] = 0 := by decide

/-- A team of a grid with `n` teams left whose groups have ended, beside the owner `o` of its core's matrix unit. -/
def endingTeam (n : Nat) (o : Option Nat) : State :=
  { demoK (fun k => { (k.setTeam 0 (some { demoTeam with ending := true })).setGroup 0 none with mowner := o }) with
    grids := [{ demoGrid with teamsLeft := n }] }

/-- One that has a vault of one page, which the host's page table maps with a frame in core 0's vault. -/
def endingVault : State :=
  let a := aperture 0 0
  let s := (endingTeam 2 none).modCore 0 (fun k => k.setTeam 0 (some { demoTeam with ending := true, vault := 0x10000 }))
  { s with
    parts := s.parts.map (fun p => { p with apLeaves := [] })
    host := [(0x1000 + 8 * (a / 2 ^ 39), 0x2001), (0x2000 + 8 * (a / 2 ^ 30 % 512), 0x3001), (0x3000 + 8 * (a / 2 ^ 21 % 512), 0x4001),
      (0x4000 + 8 * (a / 2 ^ 16 % 32), 0x2000F)].foldl (fun m x => Memory.store m x.1 (leBytes 8 x.2)) [] }

theorem witness_UnitSteps :
    (let k := (demoK (oneCommand (.acz 0 1024))).core 0
     (k.mq.head?).any (fun x => k.matrixDue x 1027 && !k.matrixDue x 1026)) = true ∧
    (((demoK (oneCommand (.mark 3))).core 0).mq.head?).any (fun x => decide (x.kind = .mark 3)) = true ∧
    -- a team that is over, the last of its grid and not the last, that owns the unit and that does not; a team that goes on
    [none, some 0].all (fun o => [1, 2].all (fun n => decide ((endingTeam n o).team 0 0 = some { demoTeam with ending := true } ∧
      (((endingTeam n o).core 0).teamSlots 0) = [] ∧ ((endingTeam n o).core 0).teamBusy 0 = false ∧ ((endingTeam n o).core 0).mowner = o) &&
      (endingTeam n o).endsGrid ((endingTeam n o).grid 0) == (n == 1))) = true ∧
    ((demoC id).team 0 0).any (fun t => !t.ending) = true ∧ ((demoC id).core 0).mowner = none ∧ (demoC id).canonical = true ∧
    (let s := endingVault
     (s.team 0 0).any (fun t => decide (t.vault = 0x10000)) && s.canonical && (walk s.host (s.part (s.partOf 0)) (aperture 0 0)).any (fun l =>
       Pte.res l.pte && decide (Pte.core l.pte = 0 ∧ Pte.frame l.big l.pte = 0x20000) && (match l.ref with
         | .host _ => true
         | _ => false))) = true ∧
    -- a row that the vault cannot give, its clock come; a command whose clock has not
    (let s := { demoK (oneCommand (.acld (slotOf 0) .vt 0 1 0xFFFFF0)) with clock := 4 }
     ((s.core 0).mq.head?).any (fun x => decide (0 < x.vaultRows ∧ (s.core 0).endsAt (x.cut 1) ≤ s.clock) && (s.core 0).matrixReady x &&
       !(s.runMatrix 0 (x.cut 1)).2 && !(s.core 0).matrixDue x 3)) = true ∧
    [MKind.swpl, .acld (slotOf 0) .vt 0 1 0, .drain (slotOf 0) .vt 0 1 0 false, .mmas (slotOf 0) 0 1 0 false,
        .mma (slotOf 0) 1 0 [] false].all (fun m =>
      let k := (demoK (oneCommand m)).core 0
      (k.mq.head?).any (fun x => decide (x.kind = m) && x.alone && k.aloneSince x.uid x.entry)) = true ∧
    (((demoK (oneCommand .swpl)).core 0).mq.head?).any (fun x => decide (x.kind = .swpl)) = true ∧
    0 < (demoC id).cores.length ∧
    (let s := demoK (fun k => { oneCommand (.ldstw (slotOf 0) .vt 0 0 4 [4, 5]) k with tables := loadedTables })
     ((s.core 0).mq.head?).any (fun x => x.alone && x.direct && (s.core 0).aloneSince x.uid x.entry) &&
       decide ((s.core 0).tables.map (fun t => (t.id, t.since)) = [(4, some 1), (5, some 43)])) = true ∧
    (let s := demoK (fun k => { oneCommand (.ldstw (slotOf 12) .vt 0 0 2 [4]) k with
       tables := [{ id := 4, claimed := true, data := none, since := some 20 }] })
     ((s.core 0).pathLoad).any (fun p => p.2.2 == [4]) && (s.core 0).tables.map (fun t => (t.id, t.since)) == [(4, some 20)]) = true ∧
    -- commands that close a context and one that does not
    [CovKind.save 0 none, .close (some 4), .scan true].all (fun x =>
      decide (0 < (demoK (covered x)).cores.length) && ((demoK (covered x)).core 0).cq.head?.any (fun y => y.kind == x)) = true ∧
    (((demoK (covered (.query .recd 4))).core 0).cq.head?).any (fun x => ((demoK (covered (.query .recd 4))).core 0).covReady x) =
      true ∧
    (let s := demoK (fun k => running 2 (covered (.query .recd 4) k))
     ((s.core 0).cq.head?).any (fun x => !(s.core 0).covReady x)) = true := by decide +kernel

theorem witness_PassUpdatesRow : (List.replicate 64 (0 : Word)).length = 64 := by decide

/-- Context 0 of the team open on an empty tile 5 at scratchpad offset 0, with a header's low halves. -/
def tile (h0 h1 : Byte) (k : Core) : Core :=
  { k with
    sp := Memory.store [] 0 [5, 0, 0, 0, 0, 0, 0, 0, h0, h1]
    ctxs := [some { team := 0, block := 0 }, none, none, none] }

/-- A coverage word that is ready, with a condition on the state that the queued commands leave. -/
def covers (f : Form) (fg : Group → Group) (fk : Core → Core) (c : Env → Core → Bool) : Bool :=
  (Form.grouped f).meets (demoAll 0 fg fk id id) (fun e => decide (e.act ≠ 0) && c e (e.ahead (demoAll 0 fg fk id id)))

/-- The coverage words: an open tile on a path and off it, a record of a line on it, clip depths 0 and 8, blocks at the end of
the scratchpad and of the vault. -/
theorem witness_CoverageIssue :
    covers (engineForm g0 [] [.s 0, .s 1]) (scal [(0, 0xD800)]) id (fun e k =>
      isOk (e.closedTile k 0) && okIs (e.placeTile k (val e 0)) 0xD800) = true ∧
    covers (engineForm g0 [] [.s 0]) (scal [(0, 1)]) (tile 1 0) (fun e k => okIs (e.openTile k 0) 0 &&
      decide (hdrPath (tileHdr k.sp 0) = true → (tileSeq k.sp 0).toNat < val e 0)) = true ∧
    (Form.grouped { engineForm g0 [(.v 59, 5)] [] with srcs := [(.s 0, 8)], pre := monoRoom (.v 59) }).meets (demoK (piped 3))
      (fun e => decide (e.act ≠ 0 ∧ recMalformed false (e.record (.s 0)) = false ∧ (e.k.pipe (e.slot / 4)).length < 4)) = true ∧
    covers { engineForm g0 [(.s 3, 1)] [.s 4] with srcs := [(.s 8, 8), (.s 4, 1)] } (scal [(9, 5), (12, 0x00400040)]) (tile 1 0)
      (fun e k => okIs (e.onPath k 0) 0 && decide (recMalformed true (e.record (.s 8)) = false ∧
        (e.record (.s 8)).getD 1 0 = tileId k.sp 0 ∧ (e.record (.s 8)).getD 0 0 = tileSeq k.sp 0 ∧
        (val e 4 ≠ 0 → val e 4 < (tileSubs k.sp 0 (recPoints (e.record (.s 8)))).length) ∧ e.g.live &&& ~~~e.helperAhead k ≠ 0)) = true ∧
    covers (engineForm g0 [] []) id (tile 1 0) (fun e k => isOk (e.onPath k 0)) = true ∧
    covers (engineForm g0 [] []) id (tile 0 7) (fun e k => okIs (e.openTile k 0) 0 && decide (hdrCdep (tileHdr k.sp 0) ≠ 8)) = true ∧
    covers (engineForm g0 [] []) id (tile 0 1) (fun e k => okIs (e.openTile k 0) 0 && decide (hdrCdep (tileHdr k.sp 0) ≠ 0)) = true ∧
    covers (engineForm g0 [(.v 3, 1), (.s 3, 1)] [.s 0]) (scal [(0, 63)]) (tile 0 0) (fun e k =>
      isOk (e.openTile k 0) && decide (val e 0 < 64)) = true ∧
    ({ engineForm g0 [] [] with srcs := [(.v 2, 2), (.v 5, 1)] } : Form).meets (demoK (tile 0 8)) (fun e =>
      decide (e.act ≠ 0) && isOk (e.openTile (e.ahead (demoK (tile 0 8))) 0)) = true ∧
    covers (engineForm g0 [(.s 3, 1)] [.s 0]) (scal [(0, 0xFD800)]) (tile 0 0) (fun e k => isOk (e.openTile k 0) &&
      decide (val e 0 % 256 = 0 ∧ val e 0 + 0x2800 ≤ e.t.vault) && isOk (e.demote true)) = true ∧
    covers (engineForm g0 [(.s 3, 1)] [.s 0, .s 1]) (scal [(1, 0xD800)]) id (fun e k => isOk (e.closedTile k 0) &&
      okIs (e.placeTile k (val e 1)) 0xD800 && decide (val e 0 % 256 = 0 ∧ val e 0 + 0x2800 ≤ e.t.vault)) = true ∧
    covers (engineForm g0 [(.s 2, 2)] []) id id (fun _ _ => true) = true ∧
    covers (engineForm g0 [(.s 2, 1)] []) id (tile 0 0) (fun e k => isOk (e.openTile k 0)) = true := by decide +kernel

/-- A core with `n` transfers outstanding in transfer group 2. -/
def sent (n : Nat) (k : Core) : Core :=
  { k with xfers := List.replicate n {
      slot := 0, uid := 7, team := 0, group := 0, tg := 2, seq := 1, op := .bulk (.win 0) true .sp 0 4, acq := false, acqId := 0
      deadline := 5, moved := 0, miss := false, ordered := false, after := [], stream := none, sent := 0 } }
def demoT (l : List (Nat × Word)) (n : Nat) : State := demoAll 1 (scal l) (sent n) (fun p => p) (fun q => q)
/-- An exchange word that is ready with 63 transfers outstanding and its operands allowed, with 64, and with no passing lane. -/
def xferWord (f : Guard → Form) (l : List (Nat × Word)) (ok : Env → State → Bool) : Bool :=
  (f g0).meets (demoT l 63) (fun e => decide (e.act ≠ 0 ∧ (e.k.xfersOf e.g.uid).length < 64) && ok e (demoT l 63)) &&
  (f g0).meets (demoT l 64) (fun e => decide (e.act ≠ 0 ∧ 64 ≤ (e.k.xfersOf e.g.uid).length)) &&
  (f gp).meets (demoT l 0) (fun e => decide (e.act = 0))
def xf (dst src : List (Reg × Nat)) (g : Guard) : Form := Form.grouped (xferForm g dst src)
def near (e : Env) (spc : Space) (off n : Nat) : Bool := decide (off % 4 = 0 ∧ off + n ≤ Team.size e.t spc)
/-- `s2` and `s3` hold a 64-bit address, `s4` the local offset, `s5` the length. -/
def abc : List (Reg × Nat) := [(.s 2, 2), (.s 4, 1), (.s 5, 1)]
def coreWin : Word := BitVec.ofNat 32 (Config.coreWindow / 2 ^ 32)

/-- The exchange words at the ends of their ranges. -/
theorem witness_TransferIssue :
    xferWord (xf [] abc) [(2, 0x7FF80), (3, coreWin), (4, 0xFFF80), (5, 128)] (fun e _ =>
      okIs (e.pullLength .win (.s 2) (.s 5)) 128 && isOk (e.remote .win (.s 2) 128 true) && near e .vt (val e 4) 128 &&
        isOk (e.demote true)) = true ∧
    xferWord (xf [] [(.s 2, 1), (.s 4, 1), (.s 5, 1)]) [(2, 0), (5, 192)] (fun e _ =>
      okIs (e.pullLength .reg (.s 2) (.s 5)) 24576 && isOk (e.remote .reg (.s 2) 24576 true) && near e .vt (val e 4) 24576 &&
        isOk (e.demote false)) = true ∧
    xferWord (xf [] abc) [] (fun e _ => decide (val e 5 % 4 = 0 ∧ val e 5 ≤ 0x1000000) && near e .vt (val e 4) (val e 5) &&
      isOk (e.demote true)) = true ∧
    xferWord (xf [] ((.s 1, 1) :: abc)) [(1, 255), (2, 0x7FF80), (3, coreWin), (5, 128)] (fun e s =>
      decide (val e 1 ≤ 255 ∧ val e 1 ≠ s.pkgnum.toNat ∧ val e 5 % 4 = 0 ∧ val e 5 ≤ 0x1000000) &&
      isOk (e.remote .win (.s 2) (val e 5) false) && near e .vt (val e 4) (val e 5) && isOk (e.demote false)) = true ∧
    (xf [] [(.s 2, 1), (.s 4, 1), (.s 5, 1)] g0).meets (demoAll 1 (scal [(2, 1023), (4, 1), (5, 0x03FF0007)]) (ownedBy 0) id id)
      (fun e => decide (e.act ≠ 0 ∧ (e.k.xfersOf e.g.uid).length < 64 ∧ val e 4 ≠ 0 ∧ val e 2 + val e 4 ≤ 1024 ∧
        ((e.sc (.s 5)).extractLsb' 16 10).toNat + val e 4 ≤ 1024 ∧ e.sc (.s 5) &&& 0xFC00FF00 = 0 ∧
        e.pt.hasCore ((e.sc (.s 5)).extractLsb' 0 8).toNat = true ∧ e.k.mowner = some e.g.team ∧
        ((demoX id).cluster 0).staged.length + ((demoX id).cluster 0).reserved + val e 4 ≤ 8192)) = true ∧
    xferWord (fun g => { xferForm g [] [(.s 2, 2), (.s 4, 1), (.s 5, 1)] with group := false }) [(2, 0x7FFFC), (3, coreWin)]
      (fun e _ => decide (∀ l ∈ e.realLanes, e.atomTarget (.s 2) false false l ≠ none)) = true ∧
    xferWord (xf [] [(.s 2, 1), (.s 4, 1), (.s 5, 1)]) [(4, 8), (5, 0xFC00)] (fun e _ => decide (val e 4 % 8 = 0) &&
      near e .sp (val e 5) (128 * 8)) = true := by decide +kernel

def resident (e : Env) : Bool := decide (e.act ≠ 0 ∧ (e.k.xfersOf e.g.uid).length < 64)
/-- A state whose second tier is enabled. -/
def tiered (s : State) : State := { s with tierSize := 0x100000 }

/-- Records to the end of the scratchpad; an unmapped address, and one on the aperture. -/
theorem witness_PagingIssue :
    (xf [(.s 1, 1)] [(.s 2, 1), (.s 4, 1)] g0).meets (demoX (scal [(2, 0xFFF0), (4, 2)])) (fun e => resident e &&
      decide (val e 2 % 8 = 0 ∧ val e 2 + 8 * val e 4 ≤ e.t.scratch)) = true ∧
    (xf [(.s 1, 1)] [(.s 2, 2), (.s 4, 1)] g0).meets (demoX (scal [(4, 0x1EFF0000)])) (fun e => resident e &&
      decide (walk (demoX id).host e.pt ((e.rd64 (.s 2) 0).toNat % 2 ^ 48) = none ∧ val e 4 % 0x10000 = 0 ∧
        val e 4 < 0x1F000000)) = true ∧
    (xf [(.s 1, 1)] [(.s 2, 2), (.s 4, 1)] g0).meets (tiered (demoX (scal [(2, (hitAt.getD 0 (0, 0)).2), (3, (hitAt.getD 1 (0, 0)).2),
        (4, 0x1EFF0000)]))) (fun e => resident e && (walk (demoX id).host e.pt ((e.rd64 (.s 2) 0).toNat % 2 ^ 48)).any (fun l =>
          val e 4 % pageSize l.big == 0) && decide (val e 4 < 0x1F000000 ∧ (tiered (demoX id)).tierSize ≠ 0)) = true ∧
    (xf [(.s 1, 1)] [(.s 2, 2), (.s 4, 2)] g0).meets (demoX id) (fun e => resident e &&
      decide (walk (demoX id).host e.pt ((e.rd64 (.s 2) 0).toNat % 2 ^ 48) = none)) = true ∧
    (xf [(.s 1, 1)] [(.s 2, 2), (.s 4, 2)] g0).meets (tiered (demoX (scal [(2, (hitAt.getD 0 (0, 0)).2),
        (3, (hitAt.getD 1 (0, 0)).2)]))) (fun e => resident e &&
          (walk (demoX id).host e.pt ((e.rd64 (.s 2) 0).toNat % 2 ^ 48)).isSome) = true := by decide +kernel

/-- An outstanding transfer, on time and late; a wait with none of the group's outstanding, and with one. -/
theorem witness_TransferSteps :
    (((demoT [] 1).core 0).xfers[0]?).any (fun x => !decide (x.deadline < (demoT [] 1).clock)) = true ∧
    ((({ demoT [] 1 with clock := 6 } : State).core 0).xfers[0]?).any (fun x => decide (x.deadline < 6)) = true ∧
    -- a register target of this core, whose registers as they were at the phase's opening are kept or not
    [none, some []].all (fun o => (demoAll 1 (fun g => { g with xgrp := false }) (fun k => { k with shownRegs := o }) id id).regTarget
      0 0 0 192 == some (0, 0)) = true ∧
    (xf [(.s 1, 1)] [] g0).meets (demoT [] 1) (fun e => decide (e.act ≠ 0 ∧ ∀ x ∈ e.k.xfersOf e.g.uid, x.tg ∉ [3])) = true ∧
    (xf [(.s 1, 1)] [] g0).meets (demoT [] 1) (fun e => decide (e.act ≠ 0 ∧ ∃ x ∈ e.k.xfersOf e.g.uid, x.tg ∈ [2])) = true ∧
    (xf [(.s 1, 1)] [] g0).meets (demoT [] 0) (fun e => decide (e.act ≠ 0 ∧ ∀ x ∈ e.k.xfersOf e.g.uid, x.tg ∉ List.range 8)) = true := by
  decide +kernel

def indirect (g : Guard) (a : Reg) : Form := { Form.plain g with held := heldReg .none (some a) none none, srcs := [(a, 1)] }

/-- All lanes, none, a shared target, and a target off by one in lane 3. -/
theorem witness_UniformBranches :
    (Form.plain g0).meets (demoC id) (fun e => decide (e.act = e.sp.mask ∧ e.act ≠ 0)) = true ∧
    (Form.plain gp).meets (demoC id) (fun e => decide (e.act = 0)) = true ∧
    ({ Form.plain g0 with dsts := [(.v 4, 1)] } : Form).meets (demoC id) (fun e => decide (e.act = e.sp.mask ∧ e.act ≠ 0)) = true ∧
    (indirect g0 (.v 1)).meets (demoC id) (fun e => decide (e.act = e.sp.mask ∧ e.act ≠ 0 ∧
      (e.rd (.v 1) (LaneMask.lowest e.act)).toNat % 8 = 0 ∧
      ∀ l ∈ e.lanes, e.rd (.v 1) l = e.rd (.v 1) (LaneMask.lowest e.act))) = true ∧
    (indirect gp (.v 1)).meets (demoC id) (fun e => decide (e.act = 0)) = true ∧
    (indirect g0 (.v 1)).meets (demoK (fun k => { k with regs := [(32 + 3, 1)] })) (fun e =>
      decide (e.lanes.find? (fun l => (e.rd (.v 1) l).toNat % 8 != 0) = some 3)) = true := by decide +kernel

def deep (n : Nat) (g : Group) : Group :=
  { inP 0xFF g with splits := [someLanes allLanes 0 (List.replicate n { j := 800, mj := allLanes, dpc := 0, dmask := 0, amask := 0 }), none, none,
                               none] }
def fourSplits (g : Group) : Group :=
  { inP 0xFF g with splits := [someLanes 0xFFFF 0 [], someLanes 0xFF0000 64 [], someLanes 0x1000000 72 [], someLanes 0x2000000 80 []] }

/-- A divergence with seven records and with eight, with a free entry and with none. -/
theorem witness_DivergentBranch :
    (Form.plain gp).meets (demoC (deep 7)) (fun e => decide (e.act ≠ 0 ∧ e.act ≠ e.sp.mask ∧ e.sp.stack.length < 8 ∧
      (lowestFree e.g.splits).isSome)) = true ∧
    (Form.plain gp).meets (demoC (deep 8)) (fun e => decide (e.act ≠ 0 ∧ e.act ≠ e.sp.mask ∧ 8 ≤ e.sp.stack.length)) = true ∧
    (Form.plain gp).meets (demoC fourSplits) (fun e => decide (e.act ≠ 0 ∧ e.act ≠ e.sp.mask ∧ e.sp.stack.length < 8 ∧
      lowestFree e.g.splits = none)) = true := by decide +kernel

def flagged (gen : Nat) (g : Group) : Group := { g with barFlag := true, barGen := gen }
def atBar (g : Group) : Group := { g with wait := .barw }
def genOne (k : Core) : Core := k.setTeam 0 (some { demoTeam with gen := 1 })
def plainGroup : Form := Form.grouped (Form.plain g0)

/-- Every case of the flag, its generation and the wait; a team whose groups have all set it, and one that has not. -/
theorem witness_Barriers :
    plainGroup.meets (demoC id) (fun e => decide (e.act ≠ 0 ∧ e.g.barFlag = false ∧ e.g.wait ≠ .barw)) = true ∧
    plainGroup.meets (demoC (flagged 0)) (fun e => decide (e.act ≠ 0 ∧ e.g.barFlag = true ∧ e.t.gen ≤ e.g.barGen ∧
      e.g.wait ≠ .barw)) = true ∧
    plainGroup.meets (demoAll 0 (flagged 0) genOne id id) (fun e => decide (e.act ≠ 0 ∧ e.g.barFlag = true ∧ e.g.barGen < e.t.gen)) =
      true ∧
    plainGroup.meets (demoAll 0 (fun g => atBar (flagged 0 g)) genOne id id) (fun e =>
      decide (e.act ≠ 0 ∧ e.g.wait = .barw ∧ e.g.barGen < e.t.gen)) = true ∧
    ((demoC (flagged 0)).core 0).barrierFull 0 = true ∧ ((demoC id).core 0).barrierFull 0 = false := by decide +kernel

/-- A group with nothing pending and with a load pending; no passing lane; some of the lanes; copies outstanding; a group that
has exited. -/
theorem witness_GroupProgress :
    plainGroup.meets (demoC id) (fun e => decide (e.act ≠ 0 ∧ e.g.anyPending = false)) = true ∧
    plainGroup.meets (demoC pending) (fun e => decide (e.act ≠ 0 ∧ e.g.anyPending = true)) = true ∧
    (Form.grouped { Form.plain g0 with srcs := [(.c 0, 1)] }).meets (demoC id) (fun e => decide (e.act ≠ 0 ∧
      e.k.tagWait e.slot e.g (e.tagOf (.c 0)) = some true)) = true ∧
    (Form.grouped { Form.plain g0 with srcs := [(.c 0, 1)] }).meets (demoK (copying 7 1)) (fun e => decide (e.act ≠ 0 ∧
      e.k.tagWait e.slot e.g (e.tagOf (.c 0)) = some false)) = true ∧
    ({ Form.plain gp with log := true } : Form).meets (demoC id) (fun e => decide (e.act = 0)) = true ∧
    ({ Form.plain gp with log := true } : Form).meets (demoC (fun g => pending (inP 1 g))) (fun e => decide (e.act ≠ 0 ∧
      e.g.live &&& ~~~e.act ≠ 0)) = true ∧
    ({ Form.plain g0 with log := true } : Form).meets (demoC id) (fun e => decide (e.act ≠ 0 ∧ e.g.anyPending = false)) = true ∧
    ({ Form.plain g0 with log := true } : Form).meets (demoC pending) (fun e => decide (e.act ≠ 0 ∧ e.g.live &&& ~~~e.act = 0 ∧
      e.g.anyPending = true)) = true ∧
    ((demoC (fun g => { g with live := 0 })).group 0 0).any (fun g => decide (g.live = 0 ∧ g.anyPending = false)) = true ∧
    ((demoC id).group 0 0).any (fun g => decide (g.live ≠ 0)) = true := by decide +kernel

/-- A split without the lanes that a word takes out, latch records apart; the word's own, at its next word. -/
def leftOf (e : Env) (sp : Split) : Split := { sp.drop e.act with latch := [], since := 0 }
def mineOf (e : Env) : Split := leftOf e { e.sp with pc := e.sp.pc + 8 }
def apartOf (pc : Word) (l : List JoinRec) : Bool := l.head?.all (fun r => pc != r.j)
/-- The other splits keep a lane and stand at no join, and hold no deferred path when the word's own has no lane left. -/
def othersApart (e : Env) : Bool :=
  (List.range 4).all (fun k => k == e.split || (e.g.split k).all (fun sq => (leftOf e sq).mask != 0 && apartOf sq.pc sq.stack &&
    ((mineOf e).mask != 0 || (leftOf e sq).stack.all (fun r => r.dmask == 0))))
/-- An `exit` of the lanes `m` of a group with the splits `l`. -/
def exits (m : LaneMask) (l : List (Option Split)) (c : Env → Bool) : Bool :=
  ({ Form.plain gp with log := true } : Form).meets (demoC (fun g => { inP m g with splits := l })) (fun e =>
    decide (e.act ≠ 0) && (decide (e.g.live &&& ~~~e.act ≠ 0) || !e.g.anyPending) && c e)
def joinAt (j : Word) (mj dm am : LaneMask) : JoinRec := { j := j, mj := mj, dpc := 64, dmask := dm, amask := am }

/-- The exit of some lanes; of a split with a deferred path; of one with nothing left; of one with lanes waiting at an outer join, which
then wait for others and do not; and of lanes for which another split was waiting at a join. -/
theorem witness_GroupProgress_exits :
    exits 1 [someLanes allLanes 0 [], none, none, none] (fun e => othersApart e && decide ((mineOf e).mask ≠ 0) &&
      apartOf (mineOf e).pc (mineOf e).stack) = true ∧
    exits 0xFFFF [someLanes 0xFFFF 0 [joinAt 800 allLanes 0xFFFF0000 0], none, none, none] (fun e => othersApart e &&
      decide ((mineOf e).mask = 0) && (mineOf e).stack.head?.any (fun r => decide (r.dmask ≠ 0 ∧ r.dpc ≠ r.j))) = true ∧
    exits 0xFFFF [someLanes 0xFFFF 0 [joinAt 80 0xFFFF 0 0], someLanes 0xFFFF0000 64 [], none, none] (fun e => othersApart e &&
      decide ((mineOf e).mask = 0) && (mineOf e).stack.all (fun r => r.dmask == 0 && r.amask == 0)) = true ∧
    [(0xFF000000 : LaneMask), 0].all (fun m => exits 0xFFFF [someLanes 0xFFFF 0 [joinAt 80 0xFFFF 0 0,
        joinAt 800 allLanes 0 (0xFFFF0000 ^^^ m)], if m = 0 then none else someLanes m 64 [], none, none] (fun e => othersApart e &&
      decide ((mineOf e).mask = 0) && (match (mineOf e).stack with
        | [x, r] => decide (x.dmask = 0 ∧ x.amask = 0 ∧ r.dmask = 0 ∧ r.amask ≠ 0) && (decide (r.amask = r.mj) == decide (m = 0))
        | _ => false))) = true ∧
    exits 0xFFFF [someLanes 0xFFFF 0 [joinAt 80 0xFFFF 0 0], someLanes 0xFF0000 800 [joinAt 800 allLanes 0 0xFF000000], none, none]
      (fun e => decide (e.split = 0 ∧ (mineOf e).mask = 0) && (mineOf e).stack.all (fun r => r.dmask == 0 && r.amask == 0) &&
        (e.g.split 2).isNone && (e.g.split 3).isNone && (e.g.split 1).any (fun sq => decide ((leftOf e sq).mask ≠ 0) &&
          (match (leftOf e sq).stack with
           | [r] => decide (sq.pc = r.j ∧ r.dmask = 0 ∧ (leftOf e sq).mask ||| r.amask = r.mj)
           | _ => false))) = true := by decide +kernel

/-- The bytes of a record of one team of one group, whose object is the zeros before its CODE. -/
def recordBytes (code : Nat) : List Byte :=
  [0x59, 0x4B, 1, 3, 0, 0, 0, 0] ++ leBytes 8 code ++ List.replicate 8 0 ++ [1, 0, 1, 0, 1, 0, 0, 0] ++ List.replicate 224 0
def childAt : Nat := aperture 0 0 + 0x400
def withRecord (bs : List Byte) (k : Core) : Core := { k with vault := Memory.store [] 0x400 bs }
def kids (l : List (Option Child)) (k : Core) : Core := k.setTeam 0 (some { demoTeam with children := l })
def doneKid (b : Bool) : Child := { grid := 1, done := b, result := 5, ok := true }
def named : List (Nat × Word) := [(2, BitVec.ofNat 32 childAt), (3, BitVec.ofNat 32 (childAt / 2 ^ 32))]
def launchForm : Form := Form.grouped { Form.plain g0 with dsts := [(.s 1, 1)], srcs := [(.s 2, 2)] }
def mayLaunch (e : Env) : Bool :=
  decide (e.act ≠ 0 ∧ e.g.index = 0 ∧ e.gr.lrec.child = true ∧ e.gr.depth < e.gr.limit ∧ (lowestFree e.t.children).isSome)
def submitted (e : Env) (s : State) : Except Cause State :=
  s.submit e.gr.part (s.bytesAt e.gr.part ((e.rd64 (.s 2) 0).toNat % 2 ^ 48) 256) (e.rd64 (.s 2) 0) false 0 e.gr.queue
    (some (e.gr.id, e.t.num, 0)) (e.gr.depth + 1) e.gr.limit

/-- A record that launches, and one of zeros that fails; a group that does not lead, a grid without the right, and one at its
nesting limit; children done and not. -/
theorem witness_Children :
    (let s := demoAll 0 (scal named) (withRecord (recordBytes (aperture 0 0 + 0x200))) id id
     launchForm.meets s (fun e => mayLaunch e && isOk (submitted e s))) = true ∧
    launchForm.meets (demoC (scal named)) (fun e => mayLaunch e && !isOk (submitted e (demoC (scal named)))) = true ∧
    launchForm.meets (demoC (fun g => { g with index := 1 })) (fun e => decide (e.act ≠ 0 ∧ e.g.index ≠ 0)) = true ∧
    launchForm.meets { demoC id with grids := [placedGrid 0] } (fun e => decide (e.act ≠ 0 ∧ e.g.index = 0 ∧
      e.gr.lrec.child = false)) = true ∧
    launchForm.meets { demoC id with grids := [{ demoGrid with depth := 10 }] } (fun e => decide (e.act ≠ 0 ∧ e.g.index = 0 ∧
      e.gr.lrec.child = true ∧ e.gr.limit ≤ e.gr.depth)) = true ∧
    (Form.grouped { Form.plain g0 with dsts := [(.s 1, 1)], srcs := [(.c 0, 1)] }).meets
      (demoK (kids [some (doneKid true), none, none, none, none, none, none, some (doneKid true)])) (fun e =>
        decide (e.act ≠ 0 ∧ e.awaited (.c 0) = some [(0, doneKid true), (7, doneKid true)])) = true ∧
    (Form.grouped { Form.plain g0 with dsts := [(.s 1, 1)], srcs := [(.s 2, 1)] }).meets
      (demoAll 0 (scal [(2, 7)]) (kids [none, none, none, none, none, none, none, some (doneKid false)]) id id) (fun e =>
        decide (e.act ≠ 0 ∧ e.awaited (.s 2) = some [(7, doneKid false)])) = true := by decide +kernel

/-- A group of `n` blocks, beside others of its scheduler that hold `m` blocks from the top. -/
def blocks (n : Nat) (g : Group) : Group := { g with blocks := List.range n, winHi := BitVec.ofNat 32 (16 * n) }
def beside (m : Nat) (w : Wait) (k : Core) : Core :=
  k.setGroup 1 (some { Group.start demoGrid 8 0 1 true 1 ((List.range m).map (fun i => 31 - i)) 0 with wait := w })
def smallAff (s : State) : State := { s with grids := [{ demoGrid with lrec := { demoRecord with aff := 2 } }] }

/-- Whether the free blocks go to a party that waits for some. -/
def owedTo (e : Env) : Bool :=
  (e.k.waitingParty e.pt.isX (e.slot / 4)).any (fun y => decide (
    (if y.2.stragglerDue then 0 else y.2.asks.getD 0) + (if y.2.spill.isSome then y.2.blocks.length else 0) ≤
      (e.k.freeBlocks (e.slot / 4)).length))

/-- Growth to twelve blocks with just enough free and with one too few, and to thirteen; shrinking to one block beyond the
affine storage, and past it; a blocked group that can go on, resident and spilled; a deadlock. -/
theorem witness_BlockGrowth :
    plainGroup.meets (demoAll 0 (blocks 9) (beside 20 .ready) id id) (fun e => decide (e.act ≠ 0 ∧ e.g.anyPending = false ∧
      e.g.blocks.length + 3 ≤ 12 ∧ 3 ≤ (e.k.freeBlocks (e.slot / 4)).length) && !owedTo e) = true ∧
    -- just enough free, but owed to a group that waits for one block
    plainGroup.meets (demoAll 0 (blocks 9) (beside 20 (.regrow 1)) id id) (fun e => decide (e.act ≠ 0 ∧ e.g.anyPending = false ∧
      e.g.blocks.length + 3 ≤ 12) && owedTo e) = true ∧
    plainGroup.meets (demoAll 0 (blocks 9) (beside 21 .ready) id id) (fun e => decide (e.act ≠ 0 ∧ e.g.anyPending = false ∧
      e.g.blocks.length + 3 ≤ 12 ∧ (e.k.freeBlocks (e.slot / 4)).length < 3)) = true ∧
    plainGroup.meets (demoC (blocks 9)) (fun e => decide (e.act ≠ 0 ∧ e.g.anyPending = false ∧ 12 < e.g.blocks.length + 4)) = true ∧
    plainGroup.meets (smallAff (demoC (blocks 9))) (fun e => decide (e.act ≠ 0 ∧ e.g.anyPending = false ∧
      e.gr.lrec.aff + 1 + 6 ≤ e.g.blocks.length)) = true ∧
    plainGroup.meets (smallAff (demoC (blocks 9))) (fun e => decide (e.act ≠ 0 ∧ e.g.anyPending = false ∧
      e.g.blocks.length < e.gr.lrec.aff + 1 + 7)) = true ∧
    (let s := demoC (fun g => { blocks 9 g with wait := .regrow 3 })
     ((s.core 0).waitingParty (s.part (s.partOf 0)).isX 0).any (fun x => decide (x.1 = 0 ∧ x.2.wait = .regrow 3 ∧ x.2.spill = none ∧
       3 ≤ ((s.core 0).freeBlocks 0).length))) = true ∧
    (let s := demoC (fun g => { blocks 9 g with wait := .regrow 3, spill := some [] })
     ((s.core 0).waitingParty (s.part (s.partOf 0)).isX 0).any (fun x => decide (x.1 = 0 ∧ x.2.wait = .regrow 3 ∧ x.2.spill ≠ none ∧
       x.2.blocks.length + 3 ≤ ((s.core 0).freeBlocks 0).length))) = true ∧
    (let s := demoAll 0 (fun g => { blocks 9 g with wait := .regrow 3 }) (beside 21 .barw) id id
     (((s.core 0).schedGroups 0).find? (fun y => y.2.asks.isSome)).any (fun x => decide (x.1 = 0 ∧
       x.2.wait = .regrow 3 ∧ ((s.core 0).freeBlocks 0).length < 3)) &&
     ((s.core 0).schedGroups 0).all (fun y => (s.core 0).deadlocked (s.part (s.partOf 0)).isX y.1 y.2)) = true := by decide +kernel

def lateTrap (g : Group) : Group := { g with due := [{ cause := Causes.straggler, info := 0, lane := 0 }] }

/-- A spilled group blocked in `regrow` whose straggler trap is due, with room for its own blocks alone; and one, with its straggler
trap due or not, that has no room and makes a deadlock with a group at its barrier. -/
theorem witness_BlockGrowth_straggler :
    (let s := demoAll 0 (fun g => lateTrap { blocks 9 g with wait := .regrow 3, spill := some [] }) (beside 23 .barw) id id
     ((s.core 0).waitingParty (s.part (s.partOf 0)).isX 0).any (fun x => decide (x.1 = 0 ∧ x.2.wait = .regrow 3 ∧ x.2.spill ≠ none ∧
       x.2.stragglerDue = true ∧ x.2.blocks.length ≤ ((s.core 0).freeBlocks 0).length))) = true ∧
    [lateTrap, id].all (fun f =>
      let s := demoAll 0 (fun g => f { blocks 9 g with wait := .regrow 3, spill := some [] }) (beside 30 .barw) id id
      (((s.core 0).schedGroups 0).find? (fun y => y.2.asks.isSome)).any (fun x => decide (x.1 = 0 ∧ x.2.wait = .regrow 3 ∧
        x.2.spill ≠ none)) &&
      ((s.core 0).schedGroups 0).all (fun y => (s.core 0).deadlocked (s.part (s.partOf 0)).isX y.1 y.2)) = true := by decide +kernel

/-- A group with a raised trap and a vector at the aperture; the handler's address for the trap's class. -/
def raised (v : Dword) (g : Group) : Group :=
  { g with raised := some { cause := Causes.softwareTrap, info := 4, lane := 0, tepc := 8, split := 0 }, tvec := v }
def handlers (l : List (Nat × Byte)) (k : Core) : Core := { k with vault := l }
def classAt : Nat := 8 * (Causes.softwareTrap.toNat / 128)
/-- What a group at entry holds, and what its vector reads. -/
def entering (s : State) (atH : Bool) (v : Dword) (bs : Option (List Byte)) : Bool :=
  (s.group 0 0).any (fun g => g.raised.isSome && !g.entryPending && g.atH == atH && g.tvec == v && decide (g.tvec.toNat % 8 = 0) &&
    (s.core 0).itlb.isEmpty && g.raised.any (fun r =>
      let a := (g.tvec.toNat + 8 * (r.cause.toNat / 128)) % 2 ^ 48
      (walk s.host (s.part (s.grid g.grid).part) a).isSome == bs.isSome && decide (s.bytesAt (s.grid g.grid).part a 8 = bs)))
def apBase : Dword := BitVec.ofNat 64 (aperture 0 0)

/-- A handler at 0x100; none in the vector; an invalid vector page; no vector; a trap at H; one with a load pending; no trap. -/
theorem witness_TrapEntry :
    entering (demoAll 0 (raised apBase) (handlers [(classAt + 1, 1)]) id id) false apBase (some (leBytes 8 0x100)) = true ∧
    entering (demoAll 0 (raised apBase) (handlers ((List.range 8).map (fun i => (classAt + i, 0xFF)))) id id) false apBase
      (some (List.replicate 8 0xFF)) = true ∧
    entering (demoC (raised 0x1000)) false 0x1000 none = true ∧
    ((demoC (raised 0)).group 0 0).any (fun g => decide (g.tvec = 0) && !g.atH && g.raised.isSome && !g.entryPending) = true ∧
    ((demoC (fun g => { raised 0 g with atH := true })).group 0 0).any (fun g => g.atH && g.raised.isSome && !g.entryPending) = true ∧
    ((demoC (fun g => pending (raised 0 g))).group 0 0).any (fun g => g.entryPending && g.raised.isSome) = true ∧
    ((demoC id).group 0 0).any (fun g => g.raised.isNone) = true := by decide +kernel

theorem witness_SoftwareTraps :
    (Form.plain g0).meets (demoC id) (fun e => decide (e.act ≠ 0 ∧ e.g.gatherDue = false)) = true ∧
    (Form.plain gp).meets (demoC id) (fun e => decide (e.act = 0)) = true ∧
    ((demoC id).env 0 false).any (fun e => !e.k.brkf && !e.g.gatherDue) = true ∧
    ((demoK (fun k => { k with brkf := true })).env 0 false).any (fun e => e.k.brkf) = true := by decide +kernel

/-- A group in a handler, its frame one split of every lane. -/
def inHandler (g : Group) : Group :=
  { g with
    atH := true, tepc := 0x40, tcause := Causes.softwareTrap
    frame := { splits := [someLanes allLanes 0x38 [], none, none, none], trapping := 0, helper := 0 } }

theorem witness_TrapReturn :
    ({ Form.plain g0 with pre := handlerOnly } : Form).meets (demoC inHandler) (fun e => decide (e.act ≠ 0 ∧
      e.g.tcause ≠ Causes.firmGather ∧ e.g.live = allLanes ∧ e.g.frame.splits = [someLanes allLanes 0x38 [], none, none, none] ∧
      e.g.frame.trapping = 0)) = true := by decide +kernel

/-- What `ChecksTrap` asks of a state, with a condition. -/
def stopsOn (f : Form) (s : State) (c : Env → Bool) : Bool :=
  (s.env f.g.pg.val f.g.pn).any (fun e => (f.dueFirst e s).isNone && !(f.g.settle && e.g.anyPending) && c e)
def addForm (d a b : Reg) : Form := aluForm g0 .none d (some a) (some b) none
def readForm (n : BitVec 12) : Form := Form.grouped (csrForm g0 (.v 0) [] n false)
def writeForm (n : BitVec 12) : Form := Form.grouped (csrForm g0 (.c 0) [(.s 2, 1)] n true)

def haltForm : Form := Form.grouped { Form.plain g0 with srcs := [(.s 2, 1)], inX := false, pre := handlerOnly }

/-- A register one past eleven blocks; the hidden registers' ends; each phase; a diverged group; a pending register. -/
theorem witness_ChecksTrap :
    stopsOn (addForm (.v 176) (.v 0) (.v 1)) (demoC (blocks 11)) (fun e => decide (16 * e.g.blocks.length ≤ 176)) = true ∧
    [0x020, 0x025, 0x091, 0xFFF].all (fun n => stopsOn (readForm n) (demoC id) (fun e =>
      (readForm n).regsIn e && !e.g.atH && decide ((0x020 ≤ n.toNat ∧ n.toNat ≤ 0x025) ∨ 0x091 ≤ n.toNat))) = true ∧
    stopsOn (writeForm 0x024) (demoC id) (fun e => (writeForm 0x024).regsIn e && !e.g.atH) = true ∧
    -- registers that are read-only at both levels, at U and at H
    [id, inHandler].all (fun fg => stopsOn (writeForm 0x002) (demoC fg) (fun e => (writeForm 0x002).regsIn e)) = true ∧
    stopsOn (writeForm 0x030) (demoC id) (fun e => (writeForm 0x030).regsIn e && !e.g.atH) = true ∧
    stopsOn (writeForm 0x096) (demoC inHandler) (fun e => (writeForm 0x096).regsIn e && e.g.atH) = true ∧
    stopsOn haltForm (demoC id) (fun e => haltForm.regsIn e && !e.g.atH) = true ∧
    stopsOn { Form.plain g0 with pre := handlerOnly } (demoC id) (fun e => !e.g.atH) = true ∧
    stopsOn (fpForm g0 .none (.v 0) (some (.v 1)) (some (.v 2)) none) (demoX id) (fun e =>
      (fpForm g0 .none (.v 0) (some (.v 1)) (some (.v 2)) none).regsIn e && e.pt.isX) = true ∧
    stopsOn (xf [(.s 1, 1)] [] g0) (demoC id) (fun e => (xf [(.s 1, 1)] [] g0).regsIn e && !e.pt.isX) = true ∧
    stopsOn plainGroup (demoC diverged) (fun e => !e.g.converged) = true ∧
    stopsOn (addForm (.v 0) (.s 23) (.v 1)) (demoC diverged) (fun e => (addForm (.v 0) (.s 23) (.v 1)).regsIn e && !e.g.converged) =
      true ∧
    stopsOn (addForm (.v 0) (.v 1) (.v 3)) (demoC pending) (fun e => (addForm (.v 0) (.v 1) (.v 3)).regsIn e &&
      ((addForm (.v 0) (.v 1) (.v 3)).usesScalar == false) &&
      decide ((addForm (.v 0) (.v 1) (.v 3)).unsettled e = some 3)) = true := by decide +kernel

theorem witness_SystemWords :
    (readForm 0x021).meets (demoC inHandler) (fun e => decide (e.act ≠ 0)) = true ∧
    (writeForm 0x024).meets (demoC inHandler) (fun e => decide (e.act ≠ 0)) = true ∧
    (Form.grouped { Form.plain g0 with inX := false }).meets (demoC id) (fun e => decide (e.act ≠ 0 ∧ e.k.walks = [])) = true ∧
    (Form.grouped { Form.plain g0 with inX := false }).meets (demoK (fun k => { k with walks := [walkOf 0 0] })) (fun e =>
      decide (e.act ≠ 0 ∧ e.k.walks ≠ [])) = true ∧
    haltForm.meets (demoC inHandler) (fun e => decide (e.act ≠ 0)) = true ∧
    ((demoC id).group 0 0).any (fun g => ((demoC id).team 0 g.team).isSome) = true := by decide +kernel

theorem witness_RegisterWrites :
    (let writes := fun (fg : Group → Group) (n : BitVec 12) => (writeForm n).meets (demoC fg) (fun e =>
       decide (e.act ≠ 0) && (e.k.team e.g.team).isSome)
     [0x000, 0x001, 0x040, 0x041, 0x050, 0x051, 0x061, 0x062, 0x070, 0x071, 0x072].all (writes id) &&
       [0x021, 0x024, 0x025, 0x030, 0x031, 0x091, 0x094, 0x095].all (writes inHandler)) = true := by
  decide +kernel

/-- A partition whose time-out is reached, and one whose count is one short; groups arrived, engines idle and acknowledged. -/
def counting (n : Nat) (p : Partition) : Partition := { p with stragOn := true, phtmo := 100, strag := n }
def arrived (g : Group) : Group := { g with arrived := true }
def acked (k : Core) : Core := { k with acks := allEngines }

theorem witness_LandingSteps :
    (let s := demoAll 0 id id (counting 100) id
     decide ((s.part 0).opened = true ∧ (s.part 0).stragOn = true ∧ (s.part 0).stragFired = false ∧ s.timeout 0 ≠ 0 ∧
       s.noGroups (s.part 0) = false ∧ s.timeout 0 ≤ (s.part 0).strag)) = true ∧
    -- a C-phase without groups: nothing waits, a team waits, and a team waits while one that is over has not ended
    (let empty := fun (n : Nat) (fk : Core → Core) =>
       { demoK (fun k => fk (k.setGroup 0 none)) with grids := [{ demoGrid with nextTeam := n, lrec := { demoRecord with teams := 2 } }] }
     let waits := fun (s : State) (w o : Bool) => s.noGroups (s.part 0) && !(s.part 0).isX && s.teamsWait 0 == w && s.overLeft (s.part 0) == o
     let ends := fun (k : Core) => k.setTeam 0 (some { demoTeam with ending := true })
     waits (empty 2 id) false false && waits (empty 1 id) true false && waits (empty 1 ends) true true) = true ∧
    (let s := demoAll 0 id id (counting 99) id
     decide ((s.part 0).strag < s.timeout 0)) = true ∧
    (let s := demoC arrived
     s.allArrived (s.part (s.partOf 0)) && allEngines.all (fun x => (s.core 0).idle x && !(s.core 0).acks.contains x)) = true ∧
    (demoC id).allArrived ((demoC id).part 0) = false ∧
    (demoAll 0 arrived acked id id).canLand ((demoAll 0 arrived acked id id).part 0) = true ∧
    (demoC arrived).canLand ((demoC arrived).part 0) = false ∧ ((demoC arrived).part 0).opened = true ∧
    ((demoC id).part 1).opened = false := by decide +kernel

/-- The whole device about to land, with the placed word's group arrived. -/
def landing : State :=
  ((State.reset.withFetchWord 64 0).modGroup 0 0 arrived).modCore 0 acked

theorem witness_LandingAdvances : landing.shaped = true ∧ landing.canLand (landing.part 0) = true := by decide +kernel

/-- A queue of one node, in host memory at 0x40, whose record is at 0x100. -/
def ring (l : List Dword) (head tail : Word) (s : State) : State :=
  { s with
    host := Memory.store (Memory.store [] 0x40 (leBytes 8 0x100)) 0x100 (recordBytes (aperture 0 0 + 0x200))
    queues := [{ Queue.reset with en := true, head := head, tail := tail, ready := l }]
    parts := s.parts.map (fun p => { p with qmask := 1 })
    grids := [] }
def launched (s : State) : Except Cause State :=
  (s.modQueue 0 (fun x => { x with ready := [] })).submit 0 (some (Memory.bytes s.host 0x100 256)) 0x100
    (Memory.nat s.host 0x4A 2 != 0) 0x40 0 none 1 10
def gridIn (ph : GridPhase) (left : Nat) : State := { demoC id with grids := [{ demoGrid with phase := ph, teamsLeft := left }] }

/-- An entry to take and none; a node whose record launches and one whose record fails; grids in each phase asked for. -/
theorem witness_CommandSteps :
    (let s := ring [] 0 1 (demoC id)
     decide (s.queueRuns 0 = true ∧ (s.queue 0).ready = [] ∧ s.queueBusy 0 = false ∧ (s.queue 0).head ≠ (s.queue 0).tail)) = true ∧
    (let s := ring [] 1 1 (demoC id)
     decide ((s.queue 0).head = (s.queue 0).tail)) = true ∧
    (let s := ring [0x40] 1 1 (demoC id)
     decide (s.queueRuns 0 = true ∧ (s.queue 0).ready[0]? = some 0x40 ∧ Memory.dword s.host 0x40 = 0x100) && isOk (launched s)) =
      true ∧
    (let s : State := { ring [0x40] 1 1 (demoC id) with host := Memory.store [] 0x40 (leBytes 8 0x100) }
     decide (s.queueRuns 0 = true ∧ (s.queue 0).ready[0]? = some 0x40) && !isOk (launched s)) = true ∧
    ((gridIn .hashing 1).grid? 0).any (fun x => decide (x.phase = .hashing)) = true ∧
    ((gridIn .resident 1).grid? 0).any (fun x => decide (x.phase ≠ .hashing) && !(gridIn .resident 1).finished x) = true ∧
    ((gridIn .resident 0).grid? 0).any (fun x => (gridIn .resident 0).finished x) = true ∧
    -- a grid whose last team is over
    (let s := (gridIn .resident 1).modCore 0 (fun k => (k.setGroup 0 none).setTeam 0 (some { demoTeam with ending := true }))
     (s.grid? 0).any (fun x => s.finished x)) = true := by decide +kernel

def image : Saved := { tier := 1, base := 0, phcnt := 2, gen := 0, cores := [], grids := [] }

/-- A partition with a resident group, one with none and an image that may be restored, a closed one; a grid being removed; the
whole device with an open partition. -/
theorem witness_ContextSteps :
    ((demoC id).part 0).opened = true ∧ (demoC id).noGroups ((demoC id).part 0) = false ∧ ((demoC id).part 1).opened = false ∧
    (let s : State := { demoAll 0 id (fun k => k.setGroup 0 none) (fun p =>
       { p with hasImage := true, key := some 1, ctxtier := 1, image := some image }) id with grids := [] }
     decide ((s.part 0).opened = true ∧ s.noGroups (s.part 0) = true ∧ (∀ g ∈ s.grids, g.part = 0 → g.phase ≠ .resident) ∧
       (s.part 0).restorable = some image)) = true ∧
    ((demoC id).part 0).restorable = none ∧
    ((gridIn .removing 1).grid? 0).any (fun x => decide (x.phase = .removing)) = true ∧
    ((demoC id).grid? 0).any (fun x => decide (x.phase ≠ .removing)) = true ∧
    landing.shaped = true ∧ (landing.part 0).opened = true := by decide +kernel

/-- The last cluster alone, and every cluster; a window that is shut, one on a debug register, one in a frozen cluster. -/
theorem witness_ControllerSteps :
    State.reset.shaped = true ∧ State.reset.canOpen 15 31 1 0 = true ∧ State.reset.canOpen 0 0 32 0xFFFFFFFFFFFFFFFF = true ∧
    State.reset.canOpen 0 1 32 0 = false ∧ ((demoC id).part 0).opened = true ∧ ((demoC id).part 1).opened = false ∧
    (∀ g ∈ (gridIn .waiting 1).grids, g.part = 0 → g.phase ≠ .resident) ∧
    (∃ g ∈ (demoC id).grids, g.part = 0 ∧ g.phase = .resident) ∧
    ((demoAll 0 id id (fun p => { p with qmask := 1 }) id).part 0).qmask.getLsbD 0 = true ∧
    ((demoC id).part 0).qmask.getLsbD 0 = false ∧ (demoC id).power = true ∧ State.reset.unpowered.power = false ∧
    ((demoC id).cluster 0).frozen = false ∧
    ((demoAll 0 id id id (fun q => { q with frozen := true })).cluster 0).frozen = true ∧
    ((demoC id).part 0).debugCore = some 0 ∧ ((demoC id).part 0).debugOpen = false ∧
    (let s := demoAll 0 id id (fun p => { p with didx := 0x096 }) id
     decide ((s.part 0).debugOpen = true ∧ (s.debugRead (s.part 0) 0).isSome = true)) = true := by decide +kernel

/-- A word that a STEP lets issue, and a trap due that comes before it. -/
theorem witness_ControllerSteps_step :
    [false, true].all (fun b =>
      let s := ((State.reset.withFetchWord 64 0).modGroup 0 0 (fun g => if b then { g with due := [{
          cause := Causes.straggler, info := 0, lane := 0 }] } else g)).modCore 0 (fun k => { k with step := true, sgrp := 0 })
      let s := s.modCluster 0 (fun q => { q with frozen := true })
      decide (s.stepChoice 0 0 = some (0, 0)) && s.issues 0 0 0 == !b) = true := by decide +kernel

def upLink (s : State) : State := { s with links := [{ Link.reset with up := true, peer := 3, unacked := [(5, [], [])] }] }

theorem witness_LinkSteps :
    ((upLink (demoC id)).link 0).up = true ∧ ((demoC id).link 0).up = false ∧
    ((upLink (demoC id)).link 0).unacked.findIdx? (fun x => x.1 == 5) = some 0 ∧
    (∃ x ∈ (upLink (demoC id)).links, x.up = true ∧ x.peer = 3) ∧ ¬ (∃ x ∈ (demoC id).links, x.up = true ∧ x.peer = 3) ∧
    (let f : Flit := { kind := 1, seq := 0, ack := 0, dseq := 0, raw := true, len := 1, payload := [7], good := true }
     decide ((Link.reset.receive f).delivered ≠ Link.reset.delivered) = true ∧ { f with good := false }.good = false ∧
       3 < { f with kind := 4 }.kind) := by decide +kernel

theorem witness_PackageSteps :
    State.reset.power = true ∧ State.reset.unpowered.power = false ∧ State.reset.unpowered.rollback ≤ 0 ∧
    ({ State.reset.unpowered with rollback := 1 } : State).power = false ∧ 0 < ({ State.reset.unpowered with rollback := 1 } : State).rollback ∧
    State.reset.recov = false ∧ ({ State.reset with recov := true } : State).recov = true ∧ State.reset.spdm.stage < 1 ∧
    ({ State.reset with spdm := { stage := 3, answer := .none } } : State).spdm.stage = 3 := by decide +kernel

/-- A step from the placed word, and its state before. -/
theorem witness_StepKeeps :
    (State.reset.withFetchWord 64 0x04400E0FFFFFFFFD).shaped = true ∧ (State.reset.withFetchWord 64 0x04400E0FFFFFFFFD).canonical = true ∧
    (match step (State.reset.withFetchWord 64 0x04400E0FFFFFFFFD) with
     | .next _ => true
     | _ => false) = true := by decide +kernel

/-! ## Further clauses -/

/-- A log of a gather of lanes 0 and 1 whose lane 0 is unfinished, at the aperture's first granule. -/
def someLog : OpLog :=
  { flight := 5, pc := 0x20, d := 9, dregs := List.replicate 32 9, size := .n32, space := .vt
    addrs := List.replicate 32 (BitVec.ofNat 48 (aperture 0 0)), guard := 3, pcm := 2, dropped := false }

/-- No passing lane, and no free log. -/
theorem witness_LoadsComplete_none :
    (memForm gp .none (some (.v 4, 1)) true bSp true).meets (demoC id) (fun e => decide (e.act = 0)) = true ∧
    ({ memForm gp .none (some (.v 4, 1)) true bWide false with log := true } : Form).meets (demoC id)
      (fun e => decide (e.act = 0)) = true ∧
    reaches { memForm g0 .none (some (.v 4, 1)) true bWide false with log := true }
      (demoC (fun g => { scal hitAt g with logs := [some someLog, some someLog] })) bWide 4 false
      (fun e _ _ => decide (e.act ≠ 0 ∧ ∀ o ∈ e.g.logs, o ≠ none)) = true := by decide +kernel

/-- A word that the pipe has taken, behind one of another scheduler; a queue's head to take. -/
theorem witness_ResultsReturn_taken :
    (let s := demoAll 0 pending (fun k => { k with xptaken := [{ sched := 1, slot := 4, inflight := 9 }, { sched := 0, slot := 0, inflight := 5 }] })
       id id
     returns s 0 0 5 && decide ((s.core 0).xptaken = [{ sched := 1, slot := 4, inflight := 9 }] ++ { sched := 0, slot := 0, inflight := 5 } :: [])) =
      true ∧
    (((demoK (piped 4)).core 0).pipe 0).isEmpty = false ∧ ((demoK (piped 4)).core 0).xptaken.length < 5 := by decide +kernel

/-- Leaves that the core's vault holds and that it does not; a queue with unlike entries; a queue with none of a colour. -/
theorem witness_StoresComplete_places :
    Pte.res 0xF = true ∧ Pte.core 0xF = 0 ∧ Pte.res 0xB = false ∧ 0 / 8 < (demoC id).clusters.length ∧
    ((demoC (queued [3, 7])).group 0 0).any (fun g => decide (g.wq.Nodup ∧ (∀ x ∈ g.wq, x.id = 3 → x.col = 3) ∧ ∀ x ∈ g.wq, x.col ≠ 0)) =
      true := by decide +kernel

theorem witness_ResidencyWords_lists :
    reaches { memForm g0 .none none false bVt false with inX := false } (demoC (scal [(0, 0x10000)])) bVt 4 false
      (fun e s1 r => decide (e.core % 8 < (s1.cluster (e.core / 8)).pageReq.length) && r.any (fun x => x.2.misses e.core)) = true ∧
    (31 : Nat) < 32 := by decide +kernel

/-- A head of each unit's queue that has begun. -/
theorem witness_UnitSteps_begun :
    (let b : Begun := { engine := .matrix, ok := false, vdata := [], sdata := [], helper := none }
     let s := demoK (fun k => { oneCommand (.acz 0 1024) k with begun := [b] })
     ((s.core 0).begunBy .matrix == some b) && ((s.core 0).mq.head?).any (fun x => (s.core 0).matrixReady x) &&
       ((demoK (oneCommand (.acz 0 1024))).core 0).begunBy .matrix == none) = true := by decide +kernel

/-- A line's sub-curve at a middle point: above the tile, left of it, and in its last pixel. -/
def sub (mx my : Int) : SubCurve := { pts := [(0, 0), (0, 16)], mx := mx, my := my }
/-- A tile at 0 with a header's low halves, with two selected pixels. -/
def tileMem (h0 h1 : Byte) : Memory := Memory.store [] 0 ([5, 0, 0, 0, 0, 0, 0, 0, h0, h1] ++ List.replicate 6 0 ++ [255, 7])

/-- Deposits at the tile's edges; the scan in both modes; clip depths 0, 7 and 8; a span's command and its open tile. -/
theorem witness_TileBegins :
    ((sub 0 (-1)).my / 256 < 0 ∧ 15 < (sub 0 4096).my / 256 ∧ 15 < (sub 4096 0).mx / 256) ∧
    ((sub (-1) 3840).mx / 256 < 0 ∧ (sub (-1) 3840).my / 256 = (15 : Nat)) ∧
    ((sub 4095 0).mx / 256 = (15 : Nat) ∧ (sub 4095 0).my / 256 = (0 : Nat)) ∧ hdrTang (tileHdr (tileMem 0 0) 0) < 256 ∧
    hdrRef (tileHdr (tileMem 0 0) 0) = false ∧
    (hdrRef (tileHdr (tileMem 0x14 0) 0) = true ∧ (selected (tileMem 0x14 0) 0).Nodup ∧ (selected (tileMem 0x14 0) 0).length = 2) ∧
    hdrCdep (tileHdr (tileMem 0 0) 0) = 0 ∧ hdrCdep (tileHdr (tileMem 0 7) 0) = 7 ∧ hdrCdep (tileHdr (tileMem 0 8) 0) = 7 + 1 ∧
    (let s := demoK (fun k => tile 0 0 (covered (.span 3 0 allLanes (some 4)) k))
     ((s.core 0).cq.head?).any (fun x => x.kind == .span 3 0 allLanes (some 4) && (s.core 0).tile x.tc == some 0)) = true := by
  decide +kernel

/-- An `xcall` of no words. -/
theorem witness_TransferIssue_call :
    xferWord (xf [] [(.s 2, 1), (.s 4, 1)]) [(4, 8)] (fun e _ => decide (val e 4 % 8 = 0)) = true := by decide +kernel

/-- The aperture's second granule in the second tier. -/
def inTier (p : Partition) : Partition := { p with apLeaves := p.apLeaves.map (fun x => if x.2 = 0xB then (x.1, 0x4B) else x) }

/-- A page that needs a disabled second tier; frames that are misaligned or too high; an eviction that needs it. -/
theorem witness_PagingIssue_faults :
    (xf [(.s 1, 1)] [(.s 2, 2), (.s 4, 1)] g0).meets { demoAll 1 (scal [(2, (missAt.getD 0 (0, 0)).2), (3, (missAt.getD 1 (0, 0)).2)])
        id inTier id with tierSize := 0 } (fun e => resident e && (walk [] e.pt ((e.rd64 (.s 2) 0).toNat % 2 ^ 48)).any
          (fun l => decide (val e 4 % pageSize l.big = 0 ∧ Pte.res l.pte = false ∧ Pte.tier l.pte = 1))) = true ∧
    (xf [(.s 1, 1)] [(.s 2, 2), (.s 4, 1)] g0).meets (demoX (scal [(4, 1)])) (fun e => resident e && decide (val e 4 % 0x10000 ≠ 0)) =
      true ∧
    (xf [(.s 1, 1)] [(.s 2, 2), (.s 4, 1)] g0).meets (demoX (scal [(4, 0x1F000000)])) (fun e => resident e &&
      decide (0x1F000000 ≤ val e 4)) = true ∧
    (xf [(.s 1, 1)] [(.s 2, 2), (.s 4, 2)] g0).meets { demoX (scal [(2, (hitAt.getD 0 (0, 0)).2), (3, (hitAt.getD 1 (0, 0)).2)]) with tierSize := 0 } (fun e => resident e &&
      (walk [] e.pt ((e.rd64 (.s 2) 0).toNat % 2 ^ 48)).isSome) = true := by decide +kernel

/-- A transfer of some kind by the group in slot 0. -/
def xferOf (op : XferOp) : Transfer :=
  { slot := 0, uid := 7, team := 0, group := 0, tg := 2, seq := 1, op := op, acq := false, acqId := 0, deadline := 5, moved := 0
    miss := false, ordered := false, after := [], stream := none, sent := 0 }
def sending (op : XferOp) (k : Core) : Core := { k with xfers := [xferOf op] }
def atomAt (p : AtomPlace) : AtomEntry :=
  { key := { order := 0, team := 0, group := 0, lane := 0, seq := 0 }, grid := 0, place := p, op := .add, w64 := false, data := 1, cmp := 0 }

/-- One outstanding transfer of each kind; a call to a resident team and to one that is not; a page word's result in flight. -/
theorem witness_TransferSteps_kinds :
    [XferOp.bulk (.win Config.coreWindow) true .sp 0 4, .drain 0 1 0 0 true 0, .atoms [atomAt (.scratch 0 0)] true, .call 0 8 1 0 0,
      .page 5 false].all (fun op => (((demoAll 1 id (sending op) id id).core 0).xfers[0]?).any (fun x => x.op == op)) = true ∧
    (let s := demoAll 1 id (sending (.call 0 8 8 0 0)) id id
     let target := fun (n : Nat) => (s.part (s.partOf 0)).coreList.find? (fun d =>
       (s.core d).teamList.any (fun y => y.2.grid == demoTeam.grid && y.2.num == n && !y.2.ending))
     target 0 == some 0 && target 1 == none) = true ∧
    (let s := demoAll 1 (fun g => { g with inflight := [{ id := 5, kind := .exchange, vregs := [], sregs := [1], vdata := [], sdata := [(1, 0)]
                                                          flags := 0, ready := false }] }) (sending (.page 5 false)) id id
     (s.group 0 0).any (fun g => (g.flight 5).any (fun f => f.vdata.isEmpty))) = true := by decide +kernel

/-- A put of one piece over a link that it has been sent on: acknowledged, not yet, on a link trained since, and on one that is down; one
with no stream to go on, whose piece fails; and a pull. -/
theorem witness_TransferSteps_link :
    (let op := fun (pull : Bool) => XferOp.bulk (.link 3 .win 0) pull .sp 0 4
     let s := fun (l : Link) (x : Transfer) => ({ demoAll 1 id (fun k => { k with xfers := [x] }) id id with links := [l] } : State)
     let put : Transfer := { xferOf (op false) with moved := 1, stream := some (0, 0), sent := 1 }
     let up : Link := { Link.reset with up := true, peer := 3, queued := 1 }
     let runs := fun (l : Link) (x : Transfer) => ((s l x).runBulk 0 { x with stream := x.stream.orElse (fun _ => (s l x).streamTo 3) }
       (.link 3 .win 0) false .sp 0 4)
     let same := fun (r : State × Outcome) => decide ((r.1.link 0).up = true ∧ (r.1.link 0).stream = 0)
     let acked := fun (r : State × Outcome) => (r.1.link 0).queued - (r.1.link 0).txq.length - (r.1.link 0).unacked.length
     [up, { up with txq := [[7]] }, { up with stream := 2 }, Link.reset].all (fun l =>
       (((s l put).core 0).xfers[0]?).any (fun x => x.op == op false) && !(runs l put).2.fault) &&
     same (runs up put) && decide (1 ≤ acked (runs up put)) && same (runs { up with txq := [[7]] } put) &&
     decide (acked (runs { up with txq := [[7]] } put) < 1) && !same (runs { up with stream := 2 } put) &&
     !same (runs Link.reset put) && (runs Link.reset (xferOf (op false))).2.fault &&
     (((s up (xferOf (op true))).core 0).xfers[0]?).any (fun x => x.op == op true)) = true := by decide +kernel

/-- The whole device with the placed word's group, at the far places of each kind; pages held, elsewhere and invalid; a register
of the group. -/
theorem witness_TransferSteps_bulk :
    (let s := State.reset.withFetchWord 64 0
     decide (s.shaped = true ∧ s.canonical = true ∧ (s.team 0 0).isSome = true ∧ s.late = [] ∧
       winCore (Config.coreWindow + 255 * 2 ^ 24) = 255 ∧ winSlice (Config.sliceWindow + 31 * 2 ^ 24) = 31 ∧ 128 % 4 = 0 ∧
       (2 ^ 64 - 128) + 128 ≤ 2 ^ 64 ∧ (2 ^ 40 - 128) + 128 ≤ s.tierSize)) = true ∧
    (let s := demoX id
     let leaf := fun (va : Nat) => (s.translate 0 (s.partOf 0) va false).2
     (leaf (aperture 0 0)).any (fun l => Pte.res l.pte && Pte.core l.pte == 0) && (leaf (aperture 0 0 + 0x10000)).any (fun l => !Pte.res l.pte) &&
       (leaf 0).isNone) = true ∧
    (let s := demoX (fun g => { g with xgrp := false })
     s.regTarget (s.partOf 0) (s.teamGrid 0 0) 0 1 == some (0, 0)) = true ∧
    (demoX id).tierSize < 2 ^ 40 + 0 + 1 := by decide +kernel

/-- The forms that take a link or an indirect target, with some of the lanes passing and with none. -/
theorem witness_UniformBranches_none :
    ({ Form.plain gp with dsts := [(.v 4, 1)] } : Form).meets (demoC id) (fun e => decide (e.act = 0)) = true := by decide +kernel

def targetsOf (e : Env) (a : Reg) : LaneMask :=
  LaneMask.ofFn (fun l => e.act.getLsbD l && e.rd a l == e.rd a (LaneMask.lowest e.act))
/-- A group whose split is about to reach its top record's J. -/
def nearJ (r : JoinRec) (m : LaneMask) (rest : List JoinRec) (g : Group) : Group :=
  { g with splits := [someLanes m 0 (r :: rest), none, none, none] }
def joinAt8 (mj dm am : LaneMask) : JoinRec := { j := 8, mj := mj, dpc := 64, dmask := dm, amask := am }
def outer : JoinRec := { j := 800, mj := allLanes, dpc := 0, dmask := 0, amask := 0 }

/-- A call and an indirect branch that diverge, the latter with lanes left that pass; every way to reach a J. -/
theorem witness_DivergentBranch_kinds :
    ({ Form.plain gp with dsts := [(.v 4, 1)] } : Form).meets (demoC (deep 7)) (fun e => decide (e.act ≠ 0 ∧ e.act ≠ e.sp.mask)) = true ∧
    (indirect g0 (.v 1)).meets (demoK (fun k => { k with regs := [(32 + 3, 8)] })) (fun e => decide (e.act ≠ 0 ∧
      targetsOf e (.v 1) ≠ e.sp.mask ∧ e.act &&& ~~~targetsOf e (.v 1) ≠ 0 ∧ ∀ l ∈ e.lanes, (e.rd (.v 1) l).toNat % 8 = 0)) = true ∧
    (indirect gp (.v 1)).meets (demoC (deep 7)) (fun e => decide (e.act ≠ 0 ∧ targetsOf e (.v 1) ≠ e.sp.mask ∧
      e.act &&& ~~~targetsOf e (.v 1) = 0)) = true ∧
    (let at8 := fun (r : JoinRec) (m : LaneMask) (rest : List JoinRec) => (Form.plain g0).meets (demoC (nearJ r m rest)) (fun e =>
       decide (e.sp.stack = r :: rest ∧ e.sp.pc + 8 = r.j ∧ e.sp.mask = m))
     at8 (joinAt8 allLanes 0xFFFF0000 0) 0xFFFF [outer] && at8 (joinAt8 allLanes 0 0xFF) 0xFFFF [outer] &&
       at8 (joinAt8 allLanes 0 0xFFFF0000) 0xFFFF [outer]) = true ∧
    (Form.plain g0).meets (demoC (fun g => { g with splits := [someLanes 0xFFFF 0 [joinAt8 allLanes 0 0],
      someLanes 0xFFFF0000 8 [joinAt8 allLanes 0 0], none, none] })) (fun e => decide (e.split = 0 ∧ e.sp.pc + 8 = 8 ∧
        (e.g.split 1).map (fun sq => (sq.pc, sq.mask ||| e.sp.mask)) = some (8, allLanes))) = true := by decide +kernel

/-- A `bar` in its waiting half and one that is not; a team of one group that has set its flag, and one that has not. -/
theorem witness_Barriers_halves :
    (let b := fun (o : Option Word) (g : Group) => { flagged 0 g with barAt := o }
     plainGroup.meets (demoAll 0 (b (some 0)) genOne id id) (fun e => decide (e.act ≠ 0 ∧ e.g.barFlag = true ∧ e.g.barAt = some e.sp.pc ∧
       e.g.barGen < e.t.gen)) &&
     plainGroup.meets (demoC (b (some 0))) (fun e => decide (e.act ≠ 0 ∧ e.g.barFlag = true ∧ e.g.barAt = some e.sp.pc ∧
       e.t.gen ≤ e.g.barGen)) &&
     plainGroup.meets (demoC (b none)) (fun e => decide (e.act ≠ 0 ∧ e.g.barFlag = true ∧ e.g.barAt ≠ some e.sp.pc))) = true ∧
    (let all := fun (s : State) (p : Group → Bool) => (s.team 0 0).isSome && (s.group 0 0).isSome && (List.range 16).all (fun i =>
       (s.group 0 i).all p)
     all (demoC (flagged 0)) (fun x => x.barFlag && x.barGen == 0 && x.team == 0 && decide (x.index < 16 ∧ x.live ≠ 0)) &&
       all (demoC id) (fun x => !x.barFlag)) = true := by decide +kernel

/-- The last free handle, no free handle, a handle that names no child; a landing with the children done and with one not. -/
def lastJoin (j : Word) : JoinRec := { j := j, mj := allLanes, dpc := 0, dmask := 0, amask := 0 }

theorem witness_Children_more :
    (let full := fun (n : Nat) => demoAll 0 (scal named) (fun k => withRecord (recordBytes (aperture 0 0 + 0x200))
       (kids (List.replicate n (some (doneKid false)) ++ List.replicate (8 - n) none) k)) id id
     launchForm.meets (full 7) (fun e => mayLaunch e && (e.t.children.getD 7 none).isNone &&
       (List.range 7).all (fun k => (e.t.children.getD k none).isSome) &&
       isOk (submitted e (full 7))) &&
     launchForm.meets (full 8) (fun e => decide (e.act ≠ 0 ∧ e.g.index = 0 ∧ e.gr.lrec.child = true ∧ e.gr.depth < e.gr.limit ∧
       ∀ o ∈ e.t.children, o ≠ none))) = true ∧
    (Form.grouped { Form.plain g0 with dsts := [(.s 1, 1)], srcs := [(.s 2, 1)] }).meets (demoC (scal [(2, 8)])) (fun e =>
      decide (e.act ≠ 0 ∧ e.awaited (.s 2) = none)) = true ∧
    (let waits := fun (b : Bool) (g : Group) => { g with wait := .chwait [(0, doneKid b)] (.s 1) 2 }
     [true, false].all (fun b => ((demoC (waits b)).group 0 0).any (fun x => decide (x.wait = .chwait [(0, doneKid b)] (.s 1) 2) &&
       (x.split 0).any (fun sp => decide (sp.stack.length ≤ 8)) && (x.split 1).isNone && (x.split 2).isNone && (x.split 3).isNone))) =
       true ∧
    -- a converged group with a record of a split that has ended, whose join is the next word, and another word
    [8, 0x60].all (fun j => ((demoC (fun g => { g with
        wait := .chwait [(0, doneKid true)] (.s 1) 2, splits := [someLanes allLanes 0 [lastJoin j], none, none, none] })).group 0 0).any (fun x =>
      (x.split 0).any (fun sp => decide (sp.stack.length ≤ 8) && sp.stack.all (fun r => decide (r.mj = sp.mask ∧ r.dmask = 0 ∧
        r.amask = 0)) && sp.stack.head?.any (fun r => r.j == sp.pc + 8) == (j == 8)))) = true := by
  decide +kernel

/-- A spilled group with something to resume; a group to spill, and a spill image to restore. -/
theorem witness_BlockGrowth_spills :
    (let s := demoC (fun g => { blocks 9 g with spill := some [] })
     ((s.core 0).waitingParty (s.part (s.partOf 0)).isX 0).any (fun x => decide (x.1 = 0 ∧ x.2.asks = none ∧ x.2.spill ≠ none ∧
       x.2.blocks.length ≤ ((s.core 0).freeBlocks 0).length))) = true ∧
    ((demoC id).group 0 0).any (fun x => decide (x.spill = none ∧ x.blocks.Nodup)) = true ∧ Store.wf ((demoC id).core 0).regs = true ∧
    ((demoC (fun g => { g with spill := some [(5, 1)] })).group 0 0).any (fun x => decide (x.spill = some [(5, 1)] ∧ 5 < 32 * x.nregs ∧
      x.blocks.length ≤ (((demoC (fun g => { g with spill := some [(5, 1)] })).core 0).freeBlocks 0).length)) = true := by decide +kernel

/-- A return to two splits, to one beside a sibling that waits at its join, and one from a firm gather that has lanes left. -/
theorem witness_TrapReturn_more :
    (let two := fun (g : Group) => { inHandler g with frame := {
       splits := [someLanes 0xFFFF 0x38 [outer], someLanes 0xFFFF0000 0x50 [outer], none, none], trapping := 0, helper := 0 } }
     ({ Form.plain g0 with pre := handlerOnly } : Form).meets (demoC two) (fun e => decide (e.act ≠ 0 ∧ e.g.tcause ≠ Causes.firmGather) &&
       e.g.frame.splits.all (fun o => o.all (fun sp => decide (sp.mask &&& e.g.live ≠ 0 ∧ ∀ r ∈ sp.stack.head?, sp.pc ≠ r.j ∧ e.g.tepc ≠ r.j))))) =
      true ∧
    (let waits := fun (g : Group) => { inHandler g with frame := {
       splits := [someLanes 0xFFFF 0x38 [outer], someLanes 0xFFFF0000 800 [outer], none, none], trapping := 0, helper := 0 } }
     ({ Form.plain g0 with pre := handlerOnly } : Form).meets (demoC waits) (fun e =>
       decide (e.act ≠ 0 ∧ e.g.tcause ≠ Causes.firmGather ∧ e.g.live = allLanes ∧ outer.mj = allLanes ∧ outer.dmask = 0) &&
       e.g.frame.splits.map (fun o => o.map (fun sp => (sp.pc == outer.j, sp.mask.getLsbD 0, sp.stack == [outer]))) ==
         [some (false, true, true), some (true, false, true), none, none])) = true ∧
    ({ Form.plain g0 with pre := handlerOnly } : Form).meets (demoC (fun g => { inHandler g with
      tcause := Causes.firmGather, logs := [some someLog, none] })) (fun e => decide (e.act ≠ 0 ∧ e.g.tcause = Causes.firmGather ∧
        e.g.logs.getD e.g.gatherLog none = some someLog ∧ e.k.tlb = [] ∧ e.k.lastPage = [])) = true := by decide +kernel

theorem witness_LandingSteps_restore :
    (let s := demoAll 0 arrived acked (fun p => { p with restoreReq := true }) id
     decide ((s.part 0).opened = true ∧ (s.part 0).restoreReq = true)) = true ∧ ((demoC arrived).part 0).restoreReq = false ∧
    landing.shaped = true ∧ landing.canLand (landing.part 0) = true ∧ (landing.part 0).restoreReq = false := by decide +kernel

/-- The whole device, partition 0 open and idle, with an image to restore, frozen or not. -/
def restoring (frozen : Bool) : State :=
  (State.reset.modPart 0 (fun p => { p with
    opened := true, ncl := 1, hasImage := true, key := some 1, ctxtier := 1, image := some image })).modCluster 0 (fun q => { q with frozen := frozen })

theorem witness_ContextSteps_restore :
    [true, false].all (fun b => (restoring b).shaped && ((restoring b).part 0).opened && (restoring b).noGroups ((restoring b).part 0) &&
      ((restoring b).part 0).coreList.all (fun c => ((restoring b).core c).teamList.isEmpty) &&
      (((restoring b).part 0).restorable == some image) && ((restoring b).anyFrozen ((restoring b).part 0) == b)) = true ∧
    (restoring false).grids = [] ∧ (restoring true).grids = [] := by decide +kernel

/-- An open partition of the whole device with queue 63 alone; each kind of access through an open window. -/
theorem witness_ControllerSteps_registers :
    (let s := State.reset.modPart 0 (fun p => { p with opened := true, ncl := 1, qmask := 1 <<< 63 })
     decide (s.shaped = true ∧ (s.part 0).opened = true ∧ (s.part 0).qmask.getLsbD 63 = true ∧ (s.part 0).qmask.getLsbD 0 = false ∧
       s.power = true ∧ s.recov = false)) = true ∧
    State.reset.shaped = true ∧ (State.reset.cluster 0).frozen = false ∧
    (let s := State.reset.modCluster 0 (fun q => { q with frozen := true })
     s.shaped = true ∧ (s.cluster 0).frozen = true) ∧
    (let w := fun (kind : BitVec 2) (n : BitVec 26) (fz : Bool) => demoAll 0 id id (fun p => { p with dkind := kind, didx := n })
       (fun q => { q with frozen := fz })
     let isOpen := fun (s : State) (fz : Bool) => decide ((s.part 0).opened = true ∧ (s.part 0).dcore.toNat < 8 * (s.part 0).ncl ∧
       (s.cluster 0).frozen = fz) && (s.group 0 0).isSome
     isOpen (w 0 0x091 false) false && isOpen (w 0 0x000 true) true && isOpen (w 1 (32 * 191 + 31) true) true && isOpen (w 2 23 true) true &&
       isOpen (w 3 0x1FFFF true) true && (csrWidth 0x091).isSome && (csrWidth 0x000).isSome) = true ∧
    (let s := State.reset.modPart 0 (fun p => { p with opened := true, ncl := 1, dkind := 0, didx := 0x096 })
     decide (s.shaped = true ∧ (s.part 0).opened = true ∧ (s.part 0).dkind = 0 ∧ (s.part 0).didx = 0x096)) = true := by decide +kernel

/-- A put to an unmapped address, and one to the last slice of an open partition of the whole device. -/
theorem witness_LinkSteps_puts :
    (let s := State.reset.modPart 0 (fun p => { p with opened := true, ncl := 32 })
     let x := fun (a : Nat) => ({ part := 0, rsp := .cl, addr := a, bytes := [1, 2], arrival := 0 } : LinkPut)
     !s.putMapped (x (Config.sliceWindow + 31 * 2 ^ 24 + 0x3FFFFF)) && s.putMapped (x (Config.sliceWindow + 31 * 2 ^ 24 + 0x3FFFFE)) && s.shaped &&
       decide (s.putCluster (x (Config.sliceWindow + 31 * 2 ^ 24)) = 31) &&
       (s.cluster 31).roomFor 0 (s.putLines (x (Config.sliceWindow + 31 * 2 ^ 24)))) = true ∧
    ((upLink (demoC id)).link 0).unacked.findIdx? (fun x => x.1 == 6) = none ∧ (demoC id).recov = false ∧
    ({ demoC id with recov := true } : State).recov = true := by decide +kernel

/-- Firmware from flash and from before, good, bad and rolled back; populations of the second tier; victims of each kind. -/
theorem witness_PackageSteps_errors :
    ({ State.reset.unpowered with fwGood := true } : State).power = false ∧ State.reset.unpowered.fwVersion = 0 ∧
    ({ State.reset.unpowered with rollback := 1 } : State).fwVersion < 1 ∧
    tierFrom [128, 128, 128] = 0 ∧ tierFrom [64, 128] = 0 ∧ tierFrom (List.replicate 8 128) = 2 ^ 40 ∧
    State.reset.shaped = true ∧ State.reset.power = true ∧
    (let s := State.reset.withFetchWord 64 0
     s.power && s.shaped && (s.group 0 0).any (fun g => decide (191 < g.nregs)) && s.grids.any (fun g => g.id == 0 && g.phase != .removing)) =
      true := by decide +kernel


/-! ## Single words against the chapters' worked values -/

/-- A demo device whose vector register `r` holds a value in every lane, for each pair of a list. -/
def vecs (l : List (Nat × Word)) (k : Core) : Core :=
  { k with regs := Store.writeAll [] (l.flatMap (fun x => (List.range 32).map (fun i => (x.1 / 16 * 512 + x.1 % 16 * 32 + i, x.2)))) }

/-- Vector register `r` of the group in a lane after one word. -/
def after (i : Instr) (s : State) (r l : Nat) : Option Word :=
  match exec i s with
  | .next t => (t.group 0 0).map (fun g => (t.core 0).readV 0 g r l)
  | _ => none

/-- spec/05_integer.md, the `prmt`, `fsh` and `bfx` examples. -/
theorem test_prmt : after (.prmt g0 .none (.v 3) (.v 1) (.v 2) (.v 4))
    (demoK (vecs [(1, 0x44332211), (2, 0x88776655), (4, 0x170F0400)])) 3 31 = some 0xFF115511 := by decide +kernel
theorem test_fsh : after (.fsh g0 .none (.v 4) (.v 5) (.v 2) (.s 3) false)
    (demoAll 0 (scal [(3, 30)]) (vecs [(2, 0xC0000000), (5, 1)]) id id) 4 0 = some 7 := by decide +kernel
theorem test_bfx : after (.bfx g0 .none (.v 3) (.v 2) (.imm 30 2) .n32) (demoK (vecs [(2, 0xC0000000)])) 3 0 = some 3 := by
  decide +kernel
/-- R132: the absolute value of the most negative number, as it is and saturated. -/
theorem test_iabs : after (.iabs g0 .none (.v 3) (.v 2) false) (demoK (vecs [(2, 0x80000000)])) 3 0 = some 0x80000000 ∧
    after (.iabs g0 .none (.v 3) (.v 2) true) (demoK (vecs [(2, 0x80000000)])) 3 0 = some 0x7FFFFFFF := by decide +kernel
/-- R61, R123: a guard's lanes alone are written; source and destination may be one register. -/
theorem test_guard : after (.iadd gp .none (.v 3) (.v 3) (.v 3) false .n32) (demoAll 0 (inP 2) (vecs [(3, 5)]) id id) 3 1 = some 10 ∧
    after (.iadd gp .none (.v 3) (.v 3) (.v 3) false .n32) (demoAll 0 (inP 2) (vecs [(3, 5)]) id id) 3 0 = some 5 := by
  decide +kernel
/-- R69: both halves read before either writes. -/
theorem test_pair_swaps : after (.movPair false { d := 2, b := .v 3, g := 0, hb := false }
    { op := .mov, r := { d := 3, b := .v 2, g := 0, hb := false } }) (demoK (vecs [(2, 7), (3, 9)])) 3 0 = some 7 := by decide +kernel

/-- R176: the worked K8 block with D = 4, and its words. -/
def kVals : List Word := [0x40400000, 0xBF400000, 0x3DCCCCCD, 0xBE4CCCCD, 0x3E800000, 0x3A800000] ++ List.replicate 26 0
theorem test_kpack_words : (List.range 9).map (fun i => (kWords (kEncode 8 4 none kVals).1).getD i 0) =
    [0x731ACCB0, 0x00000084, 0, 0, 0, 0, 0, 0, 0x0000807C] := by decide +kernel
theorem test_kpack_flags : (kEncode 8 4 none kVals).2 = flagNX := by decide +kernel
/-- R177: what the block decodes to. -/
theorem test_kunpk : (kDecode 8 (kEncode 8 4 none kVals).1).take 6 =
    [0x40400000, 0xBF400000, 0x3DD00000, 0xBE4C0000, 0x3E800000, 0] := by decide +kernel
/-- R198: `afrcp` of 2 + ε₁ has X = 2/3, C[1] = -1/9 and E = 2/9. -/
theorem test_afrcp : (qtyRcp { ctr := 0x40000000, rad := 0, terms := [(1, 0x3F800000)] }).any (fun q =>
    q.x.eq { num := 2, den := 3 } && q.e.eq { num := 2, den := 9 } &&
      q.c.all (fun t => t.1 == 1 && t.2.eq { num := -1, den := 9 })) = true := by decide +kernel
/-- R324: the CRC of the nine ASCII digits. -/
theorem test_crc : crc64 [0x31, 0x32, 0x33, 0x34, 0x35, 0x36, 0x37, 0x38, 0x39] = 0x62EC59E3F1A4F00A := by decide +kernel
/-- R20, R21: the worked register word (scheduler 2, physical block 7, register 3, lane 9). -/
theorem test_cell : 0x800000 + 4 * ({ Group.start demoGrid 7 0 0 true 0 [7] 0 with blocks := [7] } : Group).cell 8 3 9 = 0x8239A4 := by
  decide +kernel
/-- R158: the worked coverage fractions one half and one quarter. -/
theorem test_c16 : rneDiv 65535 2 = 0x8000 ∧ rneDiv 65535 4 = 0x4000 := by decide +kernel

/-- R2, R207: a word stored in the scratchpad, least significant byte first. -/
theorem test_store_bytes : (match exec (.st g0 .none (.s 1) (.s 0) 0 .sp .n32 0) (demoC (scal [(0, 8), (1, 0x11223344)])) with
    | .next t => Memory.bytes (t.core 0).sp 8 4
    | _ => []) = [0x44, 0x33, 0x22, 0x11] := by decide +kernel
/-- R344: a software trap enters its handler, with `TEPC` at the next word. -/
theorem test_trap_enters : (match exec (.trap g0 4) (demoAll 0 (fun g => { g with tvec := apBase }) (handlers [(classAt + 1, 1)]) id id) with
    | .next t => (t.group 0 0).any (fun g => g.atH && g.tepc == 8 && g.tcause == Causes.softwareTrap && g.tinfo == 4)
    | _ => false) = true := by decide +kernel
/-- R345: `tret` goes on at `TEPC`, at U. -/
theorem test_tret : (match exec (.tret g0) (demoC inHandler) with
    | .next t => (t.group 0 0).any (fun g => !g.atH && (g.split 0).any (fun sp => sp.pc == 0x40))
    | _ => false) = true := by decide +kernel
/-- R338: a handler's register is hidden at U. -/
theorem test_hidden_register : (match exec (.csrr g0 (.v 0) false 0x024)
      (demoAll 0 (fun g => { g with tvec := apBase }) (handlers [(1, 2)]) id id) with
    | .next t => (t.group 0 0).any (fun g => g.atH && g.tcause == Causes.privilege && g.tinfo == 0x024)
    | _ => false) = true := by decide +kernel
/-- R324: a raw flit's bytes are its header, its payload, and the CRC over both. -/
theorem test_raw_flit : (rawFlit 5 2 [9]).take 9 = [1, 0, 0x08, 0, 0x02, 0x50, 0x00, 0x01, 9] := by decide +kernel

end Sys2Proof.Tests
end

section
/-! SUPPORT. The integer, predicate and lane words (spec/05_integer.md): the shapes they share, and the values of their
operations as the rules of R130-R149 give them. -/

namespace Sys2Proof.Proofs.Integer

open Sys2Proof Sys2Proof.Machine

/-! ## Shapes

Each lemma takes the model's value function `w` first. That the instruction's arm of `exec` is this shape over `w`, and that the
value `v` stated for it is `w`'s, are computations unless an argument says otherwise. -/

/-- A word that always finishes and writes its destination gives the results `v`, when `v` is what it writes. -/
theorem results_of_runEff {i : Instr} {f : Form} {d : Reg} {v : Env → Nat → Word} (w : Env → Nat → Word)
    (hd : (d, 1) ∈ f.dsts ++ f.srcs) (hv : ∀ e l, v e l = w e l := by intros; rfl)
    (hi : ∀ s, exec i s = runEff f (fun e s => e.wr d (w e) s) s := by intros; rfl) : Results i f d v := by
  intro s e h
  have hvw : v = w := funext (fun e => funext (hv e))
  rw [hi, hvw]
  exact runEff_wrote h d w hd

/-- The destination of an arithmetic word is among its operands. -/
theorem mem_aluForm (g : Guard) (h : Hold) (d : Reg) (a b c : Option Reg) :
    (d, 1) ∈ (aluForm g h d a b c).dsts ++ (aluForm g h d a b c).srcs := List.mem_cons_self ..

section
variable {i : Instr} {g : Guard} {h : Hold} {d a b c : Reg} {v : Env → Nat → Word}

theorem alu1_results (w : Word → Word) (hv : ∀ e l, v e l = w (e.rd a l) := by intros; rfl)
    (hi : ∀ s, exec i s = alu1 g h d a w s := by intros; rfl) :
    Results i (aluForm g h d (some a) none none) d v :=
  results_of_runEff _ (mem_aluForm ..) hv hi

theorem alu2_results (w : Word → Word → Word) (hv : ∀ e l, v e l = w (e.rd a l) (e.rd b l) := by intros; rfl)
    (hi : ∀ s, exec i s = alu2 g h d a b w s := by intros; rfl) :
    Results i (aluForm g h d (some a) (some b) none) d v :=
  results_of_runEff _ (mem_aluForm ..) hv hi

theorem alu3_results (w : Word → Word → Word → Word)
    (hv : ∀ e l, v e l = w (e.rd a l) (e.rd b l) (e.rd c l) := by intros; rfl)
    (hi : ∀ s, exec i s = alu3 g h d a b c w s := by intros; rfl) :
    Results i (aluForm g h d (some a) (some b) (some c)) d v :=
  results_of_runEff _ (mem_aluForm ..) hv hi

/-- An immediate form has one register source (R58). -/
theorem aluI_results {imm : Word} (w : Word → Word → Word) (hv : ∀ e l, v e l = w (e.rd a l) imm := by intros; rfl)
    (hi : ∀ s, exec i s = aluI g d a imm w s := by intros; rfl) :
    Results i (aluForm g .none d (some a) none none) d v :=
  alu1_results _ hv hi
end

/-- A word that always finishes and writes a predicate gives the predicate `v`, when `v` is what it writes. -/
theorem predResults_of_runEff {i : Instr} {f : Form} {p : Fin 8} {v : Env → Nat → Bool} (w : Env → Nat → Bool)
    (hv : ∀ e l, v e l = w e l := by intros; rfl)
    (hi : ∀ s, exec i s = runEff f (fun e s => e.wrP p.val (w e) s) s := by intros; rfl) : PredResults i f p v := by
  intro s e h
  have hvw : v = w := funext (fun e => funext (hv e))
  rw [hi, hvw]
  exact runEff_wrotePred h p w

/-! ## Arithmetic (R130-R134) -/

theorem addVal_wrap (a b : Word) : addVal false .s32 a b = a + b := by
  simp [addVal, narrow, intVal, BitVec.ofInt_add]

theorem subVal_wrap (a b : Word) : subVal false .s32 a b = a - b := by
  refine BitVec.eq_of_toInt_eq ?_
  simp [subVal, narrow, intVal, BitVec.toInt_ofInt, BitVec.toInt_sub]

theorem mulVal_wrap (a b : Word) : mulVal false .s32 a b = a * b := by
  simp [mulVal, narrow, intVal, BitVec.ofInt_mul]

/-- The magnitude of a signed value. -/
theorem absVal_natAbs (sat : Bool) (a : Word) : absVal sat a = narrow sat .s32 a.toInt.natAbs := by
  have habs : (if a.toInt < 0 then -a.toInt else a.toInt) = a.toInt.natAbs := by split <;> omega
  rw [absVal, habs]

theorem intVal_inj (ty : IntTy) (a b : Word) : intVal ty a = intVal ty b ↔ a = b := by
  cases ty with
  | s32 => exact BitVec.toInt_inj
  | n32 => exact Int.ofNat_inj.trans BitVec.toNat_inj

/-! ## Shifts (R136): a count of 32 or more shifts everything out -/

theorem shlVal_eq (a n : Word) : shlVal a n = a <<< n.toNat := by
  unfold shlVal
  split
  · rfl
  · exact (BitVec.shiftLeft_eq_zero (by omega)).symm

theorem shrVal_eq (a n : Word) : shrVal a n = a >>> n.toNat := by
  unfold shrVal
  split
  · rfl
  · exact (BitVec.ushiftRight_eq_zero (by omega)).symm

theorem sarVal_eq (a n : Word) : sarVal a n = a.sshiftRight n.toNat := by
  unfold sarVal
  by_cases hn : n.toNat ≤ 32
  · rw [Nat.min_eq_left hn]
  · rw [Nat.min_eq_right (by omega)]
    refine BitVec.eq_of_getLsbD_eq (fun j hj => ?_)
    simp [BitVec.getLsbD_sshiftRight, show ¬ n.toNat + j < 32 by omega]

/-! ## Bit fields (R138) -/

/-- An unsigned field is what a shift to bit 0 and a cut to its width leave. -/
theorem bfxVal_n32 (a : Word) (p w : Nat) : bfxVal .n32 a (p, w) = ((a >>> p).setWidth w).setWidth 32 := by
  have hval : ((a.toNat : Int) / 2 ^ p % 2 ^ w) = ((a.toNat / 2 ^ p % 2 ^ w : Nat) : Int) := by push_cast; rfl
  refine BitVec.eq_of_toNat_eq ?_
  simp only [bfxVal, intVal, hval, BitVec.ofInt_natCast, BitVec.toNat_setWidth, BitVec.toNat_ushiftRight,
    Nat.shiftRight_eq_div_pow]
  split
  · rename_i hw
    simp [hw, Nat.mod_one]
  · exact BitVec.toNat_ofNat ..

/-- The balanced remainder by a power of two: from the half on it is negative. -/
theorem bmod_two_pow_succ (x : Int) (n : Nat) :
    x.bmod (2 ^ (n + 1)) =
      if x % 2 ^ (n + 1) ≥ 2 ^ n then x % 2 ^ (n + 1) - 2 ^ (n + 1) else x % 2 ^ (n + 1) := by
  have hhalf : ((2 : Int) ^ (n + 1) + 1) / 2 = 2 ^ n := by omega
  rw [Int.bmod_def]
  push_cast
  rw [hhalf]
  split <;> split <;> omega

/-- A signed field is what a shift to bit 0, a cut to its width and the extension of its sign leave. -/
theorem bfxVal_s32 (a : Word) (p w : Nat) (hw : w ≠ 0) :
    bfxVal .s32 a (p, w) = ((a.sshiftRight p).signExtend w).signExtend 32 := by
  have hcut : ((a.sshiftRight p).signExtend w).toInt = (a.toInt / 2 ^ p).bmod (2 ^ w) := by
    rw [BitVec.signExtend, BitVec.toInt_ofInt, BitVec.toInt_sshiftRight, Int.shiftRight_eq_div_pow]
    push_cast
    rfl
  rw [BitVec.signExtend, hcut]
  obtain ⟨n, rfl⟩ := Nat.exists_eq_succ_of_ne_zero hw
  rw [bmod_two_pow_succ]
  simp only [bfxVal, hw, if_false, intVal, Nat.succ_eq_add_one, Nat.add_sub_cancel]

/-- The bits of an unsigned field; above them zeros. -/
theorem bfxVal_n32_bits (a : Word) (p w : Nat) :
    bfxVal .n32 a (p, w) = LaneMask.ofFn (fun j => decide (j < w) && a.getLsbD (p + j)) := by
  rw [bfxVal_n32]
  refine BitVec.eq_of_getLsbD_eq (fun j hj => ?_)
  simp only [BitVec.getLsbD_setWidth, BitVec.getLsbD_ushiftRight, getLsbD_ofFn]

/-- The bits of a signed field; above them copies of its top bit. -/
theorem bfxVal_s32_bits (a : Word) (p w : Nat) :
    bfxVal .s32 a (p, w) = LaneMask.ofFn (fun j =>
      decide (w ≠ 0) && if p + min j (w - 1) < 32 then a.getLsbD (p + min j (w - 1)) else a.msb) := by
  refine BitVec.eq_of_getLsbD_eq (fun j hj => ?_)
  by_cases hw : w = 0
  · simp [bfxVal, hw]
  rw [bfxVal_s32 a p w hw, getLsbD_ofFn]
  have hbit : ∀ k, k < w → k < 32 → ((a.sshiftRight p).signExtend w).getLsbD k =
      if p + k < 32 then a.getLsbD (p + k) else a.msb := by
    intro k hk hk32
    rw [BitVec.getLsbD_signExtend, if_pos hk32, BitVec.getLsbD_sshiftRight]
    simp [hk, hk32]
  rw [BitVec.getLsbD_signExtend]
  by_cases hjw : j < w
  · rw [if_pos hjw, hbit j hjw hj, Nat.min_eq_left (by omega)]
    simp [hj, hw]
  · rw [if_neg hjw, BitVec.msb_eq_getLsbD_last, hbit (w - 1) (by omega) (by omega), Nat.min_eq_right (by omega)]
    simp [hj, hw]

/-! ## Counts and bytes (R139, R140) -/

theorem clzVal_eq (a : Word) : clzVal a = BitVec.ofNat 32 (32 - if a = 0 then 0 else Nat.log2 a.toNat + 1) := by
  unfold clzVal
  congr 1
  by_cases ha : a = 0
  · subst ha
    decide
  · have hpos : a.toNat ≠ 0 := fun h => ha (BitVec.eq_of_toNat_eq h)
    have hlog : a.toNat.log2 < 32 := (Nat.log2_lt hpos).2 a.isLt
    have hfind : (List.range 32).find? (fun j => a.getLsbD (31 - j)) = some (31 - a.toNat.log2) := by
      rw [List.find?_range_eq_some]
      refine ⟨?_, List.mem_range.2 (by omega), fun j hj => ?_⟩
      · rw [show 31 - (31 - a.toNat.log2) = a.toNat.log2 by omega]
        exact Nat.testBit_log2 hpos
      · have habove : a.getLsbD (31 - j) = false := Nat.testBit_lt_two_pow ((Nat.log2_lt hpos).1 (by omega))
        rw [habove]
        rfl
    rw [hfind, if_neg ha, Option.getD_some]
    omega

theorem brevVal_eq (a : Word) : brevVal a = a.reverse := by
  refine BitVec.eq_of_getLsbD_eq (fun j hj => ?_)
  rw [brevVal, getLsbD_ofFn, BitVec.getLsbD_reverse, BitVec.getMsbD]

/-- A result byte of `prmt`: the byte chosen, its bits reversed, its sign, or zero. -/
theorem prmtByte_eq (pool : Dword) (k : Byte) :
    prmtByte pool k =
      let q : Byte := pool.extractLsb' (8 * (k.extractLsb' 0 3).toNat) 8
      if k.extractLsb' 3 2 = 0 then q
      else if k.extractLsb' 3 2 = 1 then q.reverse
      else if k.extractLsb' 3 2 = 2 then (if q.msb then 0xFF else 0)
      else 0 := by
  have hm : ∀ m : BitVec 2, m = 0 ∨ m = 1 ∨ m = 2 ∨ m = 3 := by decide
  unfold prmtByte
  rcases hm (k.extractLsb' 3 2) with h | h | h | h <;> simp [h, BitVec.msb_eq_getLsbD_last]

/-! ## The source lane of a shuffle (R146) -/

/-- A lane outside the segment or the split is replaced by the reader's own. -/
theorem laneOr_eq (mask : LaneMask) (base w l : Nat) (x : Int) :
    (if x < base || ((base + w : Nat) : Int) ≤ x || !mask.getLsbD x.toNat then l else x.toNat) =
      if (base : Int) ≤ x ∧ x < base + w ∧ mask.getLsbD x.toNat = true then x.toNat else l := by
  by_cases h : (base : Int) ≤ x ∧ x < base + w ∧ mask.getLsbD x.toNat = true
  · rw [if_pos h, if_neg]
    obtain ⟨hlo, hhi, hmask⟩ := h
    simp only [hmask, Bool.not_true, Bool.or_false, Bool.or_eq_true, decide_eq_true_eq]
    push_cast
    omega
  · rw [if_neg h, if_pos]
    simp only [Bool.or_eq_true, decide_eq_true_eq, Bool.not_eq_true']
    by_contra hc
    simp only [not_or, Bool.not_eq_false] at hc
    obtain ⟨⟨hlo, hhi⟩, hmask⟩ := hc
    exact h ⟨by omega, by push_cast at hhi; omega, hmask⟩

/-! ## Special values (R149) -/

theorem splitList_length (g : Group) : g.splitList.length = g.splits.countP (fun o => o.isSome) :=
  List.length_filterMap_eq_countP ..

/-- A flag read as a number. -/
theorem ofNat_toNat_flag (b : Bool) : BitVec.ofNat 32 b.toNat = if b then 1 else 0 := by cases b <;> rfl

/-! ## A destination and a predicate written by one word (R131) -/

/-- A read through the block map depends on the register file, the map and the spill image alone. -/
theorem readV_congr {k k' : Core} {g g' : Group} (hspill : g.spill = g'.spill) (hblocks : g.blocks = g'.blocks)
    (hregs : k.regs = k'.regs) (slot r l : Nat) : k.readV slot g r l = k'.readV slot g' r l := by
  unfold Core.readV Group.cell
  rw [hspill, hblocks, hregs]

/-- What a word wrote does not depend on the splits and the readiness of its group. -/
theorem wrote_of_same {e : Env} {d : Reg} {v : Nat → Word} {fl : Flags} {s t t' : State} {g g' : Group}
    (hw : Wrote e d v fl s t g) (ho : OnlyGroup e s t' g') (hs : g.Same g')
    (hregs : (t.core e.core).regs = (t'.core e.core).regs) : Wrote e d v fl s t' g' where
  only := ho
  rest := by
    rw [← hw.rest, ← show { g with splits := g'.splits, wait := g'.wait } = g' from hs]
  flags := (same_fpflg hs).symm.trans hw.flags
  vector := fun hv l hl => (readV_congr (same_spill hs).symm (same_blocks hs).symm hregs.symm ..).trans (hw.vector hv l hl)
  scalar := fun n hn ha => (congrArg (·.getD n.val 0) (same_s hs).symm).trans (hw.scalar n hn ha)
  scalars := fun n hn => (congrArg (·.getD n 0) (same_s hs).symm).trans (hw.scalars n hn)
  cells := fun x hx => (congrArg (Store.read · x) hregs.symm).trans (hw.cells x hx)

theorem onlyGroup_writeV {e : Env} {s t : State} {g : Group} (h : OnlyGroup e s t g) (hspill : g.spill = none)
    (l : List (Nat × Nat × Word)) : OnlyGroup e s (t.writeV e.core e.slot l) g := by
  rw [writeV_regs h.group hspill]
  exact h.modRegs _

/-- A write of a destination changes the register file and the issuing group alone. -/
theorem onlyGroup_wr {e : Env} {s t : State} {g : Group} (h : OnlyGroup e s t g) (hspill : g.spill = none) (d : Reg)
    (v : Nat → Word) : ∃ g', OnlyGroup e s (e.wr d v t) g' := by
  cases d with
  | v n => exact ⟨g, onlyGroup_writeV h hspill _⟩
  | vi k => exact ⟨g, onlyGroup_writeV h hspill _⟩
  | s n =>
    simp only [Env.wr]
    split
    · exact ⟨g, h⟩
    · exact ⟨_, h.modGroup _⟩
  | c n => exact ⟨g, h⟩

/-- Writing the destination, before the word's end, does what `Wrote` says. -/
theorem wrote_before_end {f : Form} {e : Env} {s : State} (h : f.Ready e s) (d : Reg) (v : Nat → Word)
    (hd : (d, 1) ∈ f.dsts ++ f.srcs) : ∃ g, Wrote e d v 0 s (e.wr d v s) g := by
  obtain ⟨g, ho⟩ := onlyGroup_wr (OnlyGroup.refl h.of) h.resident d v
  obtain ⟨g', ho', hs, hregs⟩ := end_same f ho
  obtain ⟨g'', hw⟩ := wrote_wr h d v 0 hd (OnlyGroup.refl h.of) rfl (by simp) (by rw [← h.of.k])
  have hgg : g'' = g' := Option.some_inj.1 (hw.only.group.symm.trans ho'.group)
  exact ⟨g, wrote_of_same (hgg ▸ hw) ho hs hregs⟩

/-- A word that raised no flag changed nothing of its group but splits, readiness and scalar registers. -/
theorem rest_of_wrote_quiet {e : Env} {d : Reg} {v : Nat → Word} {s t : State} {g : Group} (hw : Wrote e d v 0 s t g) :
    { g with splits := e.g.splits, wait := e.g.wait, s := e.g.s } = e.g := by
  have hflags : g.fpflg = e.g.fpflg := hw.flags.trans (BitVec.or_zero ..)
  exact (congrArg (fun x : Group => { x with fpflg := g.fpflg }) hw.rest).trans (by rw [hflags])

@[simp] theorem setPred_s (g : Group) (k : Nat) (m v : LaneMask) : (g.setPred k m v).s = g.s := by
  unfold Group.setPred; split <;> rfl
@[simp] theorem setPred_spill (g : Group) (k : Nat) (m v : LaneMask) : (g.setPred k m v).spill = g.spill := by
  unfold Group.setPred; split <;> rfl
@[simp] theorem setPred_blocks (g : Group) (k : Nat) (m v : LaneMask) : (g.setPred k m v).blocks = g.blocks := by
  unfold Group.setPred; split <;> rfl

theorem preds_length {g : Group} (h : g.shaped = true) : g.p.length = 8 := by
  simp only [Group.shaped, Bool.and_eq_true, beq_iff_eq] at h
  omega

/-- What a write of a predicate in some lanes leaves in each lane of it. -/
theorem getLsbD_pred_setPred (g : Group) (k l : Nat) (m : LaneMask) (v : Nat → Bool) (hlen : k < g.p.length) (hk : k ≠ 0)
    (hl : l < 32) :
    ((g.setPred k m (LaneMask.ofFn v)).pred k).getLsbD l = if m.getLsbD l then v l else (g.pred k).getLsbD l := by
  rw [pred_setPred _ _ _ _ _ hlen, if_pos ⟨rfl, hk⟩]
  simp only [BitVec.getLsbD_or, BitVec.getLsbD_and, BitVec.getLsbD_not, getLsbD_ofFn, hl, decide_true, Bool.true_and]
  cases m.getLsbD l <;> simp

/-- A word wrote `v` to its destination `d` and `out` to the predicate `p`, both in the passing lanes, and changed nothing
else but its split's program counter, its latch records and its group's readiness. -/
structure WroteBoth (e : Env) (d : Reg) (p : Fin 8) (v : Nat → Word) (out : Nat → Bool) (s t : State) (g : Group) : Prop where
  only : OnlyGroup e s t g
  rest : { g with splits := e.g.splits, wait := e.g.wait, s := e.g.s, p := e.g.p } = e.g
  vector : Reg.isVec d = true → ∀ l ∈ e.lanes, (t.core e.core).readV e.slot g (e.vnum d l) l = v l
  scalar : ∀ n, d = .s n → e.act ≠ 0 → g.scalar n.val = v (LaneMask.lowest e.act)
  scalars : ∀ n : Nat, ¬ (e.act ≠ 0 ∧ ∃ m : Fin 24, d = .s m ∧ m.val = n) → g.scalar n = e.g.scalar n
  cells : ∀ a, ¬ e.owns d a → Store.read (t.core e.core).regs a = Store.read e.k.regs a
  pred : ∀ l, l < 32 → p.val ≠ 0 → (g.pred p.val).getLsbD l = if e.act.getLsbD l then out l else (e.g.pred p.val).getLsbD l
  others : ∀ q, q ≠ p.val ∨ q = 0 → g.pred q = e.g.pred q

/-- A word that always finishes and writes its destination and then a predicate. -/
theorem runEff_wroteBoth {f : Form} {e : Env} {s : State} (h : f.Ready e s) (d : Reg) (p : Fin 8) (v : Env → Nat → Word)
    (out : Env → Nat → Bool) (hd : (d, 1) ∈ f.dsts ++ f.srcs) :
    ∃ t g, runEff f (fun e s => e.wrP p.val (out e) (e.wr d (v e) s)) s = .next t ∧
      WroteBoth e d p (v e) (out e) s t g := by
  obtain ⟨g1, hw⟩ := wrote_before_end h d (v e) hd
  let g2 := g1.setPred p.val e.act (LaneMask.ofFn (out e))
  obtain ⟨g, ho, hs, hregs⟩ := end_same f (hw.only.modGroup (fun g => g.setPred p.val e.act (LaneMask.ofFn (out e))))
  have hp1 : g1.p = e.g.p := by
    have hp := congrArg Group.p (rest_of_wrote_quiet hw)
    exact hp
  have hpred1 : ∀ q, g1.pred q = e.g.pred q := fun q => by unfold Group.pred; rw [hp1]
  have hlen : p.val < g1.p.length := by
    rw [hp1, preds_length h.shaped]
    exact p.isLt
  have hpred : ∀ q, g.pred q = g2.pred q := fun q => by unfold Group.pred; rw [same_p hs]
  have hscalars : g.s = g1.s := (same_s hs).trans (setPred_s ..)
  have hspill : g.spill = g1.spill := (same_spill hs).trans (setPred_spill ..)
  have hblocks : g.blocks = g1.blocks := (same_blocks hs).trans (setPred_blocks ..)
  have hregs1 := hregs.trans (regs_modGroup (e.wr d (v e) s) _ _ _)
  have hrest : { g with splits := e.g.splits, wait := e.g.wait, s := e.g.s, p := e.g.p } = e.g :=
    calc { g with splits := e.g.splits, wait := e.g.wait, s := e.g.s, p := e.g.p }
      _ = { g2 with splits := e.g.splits, wait := e.g.wait, s := e.g.s, p := e.g.p } :=
        congrArg (fun x : Group => { x with splits := e.g.splits, wait := e.g.wait, s := e.g.s, p := e.g.p }) hs
      _ = { g1 with splits := e.g.splits, wait := e.g.wait, s := e.g.s, p := e.g.p } :=
        congrArg (fun x : Group => { x with splits := e.g.splits, wait := e.g.wait, s := e.g.s, p := e.g.p })
          (setPred_rest g1 p.val e.act (LaneMask.ofFn (out e)))
      _ = e.g := congrArg (fun x : Group => { x with p := e.g.p }) (rest_of_wrote_quiet hw)
  refine ⟨_, g, runEff_ready h _, ?_⟩
  exact {
    only := ho
    rest := hrest
    vector := fun hv l hl => (readV_congr hspill hblocks hregs1 ..).trans (hw.vector hv l hl)
    scalar := fun n hn ha => (congrArg (·.getD n.val 0) hscalars).trans (hw.scalar n hn ha)
    scalars := fun n hn => (congrArg (·.getD n 0) hscalars).trans (hw.scalars n hn)
    cells := fun x hx => (congrArg (Store.read · x) hregs1).trans (hw.cells x hx)
    pred := fun l hl hp => by rw [hpred, getLsbD_pred_setPred _ _ _ _ _ hlen hp hl, hpred1]
    others := fun q hq => by
      rw [hpred, pred_setPred _ _ _ _ _ hlen, if_neg (by omega), hpred1] }

/-- A carry form writes the exact result and whether it left the range (R131). -/
theorem runCarry_wroteBoth {g : Guard} {h : Hold} {d a b : Reg} {e : Env} {s : State}
    (hr : (aluForm g h d (some a) (some b) none).Ready e s) (ci : Option (Fin 8)) (co : Fin 8) (f : Int → Int → Int → Int)
    (out : Int → Bool) :
    let v := fun l => f (e.rd a l).toNat (e.rd b l).toNat (carryIn e ci l)
    ∃ t g', runCarry g h d a b ci co f out s = .next t ∧
      WroteBoth e d co (fun l => BitVec.ofInt 32 (v l)) (fun l => out (v l)) s t g' :=
  runEff_wroteBoth hr d co (fun e l => BitVec.ofInt 32 (f (e.rd a l).toNat (e.rd b l).toNat (carryIn e ci l)))
    (fun e l => out (f (e.rd a l).toNat (e.rd b l).toNat (carryIn e ci l))) (mem_aluForm ..)

end Sys2Proof.Proofs.Integer
end

section
/-! CERTIFICATE. The obligations about the integer, predicate and lane words (spec/05_integer.md). -/

namespace Sys2Proof.Proofs.Integer

open Sys2Proof Sys2Proof.Machine

/-- Settles O5: each word has one of the arithmetic shapes over a value function of the model, and that function is the rule's:
by definition, or by the lemma cited. -/
theorem integerResults : Obligations.IntegerResults := by
  unfold Obligations.IntegerResults
  intro g h d a b c imm sat right left ty p sh f1 f2 f3 fi
  refine ⟨?mov, ?movi, ?iadd, ?iaddImm, ?isub, ?isubImm, ?imul, ?imulImm, ?imulh, ?imad, ?imin, ?iminImm, ?imax, ?imaxImm,
    ?iabs, ?ineg, ?isel, ?lea, ?and, ?andImm, ?or, ?orImm, ?xor, ?xorImm, ?not, ?andn, ?andnImm, ?shl, ?shlImm, ?shr, ?shrImm,
    ?sar, ?sarImm, ?rot, ?rotImm, ?fsh⟩
  case mov => exact alu1_results id
  case movi => exact results_of_runEff (fun _ _ => imm) (mem_aluForm ..)
  case iadd => exact alu2_results (addVal sat ty)
  case iaddImm => exact aluI_results (addVal false .s32) (fun _ _ => (addVal_wrap _ _).symm)
  case isub => exact alu2_results (subVal sat ty)
  case isubImm => exact aluI_results (subVal false .s32) (fun _ _ => (subVal_wrap _ _).symm)
  case imul => exact alu2_results (mulVal sat ty)
  case imulImm => exact aluI_results (mulVal false .s32) (fun _ _ => (mulVal_wrap _ _).symm)
  case imulh => exact alu2_results (mulhVal ty)
  case imad => exact alu3_results (madVal sat ty)
  case imin => exact alu2_results (minVal ty)
  case iminImm => exact aluI_results (minVal .s32)
  case imax => exact alu2_results (maxVal ty)
  case imaxImm => exact aluI_results (maxVal .s32)
  case iabs => exact alu1_results (absVal sat) (fun _ _ => (absVal_natAbs _ _).symm)
  case ineg => exact alu1_results (negVal sat)
  case isel =>
    exact results_of_runEff (fun e l => if (e.g.pred p.val).getLsbD l then e.rd a l else e.rd b l) (mem_aluForm ..)
  case lea => exact alu2_results (leaVal sh.toNat)
  case and => exact alu2_results (· &&& ·)
  case andImm => exact aluI_results (· &&& ·)
  case or => exact alu2_results (· ||| ·)
  case orImm => exact aluI_results (· ||| ·)
  case xor => exact alu2_results (· ^^^ ·)
  case xorImm => exact aluI_results (· ^^^ ·)
  case not => exact alu1_results (~~~ ·)
  case andn => exact alu2_results (fun x y => x &&& ~~~y)
  case andnImm => exact aluI_results (fun x y => x &&& ~~~y)
  case shl => exact alu2_results shlVal (fun _ _ => (shlVal_eq _ _).symm)
  case shlImm => exact aluI_results shlVal (fun _ _ => (shlVal_eq _ _).symm)
  case shr => exact alu2_results shrVal (fun _ _ => (shrVal_eq _ _).symm)
  case shrImm => exact aluI_results shrVal (fun _ _ => (shrVal_eq _ _).symm)
  case sar => exact alu2_results sarVal (fun _ _ => (sarVal_eq _ _).symm)
  case sarImm => exact aluI_results sarVal (fun _ _ => (sarVal_eq _ _).symm)
  case rot => exact alu2_results (rotVal right)
  case rotImm => exact aluI_results (rotVal false)
  case fsh => exact alu3_results (fshVal left)

/-- Settles O6: the values of the bit-field, counting and byte-selection words agree with the rules bit by bit. -/
theorem bitResults : Obligations.BitResults := by
  unfold Obligations.BitResults
  intro g h d a b c r pos wm1 ty f1 f2 extract insert fp fw
  have hextract : ∀ x pw, extract x pw.1 pw.2 = bfxVal ty x pw := by
    intro x pw
    cases ty with
    | n32 => exact (bfxVal_n32_bits x pw.1 pw.2).symm
    | s32 => exact (bfxVal_s32_bits x pw.1 pw.2).symm
  have hinsert : ∀ x y pw, insert x y pw.1 pw.2 = bfiVal x y pw := by
    intro x y pw
    simp [insert, bfiVal]
  refine ⟨?bfxImm, ?bfxReg, ?bfiImm, ?bfiReg, ?popc, ?clz, ?brev, ?prmt⟩
  case bfxImm =>
    exact alu1_results (fun x => bfxVal ty x (fieldOf (.imm pos wm1) 0))
      (fun e l => hextract (e.rd a l) (fieldOf (.imm pos wm1) 0))
  case bfxReg =>
    exact alu2_results (fun x y => bfxVal ty x (fieldOf (.reg r) y))
      (fun e l => hextract (e.rd a l) (fieldOf (.reg r) (e.rd r l)))
  case bfiImm =>
    exact alu2_results (fun x y => bfiVal x y (fieldOf (.imm pos wm1) 0))
      (fun e l => hinsert (e.rd a l) (e.rd b l) (fieldOf (.imm pos wm1) 0))
  case bfiReg =>
    exact alu3_results (fun x y z => bfiVal x y (fieldOf (.reg r) z))
      (fun e l => hinsert (e.rd a l) (e.rd b l) (fieldOf (.reg r) (e.rd r l)))
  case popc => exact alu1_results popcVal
  case clz => exact alu1_results clzVal (fun _ _ => (clzVal_eq _).symm)
  case brev => exact alu1_results brevVal (fun _ _ => (brevVal_eq _).symm)
  case prmt =>
    refine alu3_results prmtVal (fun e l => ?_)
    simp only [prmtVal, prmtByte_eq]

/-- Settles O7: the carry forms write the exact sum or difference with the carry or borrow in, and its carry or borrow out. -/
theorem carryResults : Obligations.CarryResults := by
  unfold Obligations.CarryResults
  intro g h d a b ci co s e hr cin add sub did
  have did_of_wroteBoth : ∀ v out t g', WroteBoth e d co (fun l => BitVec.ofInt 32 (v l)) out s t g' → did v out t := by
    intro v out t g' hw
    exact ⟨g', hw.only, hw.rest, hw.vector, hw.scalar, hw.scalars, hw.cells, hw.pred, hw.others⟩
  refine ⟨?iaddc, ?isubb⟩
  case iaddc =>
    obtain ⟨t, g', ht, hw⟩ := runCarry_wroteBoth hr ci co (fun x y c => x + y + c) (fun t => decide (4294967296 ≤ t))
    exact ⟨t, ht, did_of_wroteBoth add _ t g' hw⟩
  case isubb =>
    obtain ⟨t, g', ht, hw⟩ := runCarry_wroteBoth hr ci co (fun x y c => x - y - c) (fun t => decide (t < 0))
    exact ⟨t, ht, did_of_wroteBoth sub _ t g' hw⟩

/-- Settles O8: each of the words writes the one predicate it names, with the rule's value in each lane. -/
theorem predicateResults : Obligations.PredicateResults := by
  unfold Obligations.PredicateResults
  intro g h a b p pa pb q cnd ty tt
  refine ⟨?icmp, ?pset, ?pmov, ?any, ?all, ?eq⟩
  case icmp =>
    refine predResults_of_runEff (fun e l => cmpVal cnd ty (e.rd a l) (e.rd b l)) (fun e l => ?_)
    cases cnd with
    | eq => exact decide_eq_decide.2 (intVal_inj ..)
    | ne => exact Bool.eq_iff_iff.2 (by simp [cmpVal, intVal_inj])
    | lt => rfl
    | le => rfl
    | gt => rfl
    | ge => rfl
  case pset =>
    exact predResults_of_runEff (fun e l =>
      tt.getLsbD (2 * ((e.g.pred pa.val).getLsbD l).toNat + ((e.g.pred pb.val).getLsbD l).toNat))
  case pmov => exact predResults_of_runEff (fun e l => e.rd a l != 0)
  case any => exact predResults_of_runEff (fun e _ => e.votes q != 0)
  case all => exact predResults_of_runEff (fun e _ => e.votes q == e.voters)
  case eq => exact predResults_of_runEff (fun e _ => e.votes q == e.voters || e.votes q == 0)

/-- Settles O9: each of the words writes the one register it names; a shuffle's source lane is the segment's or the
reader's own. -/
theorem laneResults : Obligations.LaneResults := by
  unfold Obligations.LaneResults
  intro g h d a b i p wid mode sel fd src special
  have hd : (d, 1) ∈ fd.dsts ++ fd.srcs := List.mem_cons_self ..
  have hsrc : src = fun e l x => shflSrc e.sp.mask (32 / 2 ^ wid.val) mode l x := by
    funext e l x
    cases mode <;> exact (laneOr_eq ..).symm
  have hspecial : ∀ e l, BitVec.ofNat 32 (special e l) = e.special sel l := by
    intro e l
    cases sel with
    | phase => exact ofNat_toNat_flag _
    | splits => exact congrArg (BitVec.ofNat 32) (splitList_length _).symm
    | helper => exact ofNat_toNat_flag _
    | xgrp => exact ofNat_toNat_flag _
    | _ => rfl
  clear_value src
  subst hsrc
  refine ⟨?ixset, ?tov, ?pack, ?shfl, ?shflx, ?bcast, ?ballot, ?cnt, ?rdsp, ?splitMask, ?splitCount,
    ?splitDepth, ?splitJoin⟩
  case ixset => exact results_of_runEff (fun e => e.g.idxReg i.val) hd
  case tov => exact results_of_runEff (fun e l => if (e.g.pred p.val).getLsbD l then 1 else 0) hd
  case pack => exact results_of_runEff Env.predByte hd
  case shfl =>
    exact results_of_runEff (fun e l => e.rd a (e.shflLane wid mode (fun _ => e.sc b) l)) (mem_aluForm g h d a b none)
  case shflx =>
    exact results_of_runEff (fun e l => e.rd a (e.shflLane wid mode (fun l => e.rd b l) l)) (mem_aluForm g h d a b none)
  case bcast => exact results_of_runEff (fun e _ => e.rd a (e.bcastLane b)) (mem_aluForm g h d a b none)
  case ballot => exact results_of_runEff (fun e _ => e.votes p) hd
  case cnt => exact results_of_runEff (fun e _ => popcVal (e.votes p)) hd
  case rdsp => exact results_of_runEff (fun e => e.special sel) hd hspecial
  case splitMask => exact results_of_runEff (fun e _ => e.sp.mask) hd
  case splitCount =>
    exact results_of_runEff (fun e _ => BitVec.ofNat 32 e.g.splitList.length) hd
      (fun e _ => congrArg (BitVec.ofNat 32) (splitList_length e.g).symm)
  case splitDepth => exact results_of_runEff (fun e _ => BitVec.ofNat 32 e.sp.stack.length) hd
  case splitJoin =>
    refine results_of_runEff (fun e _ => match e.sp.stack with
      | r :: _ => r.j
      | [] => 0xFFFFFFFF) hd (fun e _ => ?_)
    cases e.sp.stack <;> rfl

end Sys2Proof.Proofs.Integer
end
